-- ==== Sys2Proof/Word.lean ====
section
/-! DEFINITION. The byte, saturating addition, and tables of fixed length. -/

namespace Sys2Proof

/-- One byte of a frame, of a request or of the serial flash. -/
abbrev Byte := BitVec 8

/-- A count that saturates stays at the top of its range (00_scope, "Legalization and saturation"). -/
def satAdd (top a b : Nat) : Nat := min top (a + b)

/-- A value brought to the nearest value of its range (00_scope, "Legalization and saturation"). -/
def clamp (low high v : Nat) : Nat := min high (max low v)

/-- The table whose entry `i` is `f i`. -/
def tabulate {α : Type} {n : Nat} (f : Fin n → α) : Vector α n :=
  ⟨((List.finRange n).map f).toArray, by simp⟩

/-- The table `v` with entry `i` replaced. -/
def put {α : Type} {n : Nat} (v : Vector α n) (i : Fin n) (a : α) : Vector α n :=
  v.set i.val a i.isLt

/-- The table `v` with entry `i` changed by `f`. -/
def adjust {α : Type} {n : Nat} (v : Vector α n) (i : Fin n) (f : α → α) : Vector α n :=
  put v i (f (v.get i))

end Sys2Proof
end

