-- ==== Sys2Proof/Syntax.lean ====
section
/-! DEFINITION. The commands of the part: one constructor per row of spec/opcode_table.json, with its operands. -/

namespace Sys2Proof

/-- The seven ports (R111). The same type names the seven attention destinations: `tp` the trunk, `sp k` zone k (R162). -/
inductive Port where
  | tp
  | sp (k : Fin 6)
  deriving DecidableEq, Repr

/-- Where a pass scan came from, for its answer (R105): the arrival segment, the frame's source address and the payload's ride
number. -/
structure ScanOrigin where
  segment : Fin 6
  source : Nat
  ride : Nat
  deriving DecidableEq, Repr

/-- What the agent keeps of a request frame beside its code and arguments (R175): the source address the reply goes to, and the
request tag. -/
structure MgmtHeader where
  source : Nat
  tag : Nat
  deriving DecidableEq, Repr

/-- A lane action that the Scan Classifier hands on (R101 to R103). -/
inductive ScanAction where
  | countEntry (lane : Fin 64) (count : Nat)
  | countBoarding (lane : Fin 64) (count count2 : Nat)
  | passRequest (origin : ScanOrigin) (lane : Fin 64) (ticket party : Nat)
  | passReturn (origin : ScanOrigin) (lane : Fin 64) (ticket stamp receipt : Nat)
  | rideStatus (lane : Fin 64) (status : Nat)
  deriving DecidableEq, Repr

/-- The commands, in the order of spec/opcode_table.json.

`args` of a management request are the argument bytes of its payload, from byte 3 on (R197). The remaining operands are the flash
device's side of a step, and come from outside (log entry 7): how many bytes of the run that the port reads it gives before it stops
answering (`given`, and `header` for that of the probe, none where it gives no identification; the run's length or more for all of
them), and whether the bytes read back after a write equal the request's (`verified`). -/
inductive Instr where
  | powerReset
  | engineReset
  | segmentReset (k : Fin 6)
  | secondArrival
  | minuteBoundary
  | periodBoundary
  | clockEndLatch
  | frameReceive (port : Port) (bytes : List Byte)
  | routeFrame (port : Port)
  | countEntry (lane : Fin 64) (count : Nat)
  | countBoarding (lane : Fin 64) (count count2 : Nat)
  | passRequest (origin : ScanOrigin) (lane : Fin 64) (ticket party : Nat)
  | passReturn (origin : ScanOrigin) (lane : Fin 64) (ticket stamp receipt : Nat)
  | rideStatus (lane : Fin 64) (status : Nat)
  | setMode (header : MgmtHeader) (args : List Byte)
  | readTable (header : MgmtHeader) (args : List Byte)
  | writeTable (header : MgmtHeader) (args : List Byte)
  | openDay (header : MgmtHeader) (args : List Byte)
  | closeDay (header : MgmtHeader) (args : List Byte)
  | postGrants (header : MgmtHeader) (args : List Byte)
  | grantResolve
  | voidPass (header : MgmtHeader) (args : List Byte)
  | queryPass (header : MgmtHeader) (args : List Byte)
  | clearAttention (header : MgmtHeader) (args : List Byte)
  | injectNotice (header : MgmtHeader) (args : List Byte)
  | resetEngine (header : MgmtHeader) (segment : Byte)
  | resetSegment (header : MgmtHeader) (segment : Byte)
  | readStatus (header : MgmtHeader) (args : List Byte)
  | flashRead (header : MgmtHeader) (args : List Byte) (given : Nat)
  | flashWrite (header : MgmtHeader) (args : List Byte)
  | flashStatus (header : MgmtHeader) (args : List Byte)
  | flashWriteComplete (verified : Bool)
  | mgmtReplyOffer
  | boardFrameOffer (port : Port)
  | attnFrameOffer (destination : Port)
  | transmitStart (port : Port)
  | transmitComplete (port : Port)
  | loaderProbe (header : Option Nat)
  | loaderEntry (given : Nat)
  | resetInputAsserted
  deriving DecidableEq, Repr

end Sys2Proof
end

