-- ==== Sys2Proof/Decode.lean ====
section
/-! DEFINITION. Decoding of table words. The opcode table of this block gives no row any bits, so no word spells a command. -/

namespace Sys2Proof

/-- The command a word of `nbits` bits spells by the table's bits: none, since no row of spec/opcode_table.json has bits (every
row's "fields" is empty). The part's commands reach it as frames, time and pins. -/
def decodeTableWord (_nbits _w : Nat) : Option Instr := none

end Sys2Proof
end

