-- ==== Sys2Proof/Config.lean ====
section
/-! DEFINITION. The sizes the manual fixes, and the free values: what it leaves open, as constants without a body. -/

namespace Sys2Proof.Config

/-- Frames a receive queue holds (R111). -/
def rxCapacity : Nat := 24
/-- Frames a transmit queue holds (R111, R120). -/
def txCapacity : Nat := 48
/-- A transmit queue holding this many frames or more refuses a forwarded frame (R120). -/
def forwardLimit : Nat := 40
/-- Grants the Grant Ring holds (R55). -/
def ringCapacity : Nat := 512
/-- Records the Pass Register holds (R68). -/
def registerCapacity : Nat := 16384
/-- Windows a lane's list holds (R44). -/
def windowCapacity : Nat := 32
/-- The top of every 16-bit counter and tally (R6, R111). -/
def counterTop : Nat := 65535
/-- Operating second at which OPS stops (R150). -/
def lastSecond : Nat := 172799
/-- The last operating minute (R150). -/
def lastMinute : Nat := 2879
/-- Bytes of the image space of the serial flash (R184, R191). -/
def flashSize : Nat := 65536
/-- Values a READ_TABLE reply carries: 96 payload bytes less 12 (R194, R197, R201). -/
def readValues : Nat := 42
/-- Destination address of a broadcast (00_scope, "Terms"; R116). -/
def broadcast : Nat := 16383
/-- The longest payload of a frame (R194). -/
def maxPayload : Nat := 96

/-- FREE VALUE. The byte found at flash address `address` after the write numbered `draw` was abandoned there, which R185 calls
undefined, or completed there with the flag left clear, of which R185 does not say what it leaves (log entries 8 and 38). -/
opaque undefinedFlashByte (draw address : Nat) : Byte

/-- FREE VALUE. The byte at content position `position` of the reply to a refused request of code `code`, for a field to which
R196 gives no absent marker (log entry 9). -/
opaque unstatedReplyByte (code position : Nat) : Byte

/-- FREE VALUE. The code that LANE_LIVE shows for the last ride status "none": R200 and R201 list no code for it (log entry 10). -/
opaque noRideStatusCode : BitVec 16

end Sys2Proof.Config
end

