-- ==== Sys2Proof/Machine/State.lean ====
section
/-! DEFINITION. The state of the part, block by block, and the state right after a POWER reset. -/

namespace Sys2Proof.Machine

/-! ## Names the manual gives to fixed sets of values -/

/-- Lane modes (section 1.3). -/
inductive LaneMode where
  | closed | run | passOnly | standbyOnly | down
  deriving DecidableEq, Repr

/-- What a ride-control reader reports (R16). -/
inductive RideStatus where
  | up | fault
  deriving DecidableEq, Repr

/-- Values of a lane's auto-restart mode field (R2). -/
inductive AutoRestart where
  | none | run | passOnly | standbyOnly
  deriving DecidableEq, Repr

/-- Display kinds of a board line (R130). -/
inductive DisplayKind where
  | off | closed | down | passOnly | wait | held
  deriving DecidableEq, Repr

/-- States of a return window, derived and never stored (R45). -/
inductive WindowState where
  | future | current | grace
  deriving DecidableEq, Repr

/-- Field selectors of a classifier rule (R94, R96). -/
inductive Selector where
  | source | ride | port | ticketClass | party | roleHint
  deriving DecidableEq, Repr

/-- Operators of a classifier rule (R94, R96). -/
inductive Operator where
  | eq | ne | gt | lt
  deriving DecidableEq, Repr

/-- Actions of a classifier rule (R94). -/
inductive Action where
  | countEntry | countBoarding | passRequest | passReturn | rideStatus | passThrough | discard | refuseClass
  deriving DecidableEq, Repr

/-- Default actions of the park record (R95). -/
inductive DefaultAction where
  | passThrough | discard | byHint
  deriving DecidableEq, Repr

/-- Loader rates of the park record (R192). -/
inductive LoaderRate where
  | slow | fast
  deriving DecidableEq, Repr

/-- Day states (R145). -/
inductive DayState where
  | shut | opened
  deriving DecidableEq, Repr

/-- States of the Settings Loader (R188). -/
inductive LoaderState where
  | probing | loading | ready
  deriving DecidableEq, Repr

/-- Outcomes of a load (R188). -/
inductive LoaderOutcome where
  | absent | blank | loaded | truncated
  deriving DecidableEq, Repr

/-- Flash access states (R184). -/
inductive FlashAccess where
  | idle | busy | unverified
  deriving DecidableEq, Repr

/-- States of the Management Agent (R174). -/
inductive AgentMode where
  | idle | holding | resetting
  deriving DecidableEq, Repr

/-- Which producer put a frame into a transmit queue (R120, R121): `forwarded` is the Frame Router with a received frame, the
others generate frames; `engineReply` is the reply whose completed transmission starts an ENGINE reset (R182). -/
inductive Producer where
  | forwarded | answer | board | attention | reply | engineReply | linkReset
  deriving DecidableEq, Repr

/-- The ten attention kinds, in lead-priority order (R159). -/
inductive AttnKind where
  | imageFault | laneDown | registerFull | portOverrun | laneStale | countSkew | grantHeld | grantLow | clockEnd | zoneNotice
  deriving DecidableEq, Repr

/-! ## Lanes -/

/-- The configuration fields of a lane record, in the order of R2. -/
structure LaneConfig where
  ride : Nat
  nominalRate : Nat
  walkTime : Nat
  warmUpCount : Nat
  smoothing : Nat
  boardStep : Nat
  changeThreshold : Nat
  refreshCount : Nat
  windowLength : Nat
  firstStart : Nat
  grace : Nat
  earlyTolerance : Nat
  leadMinimum : Nat
  searchSpan : Nat
  grantLowMark : Nat
  staleLimit : Nat
  skewLimit : Nat
  autoDown : Bool
  autoRestart : AutoRestart
  deriving DecidableEq, Repr

/-- One return window (R44); `marked` is its protected mark. -/
structure Window where
  start : Nat
  capacity : Nat
  issued : Nat
  redeemed : Nat
  marked : Bool
  deriving DecidableEq, Repr

/-- A next return as boards carry it: absent, NONE, or a display minute (R129, R196). -/
inductive NextReturn where
  | absent | noWindow | minute (m : Nat)
  deriving DecidableEq, Repr

/-- What a board line shows beside its line number (R131). -/
structure LineContent where
  kind : DisplayKind
  posted : Option Nat
  next : NextReturn
  deriving DecidableEq, Repr

/-- A lane's publish state (R129). -/
structure PublishState where
  kind : DisplayKind
  lastPublished : Nat
  next : NextReturn
  refresh : Nat
  deriving DecidableEq, Repr

/-- The live fields of a lane (R6, R22) but for those of the publish state. -/
structure LaneLive where
  mode : LaneMode
  q : Nat
  entries : Nat
  bs : Nat
  bp : Nat
  skew : Nat
  r16 : Nat
  warm : Nat
  stalePeriods : Nat
  stale : Bool
  wRaw : Nat
  posted : Nat
  lastStatus : Option RideStatus
  noShow : Nat
  protectedRedeemed : Nat
  voidedInWindow : Nat
  clampedGrants : Nat
  staleGrants : Nat
  deriving DecidableEq, Repr

/-- A lane with what the blocks hold for it: configuration, live fields, publish state, window list, the GRANT_LOW condition as
last evaluated (R53), and whether COUNT_SKEW is latched for it (R30, R159). -/
structure Lane where
  config : LaneConfig
  live : LaneLive
  publish : PublishState
  windows : List Window
  grantLow : Bool
  countSkew : Bool
  deriving DecidableEq, Repr

/-! ## Grants and passes -/

/-- A capacity grant (section 3.5). -/
structure Grant where
  lane : Fin 64
  minute : Nat
  delta : Int
  deriving DecidableEq, Repr

/-- The Grant Ring (R55). `running` is set while a consumer run is in progress (R58). -/
structure GrantRing where
  grants : List Grant
  headHeld : Bool
  running : Bool
  deriving DecidableEq, Repr

/-- A pass record's state with the minute that state carries: the window start of an ISSUED or REDEEMED record, the protected
since of a PROTECTED one (R68). -/
inductive PassState where
  | issued (window : Nat)
  | redeemed (window : Nat)
  | carried (since : Nat)
  deriving DecidableEq, Repr

/-- A pass record (R68); state `carried` is PROTECTED. -/
structure PassRecord where
  ticket : Nat
  lane : Fin 64
  party : Nat
  state : PassState
  issuedAt : Nat
  deriving DecidableEq, Repr

/-! ## Tables -/

/-- The park record: the PARK table (R177, R201). -/
structure Park where
  period : Nat
  maxLateness : Nat
  passLimit : Nat
  defaultAction : DefaultAction
  centralAddress : Nat
  nodeAddress : Nat
  reload : Bool
  loaderRate : LoaderRate
  trunkEnables : BitVec 16
  deriving DecidableEq, Repr

/-- A classifier rule (R94). -/
structure Rule where
  enable : Bool
  chain : Bool
  selector : Selector
  operator : Operator
  mask : Nat
  value : Nat
  action : Action
  override : Option (Fin 64)
  hits : Nat
  deriving DecidableEq, Repr

/-- An address window of the Frame Router (R117). -/
structure AddressWindow where
  base : Nat
  limit : Nat
  enable : Bool
  deriving DecidableEq, Repr

/-- A segment record: the SEGMENT table (R201). -/
structure Segment where
  enable : Bool
  window1 : AddressWindow
  window2 : AddressWindow
  trim : Int
  stationAddress : Nat
  delegation : BitVec 16
  zoneEnables : BitVec 16
  deriving DecidableEq, Repr

/-- A board line with its pending update (R127, R135). -/
structure BoardLine where
  enable : Bool
  address : Nat
  line : Nat
  lane : Fin 64
  port : Port
  pending : Option LineContent
  deriving DecidableEq, Repr

/-! ## Ports -/

/-- A received frame with its receipt second (R115, R156). -/
structure RxFrame where
  bytes : List Byte
  receipt : Nat
  deriving DecidableEq, Repr

/-- A frame of a transmit queue with its producer (R120). -/
structure TxFrame where
  bytes : List Byte
  producer : Producer
  deriving DecidableEq, Repr

/-- The six counters of a port, in the order of R111. -/
structure PortCounters where
  received : Nat
  crcError : Nat
  lengthError : Nat
  overrun : Nat
  transmitted : Nat
  forwardDropped : Nat
  deriving DecidableEq, Repr

/-- A port (R111). `sending` is set while the head of the transmit queue is in transmission; `boardRuns` counts the runs of
offers the Board Publisher owes the port (R138). -/
structure PortState where
  rx : List RxFrame
  tx : List TxFrame
  sending : Bool
  counters : PortCounters
  boardRuns : Nat
  deriving DecidableEq, Repr

/-- The park counters that stand outside the ports: router (R119), classifier (R107), off-day scan (R22), bad-status (R16), park
stale-grant (R55), boards (R139), attention (R166, R169), management (R175, R176) and stamp conversion (R155). -/
structure Counters where
  forwarded : Nat
  noRoute : Nat
  hairpin : Nat
  misdirected : Nat
  malformedScan : Nat
  defaultTaken : Nat
  unmapped : Nat
  discarded : Nat
  classRefused : Nat
  answerDropped : Nat
  offDay : Nat
  badStatus : Nat
  staleGrants : Nat
  boardsQueued : Nat
  boardsRefused : Nat
  attnQueued : Nat
  attnRefused : Nat
  clearRefused : Nat
  malformedRequest : Nat
  replyRefused : Nat
  readerAhead : Nat
  lateClamped : Nat
  deriving DecidableEq, Repr

/-! ## Park Clock, attention, management, flash, loader -/

/-- A period boundary that has fallen: the OPS at which it fell and the period P then in force (R28, R151). -/
structure PeriodDue where
  ops : Nat
  period : Nat
  deriving DecidableEq, Repr

/-- The Park Clock (R145, R150, R153). `minutesDue`, `periodsDue` and `clockEndDue` are the boundaries and the stop that OPS has
reached and that the blocks have not taken yet, oldest first (R151, R152). -/
structure ParkClock where
  day : DayState
  ops : Nat
  dayOffset : Nat
  minutesDue : List Nat
  periodsDue : List PeriodDue
  clockEndDue : Bool
  deriving DecidableEq, Repr

/-- One visible kind of a report, with up to eight sources and the truncated flag (R164). -/
structure KindReport where
  kind : AttnKind
  sources : List Nat
  truncated : Bool
  deriving DecidableEq, Repr

/-- A destination's report: its visible kinds in priority order, and the notice code, 0 unless ZONE_NOTICE is visible (R164,
R197). -/
structure Report where
  kinds : List KindReport
  notice : Nat
  deriving DecidableEq, Repr

/-- An attention frame slot (R165). -/
inductive Slot where
  | empty
  | prepared (frame : List Byte)
  | queued
  deriving DecidableEq, Repr

/-- What the Attention Unit holds for one destination: the last report produced (R164), the slot (R165), and how many offers of a
PREPARED frame are owed (R166). -/
structure AttnPort where
  last : Report
  slot : Slot
  offersDue : Nat
  deriving DecidableEq, Repr

/-- The latched sources of the Attention Unit (R159, R161); those of COUNT_SKEW stand in the lanes. `overruns` is indexed by port
code, SP0 to SP5 and then TP (R200); `ports` likewise by destination. -/
structure Attention where
  imageFault : Bool
  registerFull : Bool
  clockEnd : Bool
  overruns : Vector Bool 7
  notices : Vector (Option Nat) 6
  ports : Vector AttnPort 7
  deriving DecidableEq, Repr

/-- A management request as its frame carries it (R175). -/
structure MgmtRequest where
  source : Nat
  tag : Nat
  code : Nat
  args : List Byte
  deriving DecidableEq, Repr

/-- A built reply that TP's queue has not admitted yet (R176). -/
structure HeldReply where
  frame : List Byte
  engine : Bool
  deriving DecidableEq, Repr

/-- The Management Agent (R174): its state, the request the router has handed it, the reply it holds, and how many offers of that
reply are owed (R176). -/
structure Agent where
  mode : AgentMode
  request : Option MgmtRequest
  reply : Option HeldReply
  offersDue : Nat
  deriving DecidableEq, Repr

/-- Memory of the serial flash as a list of address and byte pairs, strictly rising, none equal to the byte an unlisted address
reads as. -/
abbrev Memory := List Host.Cell

/-- The flash access state of the agent (R184), the write in progress (R185), and the contents of the serial flash device. -/
structure Flash where
  access : FlashAccess
  lastWriteOk : Bool
  offset : Nat
  length : Nat
  data : List Byte
  mem : Memory
  deriving DecidableEq, Repr

/-- The Settings Loader (R188): state, outcome, entry position, the entry count of the header, the two counters, and whether the
flash has stopped answering in this load (R191). -/
structure Loader where
  state : LoaderState
  outcome : LoaderOutcome
  position : Nat
  count : Nat
  skipped : Nat
  legalized : Nat
  silent : Bool
  deriving DecidableEq, Repr

/-! ## The state -/

/-- The state of the part.

`handed` holds the lane actions the Scan Classifier has handed on and no block has taken yet (R106). `engineResetDue` is set
once a cause of an ENGINE reset has reached the reset path (R124, R182). `segmentResetsDue` counts, for each segment, the resets
the agent has handed to its port (R182). `resetHeld` is set while the reset input is asserted (R187). `freeDraws` is the model's
own: how many free values the step has drawn (log entry 8). `pending` is the queue of commands waiting, first in first out. -/
structure State where
  resetHeld : Bool
  clock : ParkClock
  park : Park
  lanes : Vector Lane 64
  rules : Vector Rule 24
  segments : Vector Segment 6
  lines : Vector BoardLine 192
  ring : GrantRing
  register : List PassRecord
  ports : Vector PortState 7
  counters : Counters
  attn : Attention
  agent : Agent
  flash : Flash
  loader : Loader
  handed : List ScanAction
  engineResetDue : Bool
  segmentResetsDue : Vector Nat 6
  freeDraws : Nat
  pending : List Instr
  deriving DecidableEq, Repr

/-! ## Why a step stops -/

/-- Faults. There is none: the manual gives every command an effect in every state and names no condition that stops the part,
and every flash address a command reaches lies within the image space by the checks of R184, R185 and R191. -/
inductive Fault where
  deriving DecidableEq, Repr

/-- Refusals. -/
inductive Refusal where
  /-- Raised by an arm of `exec` whose command has no meaning yet. Safe: the model stops. No arm raises it. -/
  | notModelled (mnemonic : String)
  deriving DecidableEq, Repr

/-! ## Values after a POWER reset -/

/-- Default configuration of a lane (R2, R19). -/
def LaneConfig.default : LaneConfig where
  ride := 0
  nominalRate := 480
  walkTime := 0
  warmUpCount := 3
  smoothing := 4
  boardStep := 5
  changeThreshold := 5
  refreshCount := 5
  windowLength := 15
  firstStart := 0
  grace := 10
  earlyTolerance := 5
  leadMinimum := 10
  searchSpan := 4
  grantLowMark := 0
  staleLimit := 4
  skewLimit := 20
  autoDown := true
  autoRestart := .none

/-- Live fields of a lane after a POWER reset: 0, the flag clear, no ride status, mode CLOSED (R19, R41). -/
def LaneLive.default : LaneLive where
  mode := .closed
  q := 0
  entries := 0
  bs := 0
  bp := 0
  skew := 0
  r16 := 0
  warm := 0
  stalePeriods := 0
  stale := false
  wRaw := 0
  posted := 0
  lastStatus := none
  noShow := 0
  protectedRedeemed := 0
  voidedInWindow := 0
  clampedGrants := 0
  staleGrants := 0

/-- Publish state of a lane after a POWER reset (R142). -/
def PublishState.default : PublishState where
  kind := .off
  lastPublished := 0
  next := .absent
  refresh := 0

/-- A lane after a POWER reset (R19, R65, R142, R171). -/
def Lane.default : Lane where
  config := .default
  live := .default
  publish := .default
  windows := []
  grantLow := false
  countSkew := false

/-- The park record after a POWER reset (R95, R157, R171, R177); the trunk enable set is IMAGE_FAULT alone. -/
def Park.default : Park where
  period := 60
  maxLateness := 10
  passLimit := 2
  defaultAction := .byHint
  centralAddress := 256
  nodeAddress := 257
  reload := true
  loaderRate := .slow
  trunkEnables := 1

/-- A rule after a POWER reset (R94, R108). -/
def Rule.default : Rule where
  enable := false
  chain := false
  selector := .source
  operator := .eq
  mask := 0
  value := 0
  action := .passThrough
  override := none
  hits := 0

/-- An address window after a POWER reset (R117). -/
def AddressWindow.default : AddressWindow where
  base := 0
  limit := 0
  enable := false

/-- A segment record after a POWER reset (R126, R157, R171, R177). -/
def Segment.default : Segment where
  enable := false
  window1 := .default
  window2 := .default
  trim := 0
  stationAddress := 256
  delegation := 0
  zoneEnables := 0

/-- A board line after a POWER reset (R127, R142). -/
def BoardLine.default : BoardLine where
  enable := false
  address := 256
  line := 0
  lane := 0
  port := .tp
  pending := none

/-- Port counters at 0 (R123, R125, R126). -/
def PortCounters.zero : PortCounters where
  received := 0
  crcError := 0
  lengthError := 0
  overrun := 0
  transmitted := 0
  forwardDropped := 0

/-- A port after a POWER or ENGINE reset: both queues empty and the counters 0 (R125, R126). -/
def PortState.empty : PortState where
  rx := []
  tx := []
  sending := false
  counters := .zero
  boardRuns := 0

/-- The park counters at 0 (R201 and each block's reset rules). -/
def Counters.zero : Counters where
  forwarded := 0
  noRoute := 0
  hairpin := 0
  misdirected := 0
  malformedScan := 0
  defaultTaken := 0
  unmapped := 0
  discarded := 0
  classRefused := 0
  answerDropped := 0
  offDay := 0
  badStatus := 0
  staleGrants := 0
  boardsQueued := 0
  boardsRefused := 0
  attnQueued := 0
  attnRefused := 0
  clearRefused := 0
  malformedRequest := 0
  replyRefused := 0
  readerAhead := 0
  lateClamped := 0

/-- The report that names no kind (R164). -/
def Report.empty : Report where
  kinds := []
  notice := 0

/-- What the Attention Unit holds for a destination after a POWER or ENGINE reset (R171, R172). -/
def AttnPort.empty : AttnPort where
  last := .empty
  slot := .empty
  offersDue := 0

/-- The Attention Unit with nothing latched, no notice and no report (R171, R172). -/
def Attention.clear : Attention where
  imageFault := false
  registerFull := false
  clockEnd := false
  overruns := Vector.replicate 7 false
  notices := Vector.replicate 6 none
  ports := Vector.replicate 7 .empty

/-- The agent with no request in progress (R174, R186). -/
def Agent.idle : Agent where
  mode := .idle
  request := none
  reply := none
  offersDue := 0

/-- The flash access state after a POWER reset (R184, R186). The flash device lists nothing: it is erased (log entry 6). -/
def Flash.idle : Flash where
  access := .idle
  lastWriteOk := false
  offset := 0
  length := 0
  data := []
  mem := []

/-- The loader as a load over the defaults begins (R187, R188). -/
def Loader.starting : Loader where
  state := .probing
  outcome := .absent
  position := 0
  count := 0
  skipped := 0
  legalized := 0
  silent := false

/-- The Park Clock after a POWER reset (R157). -/
def ParkClock.stopped : ParkClock where
  day := .shut
  ops := 0
  dayOffset := 0
  minutesDue := []
  periodsDue := []
  clockEndDue := false

/-- The Grant Ring after a POWER reset (R65). -/
def GrantRing.empty : GrantRing where
  grants := []
  headHeld := false
  running := false

/-- The part right after a POWER reset: every block at its defaults, the day SHUT, every link held, and the loader PROBING (R187
and the reset rules of each chapter), with no command waiting. -/
def State.reset : State where
  resetHeld := false
  clock := .stopped
  park := .default
  lanes := Vector.replicate 64 .default
  rules := Vector.replicate 24 .default
  segments := Vector.replicate 6 .default
  lines := Vector.replicate 192 .default
  ring := .empty
  register := []
  ports := Vector.replicate 7 .empty
  counters := .zero
  attn := .clear
  agent := .idle
  flash := .idle
  loader := .starting
  handed := []
  engineResetDue := false
  segmentResetsDue := Vector.replicate 6 0
  freeDraws := 0
  pending := []

end Sys2Proof.Machine
end

