-- ==== Sys2Proof/Machine/Operands.lean ====
section
/-! DEFINITION. The forms in which values stand in frames, requests and tables: byte order, CRC, frame layout, codes. -/

namespace Sys2Proof.Machine

/-! ## Bytes and fields -/

/-- The low byte of a value. -/
def byteOf (n : Nat) : Byte := BitVec.ofNat 8 n

/-- A two-byte field, little-endian (chapter 12). -/
def le16 (n : Nat) : List Byte := [byteOf n, byteOf (n / 256)]

/-- A four-byte field, little-endian (chapter 12). -/
def le32 (n : Nat) : List Byte := [byteOf n, byteOf (n / 256), byteOf (n / 65536), byteOf (n / 16777216)]

/-- The value of a little-endian field. -/
def fromLe : List Byte → Nat
  | [] => 0
  | b :: bs => b.toNat + 256 * fromLe bs

/-- The value of the `width` bytes from `position` on; bytes that are not there read as 0. -/
def fieldAt (bs : List Byte) (position width : Nat) : Nat := fromLe ((bs.drop position).take width)

/-- A 16-bit two's complement value (R196). -/
def signed16 (v : Nat) : Int := if v < 32768 then v else (v : Int) - 65536

/-- An 8-bit two's complement value (R196). -/
def signed8 (v : Nat) : Int := if v < 128 then v else (v : Int) - 256

/-- The 16-bit two's complement code of a value (R196). -/
def unsigned16 (i : Int) : Nat := (i % 65536).toNat

/-- The code of a flag: 1 set, 0 clear (R200 for OFF and ON; for the other flags, log entry 17). -/
def flagCode (b : Bool) : Nat := if b then 1 else 0

/-! ## CRC -/

/-- One step of the CRC register over x^16 + x^12 + x^5 + 1, most significant bit first (R114, log entry 5). -/
def crcStep (c : BitVec 16) : BitVec 16 := if c.msb then (c <<< 1) ^^^ 0x1021#16 else c <<< 1

/-- The CRC register after one byte. -/
def crcByte (c : BitVec 16) (b : Byte) : BitVec 16 :=
  Nat.repeat crcStep 8 (c ^^^ (b.setWidth 16 <<< 8))

/-- The CRC-16 over the bytes in the order they are sent, the register starting at all ones (R114). -/
def crc16 (bs : List Byte) : BitVec 16 := bs.foldl crcByte 0xFFFF#16

/-! ## Frames (R194) -/

/-- Kind codes (R194). -/
def kindScan : Nat := 0x10
def kindAnswer : Nat := 0x11
def kindBoard : Nat := 0x12
def kindAttn : Nat := 0x13
def kindZoneClear : Nat := 0x14
def kindMgmtReq : Nat := 0x15
def kindMgmtReply : Nat := 0x16
def kindLinkReset : Nat := 0x1F

/-- The bytes of a generated frame: flags 0, the addresses in 14 bits, and the CRC over bytes 0 to 6 + length (R194, R195). -/
def buildFrame (kind destination source : Nat) (payload : List Byte) : List Byte :=
  let body := [byteOf kind, 0] ++ le16 (destination % 16384) ++ le16 (source % 16384) ++ [byteOf payload.length] ++ payload
  body ++ le16 (crc16 body).toNat

/-- The kind byte of a frame. -/
def frameKind (bs : List Byte) : Nat := fieldAt bs 0 1
/-- The destination: the low 14 bits of bytes 2 to 3 (R194, R195). -/
def frameDestination (bs : List Byte) : Nat := fieldAt bs 2 2 % 16384
/-- The source: the low 14 bits of bytes 4 to 5 (R194, R195). -/
def frameSource (bs : List Byte) : Nat := fieldAt bs 4 2 % 16384
/-- The length byte (R194). -/
def frameLength (bs : List Byte) : Nat := fieldAt bs 6 1
/-- The payload (R194). -/
def framePayload (bs : List Byte) : List Byte := (bs.drop 7).take (frameLength bs)

/-- The length check of R114. -/
def lengthFails (bs : List Byte) : Bool :=
  bs.length < 9 || Config.maxPayload < frameLength bs || bs.length != 9 + frameLength bs

/-- The CRC check of R114: the CRC bytes carry the result low byte first. -/
def crcFails (bs : List Byte) : Bool :=
  (crc16 (bs.take (bs.length - 2))).toNat != fieldAt bs (bs.length - 2) 2

/-! ## Ports and codes (R200) -/

/-- The port code of R200: SP0 to SP5 are 0 to 5, TP 6. -/
def portIndex : Port → Fin 7
  | .sp k => k.castLE (by decide)
  | .tp => 6

/-- The port a code names. -/
def portOfCode (c : Nat) : Option Port :=
  if h : c < 6 then some (.sp ⟨c, h⟩) else if c = 6 then some .tp else none

/-- TP and then SP0 to SP5: the order of the port sets of COUNTERS (R201) and of the sources of PORT_OVERRUN (R164). -/
def allPorts : List Port := .tp :: (List.finRange 6).map .sp

def modeCode : LaneMode → Nat
  | .closed => 0 | .run => 1 | .passOnly => 2 | .standbyOnly => 3 | .down => 4

def modeOfCode : Nat → Option LaneMode
  | 0 => some .closed | 1 => some .run | 2 => some .passOnly | 3 => some .standbyOnly | 4 => some .down | _ => none

def autoRestartCode : AutoRestart → Nat
  | .none => 0 | .run => 1 | .passOnly => 2 | .standbyOnly => 3

def autoRestartOfCode : Nat → AutoRestart
  | 1 => .run | 2 => .passOnly | 3 => .standbyOnly | _ => .none

/-- The mode an auto-restart mode names, NONE naming none (R18). -/
def AutoRestart.target : AutoRestart → Option LaneMode
  | .none => Option.none | .run => some .run | .passOnly => some .passOnly | .standbyOnly => some .standbyOnly

def displayCode : DisplayKind → Nat
  | .off => 0 | .closed => 1 | .down => 2 | .passOnly => 3 | .wait => 4 | .held => 5

def passStateCode : PassState → Nat
  | .issued _ => 1 | .redeemed _ => 2 | .carried _ => 3

def windowStateCode : WindowState → Nat
  | .future => 0 | .current => 1 | .grace => 2

def selectorCode : Selector → Nat
  | .source => 0 | .ride => 1 | .port => 2 | .ticketClass => 3 | .party => 4 | .roleHint => 5

def selectorOfCode : Nat → Selector
  | 1 => .ride | 2 => .port | 3 => .ticketClass | 4 => .party | 5 => .roleHint | _ => .source

def operatorCode : Operator → Nat
  | .eq => 0 | .ne => 1 | .gt => 2 | .lt => 3

def operatorOfCode : Nat → Operator
  | 1 => .ne | 2 => .gt | 3 => .lt | _ => .eq

def actionCode : Action → Nat
  | .countEntry => 0 | .countBoarding => 1 | .passRequest => 2 | .passReturn => 3 | .rideStatus => 4 | .passThrough => 5
  | .discard => 6 | .refuseClass => 7

def actionOfCode : Nat → Action
  | 0 => .countEntry | 1 => .countBoarding | 2 => .passRequest | 3 => .passReturn | 4 => .rideStatus | 6 => .discard
  | 7 => .refuseClass | _ => .passThrough

def defaultActionCode : DefaultAction → Nat
  | .passThrough => 0 | .discard => 1 | .byHint => 2

def defaultActionOfCode : Nat → DefaultAction
  | 0 => .passThrough | 1 => .discard | _ => .byHint

def loaderRateCode : LoaderRate → Nat
  | .slow => 0 | .fast => 1

def loaderRateOfCode : Nat → LoaderRate
  | 1 => .fast | _ => .slow

def dayCode : DayState → Nat
  | .shut => 0 | .opened => 1

def loaderStateCode : LoaderState → Nat
  | .probing => 0 | .loading => 1 | .ready => 2

def outcomeCode : LoaderOutcome → Nat
  | .absent => 0 | .blank => 1 | .loaded => 2 | .truncated => 3

def flashCode : FlashAccess → Nat
  | .idle => 0 | .busy => 1 | .unverified => 2

/-- The status codes of a ride-status scan (R197). -/
def rideStatusOfCode : Nat → Option RideStatus
  | 1 => some .up | 2 => some .fault | _ => none

/-- DESIGN CHOICE. The LANE_LIVE code of the last ride status, for which section 12.5 (R200) lists none: UP and FAULT have the codes of a
SCAN's status field (R197, log entry 40), and that of "none" is a free value (log entry 10). -/
def lastStatusCode : Option RideStatus → Nat
  | some .up => 1 | some .fault => 2 | none => Config.noRideStatusCode.toNat

/-- A next return as its two-byte field carries it (R196). -/
def nextReturnCode : NextReturn → Nat
  | .absent => 0xFFFF | .noWindow => 0xFFFE | .minute m => m

/-- A lane override as a field value: none is 0xFFFF (R200). -/
def overrideCode : Option (Fin 64) → Nat
  | none => 0xFFFF | some i => i.val

/-- Reply statuses (R200). -/
inductive Status where
  | ok | okLegalized | badRequest | badTable | badIndex | badField | refusedState | duplicate | notFound | busy | part
  deriving DecidableEq, Repr

/-- The code of a reply status (R200); `part` is PARTIAL. -/
def statusCode : Status → Nat
  | .ok => 0 | .okLegalized => 1 | .badRequest => 2 | .badTable => 3 | .badIndex => 4 | .badField => 5 | .refusedState => 6
  | .duplicate => 7 | .notFound => 8 | .busy => 9 | .part => 10

/-- Answer results (R200). -/
inductive AnswerResult where
  | issued | redeemed | noWindow | modeClosed | rideDown | alreadyHeld | limitReached | registerFull | dayShut | classRefused
  | badParty | unknownPass | otherRide | used | early
  deriving DecidableEq, Repr

/-- The code of an answer result (R200). -/
def answerResultCode : AnswerResult → Nat
  | .issued => 1 | .redeemed => 2 | .noWindow => 3 | .modeClosed => 4 | .rideDown => 5 | .alreadyHeld => 6
  | .limitReached => 7 | .registerFull => 8 | .dayShut => 9 | .classRefused => 10 | .badParty => 11 | .unknownPass => 12
  | .otherRide => 13 | .used => 14 | .early => 15

/-- The number of an attention kind: its priority (R159, R200). -/
def kindNumber : AttnKind → Nat
  | .imageFault => 1 | .laneDown => 2 | .registerFull => 3 | .portOverrun => 4 | .laneStale => 5 | .countSkew => 6
  | .grantHeld => 7 | .grantLow => 8 | .clockEnd => 9 | .zoneNotice => 10

/-- The ten kinds in lead-priority order (R159). -/
def allKinds : List AttnKind :=
  [.imageFault, .laneDown, .registerFull, .portOverrun, .laneStale, .countSkew, .grantHeld, .grantLow, .clockEnd, .zoneNotice]

/-- Whether a kind set names a kind: bit (kind number − 1) (R196). -/
def hasKind (set : BitVec 16) (k : AttnKind) : Bool := set.getLsbD (kindNumber k - 1)

/-- The kinds a zone may be delegated: LANE_DOWN, LANE_STALE, COUNT_SKEW and GRANT_LOW (R162). -/
def delegableKinds : BitVec 16 := 0x00B2#16
/-- The kinds of a zone enable set (R164). -/
def zoneKinds : BitVec 16 := 0x02B2#16
/-- The kinds of the trunk enable set: 1 to 9 (R164). -/
def trunkKinds : BitVec 16 := 0x01FF#16
/-- The bits of a kind set that name a kind; bits 10 to 15 are ignored (R196). -/
def namedKinds : BitVec 16 := 0x03FF#16

/-! ## Management requests (R175, R197) -/

/-- Request codes (R197). -/
def codeReadTable : Nat := 1
def codeWriteTable : Nat := 2
def codeSetMode : Nat := 3
def codeOpenDay : Nat := 4
def codeCloseDay : Nat := 5
def codePostGrants : Nat := 6
def codeVoidPass : Nat := 7
def codeQueryPass : Nat := 8
def codeClearAttention : Nat := 9
def codeInjectNotice : Nat := 10
def codeReset : Nat := 11
def codeFlashRead : Nat := 12
def codeFlashWrite : Nat := 13
def codeFlashStatus : Nat := 14
def codeReadStatus : Nat := 15

/-- Level codes of RESET (R197). -/
def levelEngine : Nat := 1
def levelSegment : Nat := 2

/-- The grants of a POST_GRANTS list, each of lane 1, minute 2 and delta 1 byte (R197), as raw lane, minute and delta. -/
def parseGrants : List Byte → List (Nat × Nat × Int)
  | l :: m0 :: m1 :: d :: rest => (l.toNat, m0.toNat + 256 * m1.toNat, signed8 d.toNat) :: parseGrants rest
  | _ => []

/-- The field and value pairs of a WRITE_TABLE, each of field 1 and value 2 bytes (R197). -/
def parsePairs : List Byte → List (Nat × Nat)
  | f :: v0 :: v1 :: rest => (f.toNat, v0.toNat + 256 * v1.toNat) :: parsePairs rest
  | _ => []

/-- Content bytes of a refused reply from position `position` on, for fields without an absent marker (R197, log entry 9). -/
def unstated (code position count : Nat) : List Byte :=
  (List.range count).map fun j => Config.unstatedReplyByte code (position + j)

/-- The absent marker of a one-byte lane, zone or failing-pair field (R196). -/
def absentByte : Byte := 0xFF#8

/-- The absent marker of a minute field (R196). -/
def absentMinute : Nat := 0xFFFF

end Sys2Proof.Machine
end

