-- ==== Sys2Proof/Machine/Ops.lean ====
section
/-! DEFINITION. The named operations over the parts of the state: lanes, ports, links, queues, counters, flash memory, time. -/

namespace Sys2Proof.Machine

/-! ## Access -/

/-- Lane `i`. -/
def State.lane (s : State) (i : Fin 64) : Lane := s.lanes.get i

/-- Lane `i` replaced. -/
def State.setLane (s : State) (i : Fin 64) (l : Lane) : State := { s with lanes := put s.lanes i l }

/-- Every lane replaced by the function's value at its index. -/
def State.setLanes (s : State) (f : Fin 64 → Lane) : State := { s with lanes := tabulate f }

/-- Segment record `k`. -/
def State.segment (s : State) (k : Fin 6) : Segment := s.segments.get k

/-- Segment record `k` replaced. -/
def State.setSegment (s : State) (k : Fin 6) (g : Segment) : State := { s with segments := put s.segments k g }

/-- Port `p`. -/
def State.port (s : State) (p : Port) : PortState := s.ports.get (portIndex p)

/-- Port `p` replaced. -/
def State.setPort (s : State) (p : Port) (q : PortState) : State := { s with ports := put s.ports (portIndex p) q }

/-- What the Attention Unit holds for destination `d`. -/
def State.attnPort (s : State) (d : Port) : AttnPort := s.attn.ports.get (portIndex d)

/-- What the Attention Unit holds for destination `d` replaced. -/
def State.setAttnPort (s : State) (d : Port) (a : AttnPort) : State :=
  { s with attn := { s.attn with ports := put s.attn.ports (portIndex d) a } }

/-- The park counters changed by `f`. -/
def State.count (s : State) (f : Counters → Counters) : State := { s with counters := f s.counters }

/-- A counter grows by 1, saturating at 65,535. -/
def inc (n : Nat) : Nat := satAdd Config.counterTop n 1

/-! ## Time (R150, R153) -/

/-- The operating minute, floor(OPS / 60). -/
def State.minute (s : State) : Nat := s.clock.ops / 60

/-- Whether the day is OPEN. -/
def State.dayOpen (s : State) : Bool := s.clock.day == .opened

/-- The display minute of operating minute `m` under a day offset (R153). -/
def displayMinute (dayOffset m : Nat) : Nat := (dayOffset / 60 + m) % 1440

/-! ## Lanes -/

/-- A lane is in use when its ride number is not 0 (R1). -/
def Lane.inUse (l : Lane) : Bool := l.config.ride != 0

/-- The open modes: RUN, PASS_ONLY and STANDBY_ONLY (section 1.3). -/
def LaneMode.isOpen : LaneMode → Bool
  | .run => true | .passOnly => true | .standbyOnly => true | .closed => false | .down => false

/-- The lane that holds a ride number; ride number 0 names none (R100). -/
def State.laneOfRide (s : State) (ride : Nat) : Option (Fin 64) :=
  if ride = 0 then none else (List.finRange 64).find? fun i => (s.lane i).config.ride == ride

/-! ## Windows -/

/-- A window's state at operating minute `n` under window length `len` (R45). -/
def Window.state (w : Window) (n len : Nat) : WindowState :=
  if n < w.start then .future else if n < w.start + len then .current else .grace

/-! ## Links and queues -/

/-- Whether the links can be up at all: the reset input is released and the loader is READY (R111, R187). -/
def State.inService (s : State) : Bool := !s.resetHeld && s.loader.state == .ready

/-- The enable of a port; TP counts as enabled at all times (R111). -/
def State.portEnabled (s : State) : Port → Bool
  | .tp => true
  | .sp k => (s.segment k).enable

/-- The link state UP of R111, decided by the loader, the port enable and the reset input. -/
def State.linkUp (s : State) (p : Port) : Bool := s.inService && s.portEnabled p

/-- How many frames a queue may hold for the offer of one more frame to be admitted (R120). -/
def admitLimit : Producer → Nat
  | .forwarded => Config.forwardLimit
  | _ => Config.txCapacity

/-- Whether port `p` admits a frame of this producer (R120). -/
def State.admits (s : State) (p : Port) (producer : Producer) : Bool :=
  s.linkUp p && decide ((s.port p).tx.length < admitLimit producer)

/-- A frame put at the tail of the transmit queue of `p`. -/
def State.enqueue (s : State) (p : Port) (f : TxFrame) : State :=
  s.setPort p { s.port p with tx := (s.port p).tx ++ [f] }

/-- Both queues of `p` flushed, the frame in transmission cut off; flushed frames grow no counter (R113, R123). The runs of
offers owed to the port end with it. -/
def State.flush (s : State) (p : Port) : State :=
  s.setPort p { s.port p with rx := [], tx := [], sending := false, boardRuns := 0 }

/-- The counters of port `p` changed by `f`. -/
def State.countPort (s : State) (p : Port) (f : PortCounters → PortCounters) : State :=
  s.setPort p { s.port p with counters := f (s.port p).counters }

/-- Another run of offers owed to port `p`, if its link is UP (R138). -/
def State.oweBoardRuns (s : State) (p : Port) (n : Nat) : State :=
  if s.linkUp p then s.setPort p { s.port p with boardRuns := (s.port p).boardRuns + n } else s

/-- A received frame offered to the queue of `p` as a forwarded frame: admitted and counted, or refused and counted
(R119, R120). -/
def State.forward (s : State) (p : Port) (bytes : List Byte) : State :=
  if s.admits p .forwarded then
    (s.enqueue p ⟨bytes, .forwarded⟩).count fun c => { c with forwarded := inc c.forwarded }
  else s.countPort p fun c => { c with forwardDropped := inc c.forwardDropped }

/-! ## Flash memory -/

/-- What an address that is not listed reads as: 0xFF, the byte of an erased flash (R189, log entry 6). -/
def erasedByte : Byte := 0xFF#8

/-- The byte at an address. -/
def Memory.read (m : Memory) (a : Nat) : Byte := ((m.find? fun c => c.1 == a).map Prod.snd).getD erasedByte

/-- The byte at an address replaced; the list stays strictly rising and lists no erased byte. -/
def Memory.write : Memory → Nat → Byte → Memory
  | [], a, b => if b = erasedByte then [] else [(a, b)]
  | (x, y) :: m, a, b =>
    if a < x then (if b = erasedByte then (x, y) :: m else (a, b) :: (x, y) :: m)
    else if a = x then (if b = erasedByte then m else (a, b) :: m)
    else (x, y) :: Memory.write m a b

/-- The bytes from address `a` on replaced. -/
def Memory.writeAll : Memory → Nat → List Byte → Memory
  | m, _, [] => m
  | m, a, b :: bs => Memory.writeAll (m.write a b) (a + 1) bs

/-- `n` bytes from address `a` on. -/
def Memory.readAll (m : Memory) (a n : Nat) : List Byte := (List.range n).map fun j => m.read (a + j)

/-- The addresses rise strictly from at least `low` on, every one lies in the image space, and no entry is an erased byte. -/
def Memory.wfFrom : Nat → Memory → Bool
  | _, [] => true
  | low, (a, b) :: m => low ≤ a && a < Config.flashSize && b != erasedByte && Memory.wfFrom (a + 1) m

/-- The one canonical form of the flash memory. -/
def Memory.wf (m : Memory) : Bool := Memory.wfFrom 0 m

/-- Free values for the bytes of the last accepted write's range, under the next draw (R185, log entries 8 and 38). -/
def State.undefinedBytes (s : State) : List Byte :=
  (List.range s.flash.length).map fun j => Config.undefinedFlashByte s.freeDraws (s.flash.offset + j)

/-- The bytes of the last accepted write's range become free values (R185, log entries 8 and 38). -/
def State.undefineRange (s : State) : State :=
  { s with
    flash := { s.flash with mem := s.flash.mem.writeAll s.flash.offset s.undefinedBytes }
    freeDraws := s.freeDraws + 1 }

/-- A write that a reset abandons: the bytes of its range become free values (R185). -/
def State.abandonWrite (s : State) : State := if s.flash.access = .busy then s.undefineRange else s

/-- The bytes the flash port gives of a run: those the device gives before it stops answering, `given` of them, and 0xFF from then on
(R184, R191). -/
def State.flashBytes (s : State) (given offset length : Nat) : List Byte :=
  s.flash.mem.readAll offset (min given length) ++ List.replicate (length - given) erasedByte

/-! ## Running a command -/

/-- A command's effect while the reset input is released; while it is asserted the part stays in POWER reset and nothing happens
(R187). -/
def whileReleased (s : State) (f : State → State) : Host.Outcome State Fault Refusal :=
  .next (if s.resetHeld then s else f s)

/-- A lane action's effect: the hand-off it answers is taken from the list, and the action takes effect while frames can reach
the part (R108, R187, log entries 2 and 4). -/
def takeAction (a : ScanAction) (s : State) (f : State → State) : Host.Outcome State Fault Refusal :=
  whileReleased s fun s => if s.inService then f { s with handed := s.handed.erase a } else s

end Sys2Proof.Machine
end

