-- ==== Sys2Proof/Machine/Calendar.lean ====
section
/-! DEFINITION. Return windows and the Grant Ring: building, search, retirement, protection, GRANT_LOW, grant resolution. -/

namespace Sys2Proof.Machine

/-! ## Building and reading the list -/

/-- A window as it is created (R44). -/
def newWindow (start : Nat) : Window := ⟨start, 0, 0, 0, false⟩

/-- At most `count` windows from `start` on, `len` apart, none starting after 2879 (R46). -/
def buildWindows : Nat → Nat → Nat → List Window
  | 0, _, _ => []
  | count + 1, start, len =>
    if start ≤ Config.lastMinute then newWindow start :: buildWindows count (start + len) len else []

/-- The list of a lane at OPEN_DAY; an unused lane gets none (R46). -/
def Lane.buildCalendar (l : Lane) : Lane :=
  { l with windows :=
      if l.inUse then buildWindows Config.windowCapacity l.config.firstStart l.config.windowLength else [] }

/-- Start of the oldest window. -/
def Lane.oldestStart (l : Lane) : Option Nat := l.windows.head?.map Window.start

/-- Start of the newest window. -/
def Lane.newestStart (l : Lane) : Option Nat := l.windows.getLast?.map Window.start

/-- The window of the list that starts at a minute. -/
def Lane.windowAt (l : Lane) (start : Nat) : Option Window := l.windows.find? fun w => w.start == start

/-- The window of the list starting at `start` changed by `f`. -/
def Lane.adjustWindow (l : Lane) (start : Nat) (f : Window → Window) : Lane :=
  { l with windows := l.windows.map fun w => if w.start = start then f w else w }

/-! ## Issuance search (R74, R75) -/

/-- The issuance target at operating minute `n`: RUN waits for the queue, PASS_ONLY for the lead minimum alone (R74). -/
def Lane.issuanceTarget (l : Lane) (n : Nat) : Nat :=
  if l.live.mode = .passOnly then n + l.config.leadMinimum else n + max l.config.leadMinimum l.live.wRaw

/-- The windows the search may examine before the span is counted (R75). -/
def Lane.searchFrom (l : Lane) (n target : Nat) : List Window :=
  match l.windows.head?, l.windows.getLast? with
  | some oldest, some newest =>
    if newest.start + l.config.windowLength ≤ target then []
    else if target < oldest.start then l.windows
    else
      match l.windows.dropWhile fun w => w.start + l.config.windowLength ≤ target with
      | [] => []
      | w :: after => if w.state n l.config.windowLength = .future then w :: after else after
  | _, _ => []

/-- The window a pass request for a party would be issued into at operating minute `n` (R75). -/
def Lane.findWindow (l : Lane) (n party : Nat) : Option Window :=
  ((l.searchFrom n (l.issuanceTarget n)).take l.config.searchSpan).find? fun w =>
    w.state n l.config.windowLength == .future && decide (w.issued + party ≤ w.capacity)

/-! ## GRANT_LOW (R53) -/

/-- Free seats of the FUTURE windows at operating minute `n`. -/
def Lane.futureSeats (l : Lane) (n : Nat) : Nat :=
  ((l.windows.filter fun w => w.state n l.config.windowLength == .future).map fun w => w.capacity - w.issued).sum

/-- The GRANT_LOW condition of a lane as an evaluation at operating minute `n` finds it. -/
def Lane.grantLowHolds (l : Lane) (n : Nat) : Bool :=
  l.inUse && (l.live.mode == .run || l.live.mode == .passOnly) && l.config.grantLowMark != 0 &&
    decide (l.futureSeats n < l.config.grantLowMark)

/-- GRANT_LOW evaluated: the lane keeps the value until the next evaluation. -/
def Lane.evaluateGrantLow (l : Lane) (n : Nat) : Lane := { l with grantLow := l.grantLowHolds n }

/-! ## The minute boundary (R47 to R52) -/

/-- Step 1 of R47: on a DOWN lane the windows becoming CURRENT at minute `n` get the protected mark. -/
def Lane.protectAt (l : Lane) (n : Nat) : List Window :=
  if l.live.mode = .down then l.windows.map fun w => if w.start = n then { w with marked := true } else w else l.windows

/-- Whether a window retires at the boundary at minute `n` (R49). -/
def Lane.retires (l : Lane) (n : Nat) (w : Window) : Bool :=
  decide (w.start + l.config.windowLength + l.config.grace ≤ n)

/-- The windows that retire at the boundary at minute `n`, oldest first, with the marks they retire with. -/
def Lane.retired (l : Lane) (n : Nat) : List Window := (l.protectAt n).filter (l.retires n)

/-- The windows appended after `count` retirements, each `len` after the newest, until a start would exceed 2879 (R52). -/
def appendedWindows : Nat → Nat → Nat → List Window
  | 0, _, _ => []
  | count + 1, newest, len =>
    if newest + len ≤ Config.lastMinute then newWindow (newest + len) :: appendedWindows count (newest + len) len else []

/-- The list after the boundary at minute `n`. -/
def Lane.windowsAfter (l : Lane) (n : Nat) : List Window :=
  (l.protectAt n).filter (fun w => !l.retires n w) ++
    match l.newestStart with
    | none => []
    | some newest => appendedWindows (l.retired n).length newest l.config.windowLength

/-- What the sweep makes of a record of a lane whose windows `gone` retire at minute `n` (R50, R83). -/
def sweepRecord (gone : List Window) (n : Nat) (r : PassRecord) : Option PassRecord :=
  match r.state with
  | .carried _ => some r
  | .redeemed w => if gone.any fun x => x.start == w then none else some r
  | .issued w =>
    match gone.find? fun x => x.start == w with
    | none => some r
    | some x => if x.marked then some { r with state := .carried n } else none

/-- Riders of the ISSUED records that the sweep of a lane's windows `gone` writes off as no-shows (R50). -/
def noShowRiders (gone : List Window) (register : List PassRecord) (i : Fin 64) : Nat :=
  ((register.filter fun r => decide (r.lane = i) &&
    match r.state with
    | .issued w => (gone.find? fun x => x.start == w).any fun x => !x.marked
    | _ => false).map PassRecord.party).sum

/-- A lane after the boundary at minute `n`, `noShows` riders having been written off (R47, R50, R53). -/
def Lane.minuteBoundary (l : Lane) (n noShows : Nat) : Lane :=
  ({ l with
      windows := l.windowsAfter n
      live := { l.live with noShow := satAdd Config.counterTop l.live.noShow noShows } } : Lane).evaluateGrantLow n

/-- Down entry's protection: every window CURRENT or in GRACE at minute `n` gets the mark (R48). -/
def Lane.protectRunning (l : Lane) (n : Nat) : List Window :=
  l.windows.map fun w => if w.state n l.config.windowLength = .future then w else { w with marked := true }

/-! ## The Grant Ring (R58 to R62) -/

/-- What becomes of a head grant (R59). -/
inductive Resolution where
  | discardUnused | discardStale | hold | apply (start : Nat)
  deriving DecidableEq, Repr

/-- The end of the last window a lane can ever hold: the last start F + k × L at or below 2879, plus L (R59). -/
def Lane.lastEnd (l : Lane) : Nat :=
  l.config.firstStart + (Config.lastMinute - l.config.firstStart) / l.config.windowLength * l.config.windowLength
    + l.config.windowLength

/-- The resolution of a head grant for minute `m` against its lane: the first row of R59 that applies. A lane in use with no
window at all, which no run reaches while the day is OPEN, holds the grant (log entry 20). -/
def Lane.resolve (l : Lane) (m : Nat) : Resolution :=
  if !l.inUse then .discardUnused
  else if decide (m < l.config.firstStart) || (l.oldestStart.any fun s => decide (m < s)) then .discardStale
  else if l.lastEnd ≤ m then .discardStale
  else
    match l.windows.find? fun w => decide (w.start ≤ m) && decide (m < w.start + l.config.windowLength) with
    | some w => .apply w.start
    | none => .hold

/-- A window's capacity under a grant of `delta` riders: C + d limited to issued to 4095 (R60). -/
def grantedCapacity (w : Window) (delta : Int) : Nat :=
  if (w.capacity : Int) + delta < w.issued then w.issued
  else if 4095 < (w.capacity : Int) + delta then 4095
  else ((w.capacity : Int) + delta).toNat

/-- Whether the clamp of R60 bites. -/
def clampBites (w : Window) (delta : Int) : Bool :=
  decide ((w.capacity : Int) + delta < w.issued) || decide (4095 < (w.capacity : Int) + delta)

/-- A grant applied to the window starting at `start`: its capacity changes, and the clamped-grant tally grows when the clamp
bites (R60). -/
def Lane.applyGrant (l : Lane) (start : Nat) (delta : Int) : Lane :=
  let bites := (l.windowAt start).any fun w => clampBites w delta
  let l := l.adjustWindow start fun w => { w with capacity := grantedCapacity w delta }
  if bites then { l with live := { l.live with clampedGrants := inc l.live.clampedGrants } } else l

/-- A grant discarded as stale for its lane: the lane's stale-grant tally grows (R61). -/
def Lane.staleGrant (l : Lane) : Lane := { l with live := { l.live with staleGrants := inc l.live.staleGrants } }

/-- The ring after its head has left it: the head-held flag is clear, and a run with nothing left ends (R58, R60, R61). -/
def GrantRing.leave (r : GrantRing) (rest : List Grant) : GrantRing :=
  { grants := rest, headHeld := false, running := r.running && !rest.isEmpty }

/-- One resolution of the head grant (R59 to R62). -/
def State.resolveHead (s : State) : State :=
  match s.ring.grants with
  | [] => { s with ring := { s.ring with running := false } }
  | g :: rest =>
    match (s.lane g.lane).resolve g.minute with
    | .discardUnused =>
      { s with
        ring := s.ring.leave rest
        counters := { s.counters with staleGrants := inc s.counters.staleGrants } }
    | .discardStale =>
      { s with
        ring := s.ring.leave rest
        lanes := put s.lanes g.lane (s.lane g.lane).staleGrant
        counters := { s.counters with staleGrants := inc s.counters.staleGrants } }
    | .hold => { s with ring := { s.ring with headHeld := true, running := false } }
    | .apply start =>
      { s with
        ring := s.ring.leave rest
        lanes := put s.lanes g.lane ((s.lane g.lane).applyGrant start g.delta) }

/-- A consumer run started: it is in progress while the day is OPEN and the ring holds a grant (R58). -/
def State.startRun (s : State) : State :=
  if s.dayOpen then { s with ring := { s.ring with running := !s.ring.grants.isEmpty } } else s

/-- A consumer run taken to its end, at most `fuel` resolutions (R58); as many as the ring holds grants are enough. -/
def State.consumeRun : State → Nat → State
  | s, 0 => s
  | s, fuel + 1 => if s.ring.running then s.resolveHead.consumeRun fuel else s

end Sys2Proof.Machine
end

