-- ==== Sys2Proof/Machine/Flags.lean ====
section
/-! DEFINITION. The Attention Unit: home segments, routing, pending sources, reports, slots and notices. -/

namespace Sys2Proof.Machine

/-! ## Address windows and home segments (R117, R122) -/

/-- Whether an address window contains an address: its enable is ON and base ≤ a ≤ limit (R117). -/
def AddressWindow.contains (w : AddressWindow) (a : Nat) : Bool := w.enable && decide (w.base ≤ a) && decide (a ≤ w.limit)

/-- Whether a counting window of the segment contains an address: the port enable is ON too (R117). -/
def Segment.counts (g : Segment) (a : Nat) : Bool := g.enable && (g.window1.contains a || g.window2.contains a)

/-- The home segment of a lane: the lowest segment with a counting window that contains its ride number; an unused lane has none
(R122). It is worked out from the tables as they stand, which is what working it out again at each write gives. -/
def State.homeSegment (s : State) (i : Fin 64) : Option (Fin 6) :=
  if (s.lane i).inUse then (List.finRange 6).find? fun k => (s.segment k).counts (s.lane i).config.ride else none

/-! ## Pending sources and their routes (R160 to R163) -/

/-- Whether a lane kind is pending for lane `i`; the conditions hold exactly while R160 says, and none for an unused lane. -/
def State.laneKindPending (s : State) (k : AttnKind) (i : Fin 64) : Bool :=
  match k with
  | .laneDown => (s.lane i).inUse && (s.lane i).live.mode == .down
  | .laneStale => s.dayOpen && (s.lane i).inUse && (s.lane i).live.stale
  | .countSkew => (s.lane i).countSkew
  | .grantLow => (s.lane i).grantLow
  | _ => false

/-- The destination a lane-kind source of lane `i` is routed to: zone k when the lane's home segment is SP k and zone k's
delegation set contains the kind, else the trunk (R162). -/
def State.laneRoute (s : State) (k : AttnKind) (i : Fin 64) : Port :=
  match s.homeSegment i with
  | some z => if hasKind (s.segment z).delegation k then .sp z else .tp
  | none => .tp

/-- The lanes pending for a lane kind and routed to `d`, in increasing index. -/
def State.pendingLanes (s : State) (k : AttnKind) (d : Port) : List Nat :=
  ((List.finRange 64).filter fun i => s.laneKindPending k i && decide (s.laneRoute k i = d)).map Fin.val

/-- The pending sources of a kind at a destination: none when the kind is not pending there, and an empty list for a pending kind
without a source list (R159, R162). -/
def State.pendingSources (s : State) (d : Port) (k : AttnKind) : Option (List Nat) :=
  match k with
  | .imageFault => if decide (d = .tp) && s.attn.imageFault then some [] else none
  | .registerFull => if decide (d = .tp) && s.attn.registerFull then some [] else none
  | .clockEnd => if decide (d = .tp) && s.attn.clockEnd then some [] else none
  | .grantHeld => if decide (d = .tp) && s.ring.headHeld then some [] else none
  | .portOverrun =>
    let ports := (allPorts.filter fun p => s.attn.overruns.get (portIndex p)).map fun p => (portIndex p).val
    if decide (d = .tp) && !ports.isEmpty then some ports else none
  | .zoneNotice =>
    match d with
    | .tp => none
    | .sp z => if (s.attn.notices.get z).isSome then some [] else none
  | k => let lanes := s.pendingLanes k d; if lanes.isEmpty then none else some lanes

/-! ## Reports (R164) -/

/-- The enable set of a destination. -/
def State.enableSet (s : State) : Port → BitVec 16
  | .tp => s.park.trunkEnables
  | .sp z => (s.segment z).zoneEnables

/-- The part of a report that one kind gives: up to eight sources, and the truncated flag when more are pending (R164). -/
def State.kindReport (s : State) (d : Port) (k : AttnKind) : Option KindReport :=
  if hasKind (s.enableSet d) k then
    (s.pendingSources d k).map fun l => ⟨k, l.take 8, decide (8 < l.length)⟩
  else none

/-- The notice code of a report: that of the zone when ZONE_NOTICE is visible, else 0 (R164, R197). -/
def State.reportNotice (s : State) : Port → Nat
  | .tp => 0
  | .sp z => if hasKind (s.segment z).zoneEnables .zoneNotice then (s.attn.notices.get z).getD 0 else 0

/-- The report of a destination as it stands (R164). -/
def State.report (s : State) (d : Port) : Report :=
  { kinds := allKinds.filterMap (s.kindReport d), notice := s.reportNotice d }

/-! ## Attention frames (R165, R166, R197) -/

/-- The station a destination's frames are addressed to (R166). -/
def State.attnAddress (s : State) : Port → Nat
  | .tp => s.park.centralAddress
  | .sp z => (s.segment z).stationAddress

/-- The bytes one visible kind takes in an ATTN payload (R197). -/
def kindReportBytes (r : KindReport) : List Byte :=
  [byteOf (kindNumber r.kind), byteOf (r.sources.length + if r.truncated then 128 else 0)] ++ r.sources.map byteOf

/-- The payload of an ATTN frame: lead kind, visible kind count, notice code, reserved, then each visible kind (R197). -/
def reportPayload (r : Report) : List Byte :=
  [byteOf ((r.kinds.head?.map fun k => kindNumber k.kind).getD 0), byteOf r.kinds.length, byteOf r.notice, 0]
    ++ r.kinds.flatMap kindReportBytes

/-- The ATTN frame of a destination's report, built under the addresses that stand (R166). -/
def State.attnFrame (s : State) (d : Port) (r : Report) : List Byte :=
  buildFrame kindAttn (s.attnAddress d) s.park.nodeAddress (reportPayload r)

/-- A waiting ATTN frame rewritten in place; the head is left alone while it is in transmission (R121, R165). -/
def rewriteWaiting (sending : Bool) (tx : List TxFrame) (bytes : List Byte) : List TxFrame :=
  let rewrite := fun f : TxFrame => if f.producer = .attention then { f with bytes := bytes } else f
  match sending, tx with
  | true, head :: rest => head :: rest.map rewrite
  | _, tx => tx.map rewrite

/-- The destination's current report produced into its slot, without an offer (R165): an EMPTY or PREPARED slot holds the new
frame, and the waiting frame of a QUEUED slot is rewritten in place. -/
def State.produceQuietly (s : State) (d : Port) : State :=
  let r := s.report d
  let frame := s.attnFrame d r
  let a := s.attnPort d
  match a.slot with
  | .queued =>
    (s.setPort d { s.port d with tx := rewriteWaiting (s.port d).sending (s.port d).tx frame }).setAttnPort d
      { a with last := r }
  | _ => s.setAttnPort d { a with last := r, slot := .prepared frame }

/-- An offer owed to a PREPARED slot (R166). -/
def State.oweOffer (s : State) (d : Port) : State :=
  match (s.attnPort d).slot with
  | .prepared _ => s.setAttnPort d { s.attnPort d with offersDue := (s.attnPort d).offersDue + 1 }
  | _ => s

/-- The current report produced. A frame newly PREPARED is offered at once if its link is UP (R165, R166); while the loader runs it
is offered as well, and refused, every link being HELD (R172, R193, log entry 11). -/
def State.produce (s : State) (d : Port) : State :=
  match (s.attnPort d).slot with
  | .empty =>
    let t := s.produceQuietly d
    if s.linkUp d || s.loader.state != .ready then t.oweOffer d else t
  | _ => s.produceQuietly d

/-- The report of a destination re-evaluated: produced when it differs from the last one produced (R164). -/
def State.evaluate (s : State) (d : Port) : State :=
  if s.report d = (s.attnPort d).last then s else s.produce d

/-- The reports of several destinations re-evaluated, one after another. -/
def State.evaluateEach (s : State) (ds : List Port) : State := ds.foldl State.evaluate s

/-- The four lane kinds (R159). -/
def laneKinds : List AttnKind := [.laneDown, .laneStale, .countSkew, .grantLow]

/-- The destinations that can be touched when each lane `i` gives the Unit the conditions and latches `given i` (R160 to R162,
R164). -/
def State.touched (s : State) (given : Fin 64 → List AttnKind) : List Port :=
  allPorts.filter fun d => (List.finRange 64).any fun i => (given i).any fun k => s.laneRoute k i == d

/-- The destinations whose pending lane sources differ between two states: those between which a write has moved sources
(R163). -/
def State.moved (s t : State) : List Port :=
  allPorts.filter fun d => laneKinds.any fun k => s.pendingLanes k d != t.pendingLanes k d

/-- GRANT_LOW, where the evaluation of a lane has changed it: the Unit is given the changes alone (R53, R160). -/
def changedGrantLow (old new : Lane) : List AttnKind := if old.grantLow = new.grantLow then [] else [.grantLow]

/-- COUNT_SKEW, where a lane has newly latched it (R30, R161). -/
def newCountSkew (old new : Lane) : List AttnKind := if old.countSkew = new.countSkew then [] else [.countSkew]

/-- GRANT_HELD given to the Unit at a change of the head-held flag since `old` (R62, R160). -/
def State.giveGrantHeld (old t : State) : State := if old.ring.headHeld = t.ring.headHeld then t else t.evaluate .tp

/-- The offers still owed to `d` as its link comes up belong to the time when it was HELD: each is refused (R120, R166, R172). -/
def State.refuseOwed (s : State) (d : Port) : State :=
  let t := s.setAttnPort d { s.attnPort d with offersDue := 0 }
  match (s.attnPort d).slot with
  | .prepared _ =>
    t.count fun c => { c with attnRefused := satAdd Config.counterTop c.attnRefused (s.attnPort d).offersDue }
  | _ => t

/-- The slot of a destination whose QUEUED frame a flush discards takes the current report, PREPARED (R113, R165, R173). -/
def State.requeueSlot (s : State) (d : Port) : State :=
  match (s.attnPort d).slot with
  | .queued => (s.setAttnPort d { s.attnPort d with slot := .empty }).produceQuietly d
  | _ => s

end Sys2Proof.Machine
end

