-- ==== Sys2Proof/Machine/Boards.lean ====
section
/-! DEFINITION. The Board Publisher: display kinds, line content, publishing, the publish check, and the link and port notices. -/

namespace Sys2Proof.Machine

/-! ## What a line shows (R129 to R132) -/

/-- The display kind of a lane; an unused lane has OFF (R130). -/
def Lane.displayKind (l : Lane) (dayOpen : Bool) : DisplayKind :=
  if !dayOpen || !l.inUse then .off
  else
    match l.live.mode with
    | .closed => .closed
    | .down => .down
    | .passOnly => .passOnly
    | .run => if l.live.stale then .held else .wait
    | .standbyOnly => if l.live.stale then .held else .wait

/-- Next return at operating minute `n`: the window a party of 1 would be issued into, as a display minute (R132). -/
def Lane.nextReturn (l : Lane) (dayOffset n : Nat) : NextReturn :=
  match l.findWindow n 1 with
  | some w => .minute (displayMinute dayOffset w.start)
  | none => .noWindow

/-- The next return a lane shows under a display kind: present for PASS_ONLY, and for WAIT on a RUN lane (R131). -/
def Lane.shownNext (l : Lane) (kind : DisplayKind) (dayOffset n : Nat) : NextReturn :=
  match kind with
  | .passOnly => l.nextReturn dayOffset n
  | .wait => if l.live.mode = .run then l.nextReturn dayOffset n else .absent
  | _ => .absent

/-- The content that a kind, a posted wait and a next return give a line (R131). -/
def contentOf (kind : DisplayKind) (posted : Nat) (next : NextReturn) : LineContent :=
  match kind with
  | .passOnly => ⟨kind, none, next⟩
  | .wait => ⟨kind, some posted, next⟩
  | .held => ⟨kind, some posted, .absent⟩
  | _ => ⟨kind, none, .absent⟩

/-- The current content of a line bound to the lane: from its publish state, and OFF for an unused lane and while the day is SHUT
(R129). -/
def Lane.currentContent (l : Lane) (dayOpen : Bool) : LineContent :=
  if dayOpen && l.inUse then contentOf l.publish.kind l.publish.lastPublished l.publish.next else ⟨.off, none, .absent⟩

/-- The current content of a line (R129). -/
def State.lineContent (s : State) (b : BoardLine) : LineContent := (s.lane b.lane).currentContent s.dayOpen

/-! ## Publishing (R133 to R135) -/

/-- A lane's publish state set from the content worked out at operating minute `n`, the refresh counter 0 (R135). -/
def Lane.published (l : Lane) (dayOpen : Bool) (dayOffset n : Nat) : Lane :=
  let kind := l.displayKind dayOpen
  { l with publish := ⟨kind, l.live.posted, l.shownNext kind dayOffset n, 0⟩ }

/-- The distance of two waits. -/
def distance (a b : Nat) : Nat := max a b - min a b

/-- Whether the publish check publishes a lane, its refresh counter having grown to `refresh` (R133). -/
def Lane.checkPublishes (l : Lane) (dayOpen : Bool) (dayOffset n refresh : Nat) : Bool :=
  let kind := l.displayKind dayOpen
  kind != l.publish.kind
    || ((kind == .wait || kind == .held) && decide (max l.config.changeThreshold 1 ≤ distance l.live.posted l.publish.lastPublished))
    || l.shownNext kind dayOffset n != l.publish.next
    || decide (l.config.refreshCount ≤ refresh)

/-- The refresh counter after step 1 of R133. -/
def Lane.grownRefresh (l : Lane) : Nat := satAdd 60 l.publish.refresh 1

/-- The publish check of a lane in use: the lane after it, and whether it was published (R133). -/
def Lane.publishCheck (l : Lane) (dayOpen : Bool) (dayOffset n : Nat) : Lane × Bool :=
  if l.checkPublishes dayOpen dayOffset n l.grownRefresh then (l.published dayOpen dayOffset n, true)
  else ({ l with publish := { l.publish with refresh := l.grownRefresh } }, false)

/-! ## Pending lines (R128, R135, R136, R141) -/

/-- Every enabled line of a selection marked pending with its current content, replacing what was pending. -/
def State.markLines (s : State) (select : BoardLine → Bool) : State :=
  { s with lines := tabulate fun j =>
      let b := s.lines.get j
      if b.enable && select b then { b with pending := some (s.lineContent b) } else b }

/-- How many lanes of a selection have an enabled line on port `p`: each publish makes a run of offers for each port of its lines
(R138). -/
def State.publishRuns (s : State) (select : Fin 64 → Bool) (p : Port) : Nat :=
  ((List.finRange 64).filter fun i => select i && s.lines.toList.any fun b => b.enable && b.lane == i && b.port == p).length

/-- Runs of offers owed to each port: `runs p` of them (R138). -/
def State.oweRuns (s : State) (runs : Port → Nat) : State :=
  allPorts.foldl (fun t p => t.oweBoardRuns p (runs p)) s

/-- The lines of the selected lanes marked pending with the content just published, and the runs of offers owed (R135, R138). -/
def State.markPublished (s : State) (select : Fin 64 → Bool) : State :=
  (s.markLines fun b => select b.lane).oweRuns (s.publishRuns select)

/-- Lane `i` published at once at operating minute `n` (R134, R135). -/
def State.publishLane (s : State) (i : Fin 64) (n : Nat) : State :=
  (s.setLane i ((s.lane i).published s.dayOpen s.clock.dayOffset n)).markPublished fun j => j == i

/-- Every lane in use published, and the enabled lines of unused lanes marked pending with OFF: OPEN_DAY and CLOSE_DAY (R136). R138
and R147 name no run of offers for those OFF lines: the marking of them makes one run for each port that has any (DESIGN CHOICE, log
entry 34). -/
def State.publishAll (s : State) : State :=
  let t := s.setLanes fun i =>
    let l := s.lane i
    if l.inUse then l.published s.dayOpen s.clock.dayOffset s.minute else l
  let unusedRuns := fun p =>
    if t.lines.toList.any fun b => b.enable && !(t.lane b.lane).inUse && b.port == p then 1 else 0
  let runs := fun p => t.publishRuns (fun i => (t.lane i).inUse) p + unusedRuns p
  (t.markLines fun _ => true).oweRuns runs

/-! ## Notices of the ports (R112, R121, R123) -/

/-- What a link-up notice and a reset notice of `p` share: its enabled lines are marked pending and a run of offers made on an UP
link, and its destination's current report is produced (R138, R141, R166). -/
def State.resend (s : State) (p : Port) : State := ((s.markLines fun b => b.port == p).oweBoardRuns p 1).produceQuietly p

/-- The link of `p` has come up: its lines and its report are sent again, the report offered (R112, R141, R166). -/
def State.linkUpNotice (s : State) (p : Port) : State := (s.resend p).oweOffer p

/-- The reset notice of `p`: its lines and its report are sent again, the report offered behind the LINK_RESET when the link is UP
(R123, R141, R173). -/
def State.resetNotice (s : State) (p : Port) : State := if s.linkUp p then s.linkUpNotice p else s.resend p

/-- A room notice of `p` to the Board Publisher and to the Attention Unit: a run of board offers if the link is UP, and an offer of a
PREPARED attention frame (R121, R138, R166). -/
def State.portNotice (s : State) (p : Port) : State := (s.oweBoardRuns p 1).oweOffer p

/-- The room notice of `p` at a completion: on TP the agent's held reply is offered too (R121, R176). -/
def State.roomNotice (s : State) (p : Port) : State :=
  let t := s.portNotice p
  if p = .tp ∧ t.agent.mode = .holding then { t with agent := { t.agent with offersDue := t.agent.offersDue + 1 } } else t

/-- The queues of a port flushed: a QUEUED slot takes the current report, PREPARED (R113, R165), and then the flush gives the notice
that a room notice gives (R121, log entry 16). -/
def State.flushPort (s : State) (p : Port) : State := ((s.flush p).requeueSlot p).portNotice p

/-- SP k disabled: both queues flushed, on a link now HELD (R113). -/
def State.disablePort (s : State) (k : Fin 6) : State := s.flushPort (.sp k)

/-- A LINK_RESET put into the transmit queue of `p` when its link is UP (R123). -/
def State.sendLinkReset (s : State) (p : Port) : State :=
  if s.linkUp p then s.enqueue p ⟨buildFrame kindLinkReset Config.broadcast s.park.nodeAddress [], .linkReset⟩ else s

/-- A segment reset of SP k (R123, R141, R173): queues flushed, counters 0, LINK_RESET queued when the link is UP, then the reset
notice to the Board Publisher and to the Attention Unit. -/
def State.resetSegmentPort (s : State) (k : Fin 6) : State :=
  ((((s.flushPort (.sp k)).countPort (.sp k) fun _ => .zero).sendLinkReset (.sp k)).resetNotice (.sp k))

end Sys2Proof.Machine
end

