-- ==== Sys2Proof/Machine/Estimator.lean ====
section
/-! DEFINITION. The Flow Estimator: counting, the rate sample, the wait computation and the period boundary procedure. -/

namespace Sys2Proof.Machine

/-! ## Counting (R24 to R26) -/

/-- Live fields after a COUNT_ENTRY of `c` riders (R24). -/
def LaneLive.countEntry (v : LaneLive) (c : Nat) : LaneLive :=
  { v with q := satAdd 65535 v.q c, entries := satAdd 65535 v.entries c }

/-- Live fields after a COUNT_BOARDING of `c` standby and `c2` pass riders (R25), with the stale clearing of R26 on an open
lane. -/
def LaneLive.countBoarding (v : LaneLive) (c c2 : Nat) : LaneLive :=
  let boarded : LaneLive :=
    { v with
      q := v.q - c
      skew := if v.q < c then satAdd 65535 v.skew (c - v.q) else v.skew
      bs := satAdd 65535 v.bs c
      bp := satAdd 65535 v.bp c2 }
  if v.mode.isOpen && decide (0 < c + c2) then { boarded with stalePeriods := 0, stale := false } else boarded

/-! ## The wait computation (R34 to R36) -/

/-- The effective rate E16 (R34). -/
def Lane.effectiveRate (l : Lane) : Nat :=
  if l.live.warm < l.config.warmUpCount then l.config.nominalRate else max l.live.r16 (l.config.nominalRate / 8)

/-- A number divided and rounded up. -/
def ceilDiv (a b : Nat) : Nat := (a + b - 1) / b

/-- The raw wait W_raw (R35). -/
def Lane.rawWait (l : Lane) : Nat := min 999 (ceilDiv (l.live.q * 16) l.effectiveRate + l.config.walkTime)

/-- The posted wait of a raw wait under a board step (R36). -/
def postedWait (rawWait step : Nat) : Nat := min 240 (ceilDiv rawWait step * step)

/-- W_raw and posted written together (R35, R36). -/
def Lane.computeWait (l : Lane) : Lane :=
  { l with live := { l.live with wRaw := l.rawWait, posted := postedWait l.rawWait l.config.boardStep } }

/-! ## The period boundary (R29 to R37) -/

/-- The rate sample of `bs` standby boardings in a period of `period` seconds (R32). -/
def rateSample (bs period : Nat) : Nat := min 65535 (bs * 960 / period)

/-- The smoothed rate after a sample under weight `w` (R33). -/
def smoothedRate (r16 sample w : Nat) : Nat :=
  ((r16 : Int) + Int.tdiv (((sample : Int) - (r16 : Int)) * (w : Int)) 16).toNat

/-- The skew check of an open lane (R30). -/
def Lane.checkSkew (l : Lane) : Lane :=
  { l with
    countSkew := l.countSkew || (l.config.skewLimit != 0 && decide (l.config.skewLimit < l.live.skew))
    live := { l.live with skew := 0 } }

/-- The staleness check of an open lane (R31). -/
def Lane.checkStale (l : Lane) : Lane :=
  if 0 < l.live.q ∧ l.live.bs + l.live.bp = 0 then
    let periods := satAdd 15 l.live.stalePeriods 1
    { l with live := { l.live with
        stalePeriods := periods
        stale := l.live.stale || decide (l.config.staleLimit ≤ periods) } }
  else { l with live := { l.live with stalePeriods := 0, stale := false } }

/-- Sample and smoothing of an open lane that is not stale (R32, R33). -/
def Lane.takeSample (l : Lane) (period : Nat) : Lane :=
  { l with live := { l.live with
      r16 := smoothedRate l.live.r16 (rateSample l.live.bs period) l.config.smoothing
      warm := satAdd 15 l.live.warm 1 } }

/-- The entries, Bs and Bp accumulators set to 0 (R37). -/
def LaneLive.startPeriod (v : LaneLive) : LaneLive := { v with entries := 0, bs := 0, bp := 0 }

/-- The estimator's procedure for one lane at a period boundary under period `period` (R29 to R37): skipped for an unused lane. -/
def Lane.periodBoundary (l : Lane) (period : Nat) : Lane :=
  if !l.inUse then l
  else if l.live.mode.isOpen then
    let l := l.checkSkew.checkStale
    let l := if l.live.stale then l else (l.takeSample period).computeWait
    { l with live := l.live.startPeriod }
  else { l with live := { l.live.startPeriod with skew := 0 } }

end Sys2Proof.Machine
end

