-- ==== Sys2Proof/Machine/Clock.lean ====
section
/-! DEFINITION. The Park Clock's seconds and boundaries, opening and closing the day, and the consumer's resolutions. -/

namespace Sys2Proof.Machine

/-! ## Seconds and boundaries (R28, R150 to R152) -/

/-- The clock after a second has brought OPS to `ops`, under period `period`: the boundaries that fall there are owed to their
blocks, and so is the CLOCK_END latch at 172,799. -/
def ParkClock.reach (c : ParkClock) (ops period : Nat) : ParkClock :=
  { c with
    ops := ops
    minutesDue := if ops % 60 = 0 then c.minutesDue ++ [ops / 60] else c.minutesDue
    periodsDue := if ops % period = 0 then c.periodsDue ++ [⟨ops, period⟩] else c.periodsDue
    clockEndDue := c.clockEndDue || ops == Config.lastSecond }

/-- A second arrives: OPS grows by 1 while the day is OPEN, up to 172,799 (R150). -/
def State.second (s : State) : State :=
  if s.dayOpen && decide (s.clock.ops < Config.lastSecond) then
    { s with clock := s.clock.reach (s.clock.ops + 1) s.park.period }
  else s

/-- Every lane's window list processed at the boundary of minute `n`, with the sweep of the retiring windows' records; a consumer
run is started, and the reports follow the changes of GRANT_LOW (R47, R53). -/
def State.minuteBoundary (s : State) (n : Nat) : State :=
  let gone := fun i : Fin 64 => (s.lane i).retired n
  let t := s.setLanes fun i => (s.lane i).minuteBoundary n (noShowRiders (gone i) s.register i)
  let t := { t with register := s.register.filterMap fun r : PassRecord => sweepRecord (gone r.lane) n r }
  t.startRun.evaluateEach (t.touched fun i => changedGrantLow (s.lane i) (t.lane i))

/-- A lane after a period boundary and its publish check, and whether the check published it (R29, R133). -/
def State.periodLane (s : State) (d : PeriodDue) (i : Fin 64) : Lane × Bool :=
  let l := (s.lane i).periodBoundary d.period
  if l.inUse then l.publishCheck s.dayOpen s.clock.dayOffset (d.ops / 60) else (l, false)

/-- Every lane's estimate processed at a period boundary, each lane in use handed to the publish check, and its mode and staleness to
the Attention Unit, with a COUNT_SKEW newly latched (R29, R30, R37). -/
def State.periodBoundary (s : State) (d : PeriodDue) : State :=
  let t := s.setLanes fun i => (s.periodLane d i).1
  (t.markPublished fun i => (s.periodLane d i).2).evaluateEach (t.touched fun i =>
    if (s.lane i).inUse then [.laneDown, .laneStale] ++ newCountSkew (s.lane i) (t.lane i) else [])

/-- SECOND_ARRIVAL (R150). -/
def execSecondArrival (s : State) : Host.Outcome State Fault Refusal := whileReleased s State.second

/-- MINUTE_BOUNDARY: the oldest minute boundary owed is taken, at its own minute (R47, R151). -/
def execMinuteBoundary (s : State) : Host.Outcome State Fault Refusal :=
  whileReleased s fun s =>
    match s.clock.minutesDue with
    | [] => s
    | n :: rest => State.minuteBoundary { s with clock := { s.clock with minutesDue := rest } } n

/-- PERIOD_BOUNDARY: the oldest period boundary owed is taken, at its own second (R29, R151). -/
def execPeriodBoundary (s : State) : Host.Outcome State Fault Refusal :=
  whileReleased s fun s =>
    match s.clock.periodsDue with
    | [] => s
    | d :: rest => State.periodBoundary { s with clock := { s.clock with periodsDue := rest } } d

/-- CLOCK_END_LATCH: OPS has reached 172,799 and CLOCK_END is latched (R152). -/
def execClockEndLatch (s : State) : Host.Outcome State Fault Refusal :=
  whileReleased s fun s =>
    if s.clock.clockEndDue then
      State.evaluate { s with clock := { s.clock with clockEndDue := false }, attn := { s.attn with clockEnd := true } } .tp
    else s

/-- GRANT_RESOLVE: one resolution of a consumer run in progress (R58, R59); the reports follow the head-held flag (R62). -/
def execGrantResolve (s : State) : Host.Outcome State Fault Refusal :=
  whileReleased s fun s => if s.ring.running then s.giveGrantHeld s.resolveHead else s

/-! ## Opening and closing the day (R146 to R149) -/

/-- The day offset stored for a written one (R146). -/
def storedOffset (w : Nat) : Nat := if w < 86400 then 60 * (w / 60) else 86340

/-- The five tallies of a lane set to 0 (R6, R147). -/
def LaneLive.clearTallies (v : LaneLive) : LaneLive :=
  { v with noShow := 0, protectedRedeemed := 0, voidedInWindow := 0, clampedGrants := 0, staleGrants := 0 }

/-- Steps 1 to 3 of OPEN_DAY: the clock started, the tallies 0, the window lists built (R147). -/
def State.dayBuilt (s : State) (offset : Nat) : State :=
  { s with
    clock := { s.clock with day := .opened, ops := 0, dayOffset := offset, minutesDue := [], periodsDue := [] }
    lanes := tabulate fun i => ({ s.lane i with live := (s.lane i).live.clearTallies } : Lane).buildCalendar }

/-- An accepted OPEN_DAY: steps 1 to 5 of R147, the consumer run taken to its end within the event. -/
def State.openDay (s : State) (offset : Nat) : State :=
  let t := (s.dayBuilt offset).startRun
  (t.giveGrantHeld (t.consumeRun t.ring.grants.length)).publishAll

/-- A lane after CLOSE_DAY: no window, the accumulators and the staleness state 0, GRANT_LOW not held (R40, R64, R149). -/
def Lane.dayClosed (l : Lane) : Lane :=
  { l with
    windows := []
    grantLow := false
    live := { l.live with entries := 0, bs := 0, bp := 0, skew := 0, stalePeriods := 0, stale := false } }

/-- Steps 1 to 4 of CLOSE_DAY: register, windows and ring emptied, the day SHUT, OPS and DO kept (R149). A boundary that has
fallen and was not taken falls away with the day (log entry 13). -/
def State.dayEmptied (s : State) : State :=
  { s with
    register := []
    ring := .empty
    lanes := tabulate fun i => (s.lane i).dayClosed
    clock := { s.clock with day := .shut, minutesDue := [], periodsDue := [] } }

/-- An accepted CLOSE_DAY (R149). Its publishes with OFF set the publish states of the lanes in use, which the rule also lists among what
is kept (DEDUCED, log entry 39). -/
def State.closeDay (s : State) : State := s.dayEmptied.publishAll.evaluateEach allPorts

/-- The lowest lane that is not CLOSED (R148). -/
def State.firstOpenLane (s : State) : Option (Fin 64) := (List.finRange 64).find? fun i => (s.lane i).live.mode != .closed

end Sys2Proof.Machine
end

