-- ==== Sys2Proof/Machine/Agent.lean ====
section
/-! DEFINITION. The Management Agent: taking a request, building a reply and offering it. -/

namespace Sys2Proof.Machine

/-- What carrying out a request gives: the state, the reply's status and content, and whether the reply is that of RESET ENGINE
(R181, R182). -/
structure Carried where
  state : State
  status : Status
  content : List Byte
  engine : Bool := false

/-- The payload of a MGMT_REPLY (R175, R197). -/
def replyPayload (req : MgmtRequest) (status : Status) (content : List Byte) : List Byte :=
  le16 req.tag ++ [byteOf req.code, byteOf (statusCode status)] ++ content

/-- A built reply offered to TP: the agent returns to IDLE, or enters RESETTING, when it is admitted, and HOLDING when it is
refused (R174, R176, R182). -/
def State.offerReply (s : State) (frame : List Byte) (engine : Bool) : State :=
  let producer := if engine then Producer.engineReply else Producer.reply
  if s.admits .tp producer then
    { s.enqueue .tp ⟨frame, producer⟩ with
      agent := ⟨if engine then .resetting else .idle, s.agent.request, none, 0⟩ }
  else
    { s with
      agent := ⟨.holding, s.agent.request, some ⟨frame, engine⟩, s.agent.offersDue⟩
      counters := { s.counters with replyRefused := inc s.counters.replyRefused } }

/-- A reply built under the node address that stands, addressed to the request's source, and offered (R175, R176). -/
def State.reply (s : State) (req : MgmtRequest) (status : Status) (content : List Byte) (engine : Bool) : State :=
  s.offerReply (buildFrame kindMgmtReply req.source s.park.nodeAddress (replyPayload req status content)) engine

/-- Whether the agent takes a request: TP's link is up, the agent is IDLE, and no other request is in progress (R115, R174). -/
def State.takesRequest (s : State) (req : MgmtRequest) : Bool :=
  s.linkUp .tp && s.agent.mode == .idle && (s.agent.request == none || s.agent.request == some req)

/-- A request taken and carried out, and its reply offered. A request the agent cannot take waits outside it: nothing happens
(R115, R174, log entries 2 and 4). The reply is offered within the request's own step, so before any attention or board frame that the
request starts on TP, whose offers are commands of their own; the manual allows either order (DESIGN CHOICE, log entry 36). -/
def takeRequest (req : MgmtRequest) (s : State) (carryOut : State → Carried) : Host.Outcome State Fault Refusal :=
  whileReleased s fun s =>
    if s.takesRequest req then
      let r := carryOut { s with agent := { s.agent with request := none } }
      r.state.reply req r.status r.content r.engine
    else s

/-- The request frame of a command: header, code and arguments. -/
def requestOf (h : MgmtHeader) (code : Nat) (args : List Byte) : MgmtRequest := ⟨h.source, h.tag, code, args⟩

/-- Whether the agent holds a request in progress: the router hands none over then (R115). -/
def Agent.busy (a : Agent) : Bool := a.mode != .idle || a.request.isSome

/-- A RESET whose payload length and level R182 and R175 let through. -/
def resetLevelOk (args : List Byte) : Bool :=
  args.length == 2 && (fieldAt args 0 1 == levelEngine || fieldAt args 0 1 == levelSegment)

/-- A request code of the fifteen requests (R175, R197). -/
def knownCode (code : Nat) : Bool := decide (1 ≤ code) && decide (code ≤ 15)

/-- A MGMT_REQ frame handed to the agent: dropped and counted when shorter than tag and code, answered BAD_REQUEST when no command
row stands for it (an unknown code, a RESET of no known level or of the wrong length), else in progress (R175, R182). -/
def State.handRequest (s : State) (bytes : List Byte) : State :=
  let payload := framePayload bytes
  if payload.length < 3 then s.count fun c => { c with malformedRequest := inc c.malformedRequest }
  else
    let req : MgmtRequest := ⟨frameSource bytes, fieldAt payload 0 2, fieldAt payload 2 1, payload.drop 3⟩
    if !knownCode req.code then s.reply req .badRequest [] false
    else if req.code = codeReset ∧ !resetLevelOk req.args then
      s.reply req .badRequest (unstated codeReset 0 2) false
    else { s with agent := { s.agent with request := some req } }

end Sys2Proof.Machine
end

