-- ==== Sys2Proof/Machine/Register.lean ====
section
/-! DEFINITION. The Pass Register: records and keys, issuance, redemption, stamp conversion, voiding, listing, and answers. -/

namespace Sys2Proof.Machine

/-! ## Records and keys (R68 to R70) -/

/-- The place of a key (ticket id, lane) in the order the register is kept in: by ticket, then by lane. -/
def passKey (ticket : Nat) (lane : Fin 64) : Nat := ticket * 64 + lane.val

/-- The key of a record (R68). -/
def PassRecord.key (r : PassRecord) : Nat := passKey r.ticket r.lane

/-- Live: ISSUED or PROTECTED (R69). -/
def PassRecord.isLive (r : PassRecord) : Bool :=
  match r.state with
  | .redeemed _ => false
  | .issued _ => true
  | .carried _ => true

/-- The window start of a record, absent when it is PROTECTED (R68). -/
def PassRecord.windowStart (r : PassRecord) : Option Nat :=
  match r.state with
  | .issued w => some w
  | .redeemed w => some w
  | .carried _ => none

/-- The record with a key (R68). -/
def findRecord (register : List PassRecord) (ticket : Nat) (lane : Fin 64) : Option PassRecord :=
  register.find? fun r => r.key == passKey ticket lane

/-- A record put in its place. -/
def insertRecord (register : List PassRecord) (r : PassRecord) : List PassRecord :=
  match register with
  | [] => [r]
  | x :: rest => if r.key < x.key then r :: x :: rest else x :: insertRecord rest r

/-- The record with a key removed. -/
def removeRecord (register : List PassRecord) (ticket : Nat) (lane : Fin 64) : List PassRecord :=
  register.filter fun r => r.key != passKey ticket lane

/-- The record with a key given a new state. -/
def restateRecord (register : List PassRecord) (ticket : Nat) (lane : Fin 64) (st : PassState) : List PassRecord :=
  register.map fun r => if r.key = passKey ticket lane then { r with state := st } else r

/-- The live count of a ticket (R69). -/
def liveCount (register : List PassRecord) (ticket : Nat) : Nat :=
  (register.filter fun r => r.ticket == ticket && r.isLive).length

/-- The records held in the state with a code: the state counts of R70. -/
def countState (register : List PassRecord) (code : Nat) : Nat :=
  (register.filter fun r => passStateCode r.state == code).length

/-- The lowest-indexed other lane on which a ticket holds a live record (R77). -/
def otherLiveLane (register : List PassRecord) (ticket : Nat) (lane : Fin 64) : Option (Fin 64) :=
  (List.finRange 64).find? fun j => j != lane && register.any fun r => r.key == passKey ticket j && r.isLive

/-! ## Answers (R77, R105, R197) -/

/-- The content of an answer beside the scan's own fields (R77). -/
structure Answer where
  result : AnswerResult
  window : Option (Nat × Nat)
  party : Option Nat
  otherRide : Option Nat
  deriving DecidableEq, Repr

/-- An answer that carries its result alone (R77). -/
def Answer.bare (r : AnswerResult) : Answer := ⟨r, none, none, none⟩

/-- Start and end of a window as display minutes (R77). -/
def State.displayWindow (s : State) (lane : Fin 64) (start : Nat) : Nat × Nat :=
  (displayMinute s.clock.dayOffset start,
    displayMinute s.clock.dayOffset (start + (s.lane lane).config.windowLength))

/-- An answer with a record's party, and its window unless it is PROTECTED (R77). -/
def State.recordAnswer (s : State) (result : AnswerResult) (r : PassRecord) : Answer :=
  ⟨result, r.windowStart.map (s.displayWindow r.lane), some r.party, none⟩

/-- The payload of an ANSWER; absent content is sent as its marker (R105, R196, R197). -/
def answerPayload (ticket ride : Nat) (a : Answer) : List Byte :=
  le32 ticket ++ [byteOf ride, byteOf (answerResultCode a.result)]
    ++ le16 ((a.window.map Prod.fst).getD absentMinute) ++ le16 ((a.window.map Prod.snd).getD absentMinute)
    ++ [byteOf (a.party.getD 0), byteOf (a.otherRide.getD 0)]

/-- An answer offered to the arrival port, or dropped and counted (R105). -/
def State.sendAnswer (s : State) (o : ScanOrigin) (ticket : Nat) (a : Answer) : State :=
  let p := Port.sp o.segment
  if s.admits p .answer then
    s.enqueue p ⟨buildFrame kindAnswer o.source s.park.nodeAddress (answerPayload ticket o.ride a), .answer⟩
  else s.count fun c => { c with answerDropped := inc c.answerDropped }

/-! ## Issuance (R72 to R76) -/

/-- What the checks of R72 decide: a refusal with its answer, or the window to issue into. -/
inductive Issuance where
  | refuse (answer : Answer)
  | registerFull
  | issue (window : Window)
  deriving DecidableEq, Repr

/-- The checks of a pass request, in the order of R72. -/
def State.checkRequest (s : State) (lane : Fin 64) (ticket party : Nat) : Issuance :=
  if !s.dayOpen then .refuse (.bare .dayShut)
  else if party = 0 ∨ 8 < party then .refuse (.bare .badParty)
  else if (s.lane lane).live.mode = .down then .refuse (.bare .rideDown)
  else if (s.lane lane).live.mode = .closed ∨ (s.lane lane).live.mode = .standbyOnly then .refuse (.bare .modeClosed)
  else
    match findRecord s.register ticket lane with
    | some r => .refuse (s.recordAnswer .alreadyHeld r)
    | none =>
      if s.park.passLimit ≤ liveCount s.register ticket then .refuse (.bare .limitReached)
      else if Config.registerCapacity ≤ s.register.length then .registerFull
      else
        match (s.lane lane).findWindow s.minute party with
        | none => .refuse (.bare .noWindow)
        | some w => .issue w

/-- A record created by issuance (R76). -/
def State.issuedRecord (s : State) (lane : Fin 64) (ticket party : Nat) (w : Window) : PassRecord :=
  ⟨ticket, lane, party, .issued w.start, s.minute⟩

/-- Issuance into a window: the record is created and the window's issued grows by the party (R76). -/
def State.issuePass (s : State) (lane : Fin 64) (ticket party : Nat) (w : Window) : State :=
  { s with
    register := insertRecord s.register (s.issuedRecord lane ticket party w)
    lanes := put s.lanes lane ((s.lane lane).adjustWindow w.start fun x => { x with issued := x.issued + party }) }

/-- REGISTER_FULL latched (R73). -/
def State.latchRegisterFull (s : State) : State :=
  State.evaluate { s with attn := { s.attn with registerFull := true } } .tp

/-- A pass request taken: the state it leaves, and its answer (R72 to R77). -/
def State.passRequest (s : State) (lane : Fin 64) (ticket party : Nat) : State × Answer :=
  match s.checkRequest lane ticket party with
  | .refuse a => (s, a)
  | .registerFull => (s.latchRegisterFull, .bare .registerFull)
  | .issue w => (s.issuePass lane ticket party w, s.recordAnswer .issued (s.issuedRecord lane ticket party w))

/-! ## Event times (R155, R156) -/

/-- How a reader stamp places its scan (R155). -/
inductive StampVerdict where
  | ahead | inTime | clamped
  deriving DecidableEq, Repr

/-- The lag of a stamp `stamp` with trim `trim` behind arrival second `a` under day offset `dayOffset` (R155). -/
def stampLag (a dayOffset stamp : Nat) (trim : Int) : Nat :=
  (((a + dayOffset : Nat) : Int) - ((stamp : Int) + trim) % 86400 : Int).emod 86400 |>.toNat

/-- The event time of a pass return, and how the stamp was taken (R155). -/
def eventTime (a dayOffset stamp maxLateness : Nat) (trim : Int) : Nat × StampVerdict :=
  let lag := stampLag a dayOffset stamp trim
  let m := 60 * maxLateness
  if 43200 < lag then (a, .ahead)
  else (a - min lag m, if m < lag then .clamped else .inTime)

/-- The arrival second: the lesser of the receipt second and OPS (R156). -/
def State.arrivalSecond (s : State) (receipt : Nat) : Nat := min receipt s.clock.ops

/-- The counters of stamp conversion (R155). -/
def Counters.stamp (c : Counters) : StampVerdict → Counters
  | .ahead => { c with readerAhead := inc c.readerAhead }
  | .clamped => { c with lateClamped := inc c.lateClamped }
  | .inTime => c

/-- A scan's event time worked out by the Park Clock (R155, R156). -/
def State.convertStamp (s : State) (segment : Fin 6) (stamp receipt : Nat) : Nat × StampVerdict :=
  eventTime (s.arrivalSecond receipt) s.clock.dayOffset stamp s.park.maxLateness (s.segment segment).trim

/-! ## Redemption (R79 to R81) -/

/-- The early bound of a window: a return with an event time below it is EARLY (R81). -/
def isEarly (event start tolerance : Nat) : Bool := decide ((event : Int) < ((start : Int) - (tolerance : Int)) * 60)

/-- A redemption of an ISSUED record: it becomes REDEEMED and the window's redeemed grows by the party (R81). -/
def State.redeemIssued (s : State) (lane : Fin 64) (r : PassRecord) (start : Nat) : State :=
  { s with
    register := restateRecord s.register r.ticket lane (.redeemed start)
    lanes := put s.lanes lane ((s.lane lane).adjustWindow start fun x => { x with redeemed := x.redeemed + r.party }) }

/-- A redemption of a PROTECTED record: it is removed, and the protected-redemption tally grows by the party (R80). -/
def State.redeemCarried (s : State) (lane : Fin 64) (r : PassRecord) : State :=
  let l := s.lane lane
  { s with
    register := removeRecord s.register r.ticket lane
    lanes := put s.lanes lane
      { l with live := { l.live with protectedRedeemed := satAdd Config.counterTop l.live.protectedRedeemed r.party } } }

/-- The answer to a return that meets no record (R79 check 2, R77). -/
def State.noRecordAnswer (s : State) (lane : Fin 64) (ticket : Nat) : Answer :=
  match otherLiveLane s.register ticket lane with
  | some j => ⟨.otherRide, none, none, some (s.lane j).config.ride⟩
  | none => .bare .unknownPass

/-- A pass return taken with event time `event`: the state it leaves, and its answer (R79 to R81). -/
def State.passReturn (s : State) (lane : Fin 64) (ticket event : Nat) : State × Answer :=
  if !s.dayOpen then (s, .bare .dayShut)
  else
    match findRecord s.register ticket lane with
    | none => (s, s.noRecordAnswer lane ticket)
    | some r =>
      match r.state with
      | .redeemed _ => (s, s.recordAnswer .used r)
      | .carried _ =>
        match (s.lane lane).live.mode with
        | .down => (s, .bare .rideDown)
        | .closed => (s, .bare .modeClosed)
        | _ => (s.redeemCarried lane r, s.recordAnswer .redeemed r)
      | .issued start =>
        if (s.lane lane).live.mode = .down then (s, .bare .rideDown)
        else if isEarly event start (s.lane lane).config.earlyTolerance then (s, s.recordAnswer .early r)
        else (s.redeemIssued lane r start, s.recordAnswer .redeemed r)

/-! ## Voiding and listing (R85, R86) -/

/-- A record removed by VOID_PASS: a FUTURE window gives its seats back, and a window that has opened keeps its issued while the
voided-in-window tally grows (R85). -/
def State.voidRecord (s : State) (lane : Fin 64) (r : PassRecord) : State :=
  let register := removeRecord s.register r.ticket lane
  let l := s.lane lane
  match r.state with
  | .issued start =>
    if (l.windowAt start).any fun w => w.state s.minute l.config.windowLength == .future then
      { s with register := register, lanes := put s.lanes lane (l.adjustWindow start fun w => { w with issued := w.issued - r.party }) }
    else
      { s with
        register := register
        lanes := put s.lanes lane
          { l with live := { l.live with voidedInWindow := satAdd Config.counterTop l.live.voidedInWindow r.party } } }
  | _ => { s with register := register }

/-- A VOID_PASS that passed the index check: the state, the status, and the record it reports as it stood before (R85). -/
def State.voidPass (s : State) (lane : Fin 64) (ticket : Nat) : State × Status × Option PassRecord :=
  match findRecord s.register ticket lane with
  | none => (s, .notFound, none)
  | some r =>
    match r.state with
    | .redeemed _ => (s, .refusedState, some r)
    | _ => (s.voidRecord lane r, .ok, some r)

/-- The records of a ticket from a first lane upward, in lane order (R86). -/
def recordsFrom (register : List PassRecord) (ticket first : Nat) : List PassRecord :=
  register.filter fun r => r.ticket == ticket && decide (first ≤ r.lane.val)

end Sys2Proof.Machine
end

