-- ==== Sys2Proof/Machine/Router.lean ====
section
/-! DEFINITION. The Scan Classifier and the Frame Router: chains, default action, lane selection, and the rows of R116. -/

namespace Sys2Proof.Machine

/-! ## Classification (R93 to R100) -/

/-- A scan's fields, from its frame and its arrival port (R96, R197). -/
structure Scan where
  segment : Fin 6
  source : Nat
  receipt : Nat
  ticket : Nat
  ride : Nat
  roleHint : Nat
  count : Nat
  count2 : Nat
  party : Nat
  ticketClass : Nat
  status : Nat
  stamp : Nat
  deriving DecidableEq, Repr

/-- The scan of a received frame (R197). -/
def scanOf (segment : Fin 6) (f : RxFrame) : Scan :=
  let p := framePayload f.bytes
  { segment := segment, source := frameSource f.bytes, receipt := f.receipt,
    ticket := fieldAt p 0 4, ride := fieldAt p 4 1, roleHint := fieldAt p 5 1, count := fieldAt p 6 1, count2 := fieldAt p 7 1,
    party := fieldAt p 8 1, ticketClass := fieldAt p 9 1, status := fieldAt p 10 1, stamp := fieldAt p 12 4 }

/-- The payload checks of R93: the SCAN size, and the payload's ride number equal to the destination. -/
def scanMalformed (bytes : List Byte) : Bool :=
  frameLength bytes != 16 || fieldAt (framePayload bytes) 4 1 != frameDestination bytes

/-- The value a selector tests (R96). -/
def Scan.selected (c : Scan) : Selector → Nat
  | .source => c.source
  | .ride => c.ride
  | .port => c.segment.val
  | .ticketClass => c.ticketClass
  | .party => c.party
  | .roleHint => c.roleHint

/-- Whether an operator holds between the masked value and the rule's value (R96). -/
def Operator.holds (o : Operator) (a b : Nat) : Bool :=
  match o with
  | .eq => a == b
  | .ne => a != b
  | .gt => decide (b < a)
  | .lt => decide (a < b)

/-- Whether an enabled rule's test holds for a scan: the selected value ANDed with the mask, against the value (R96). -/
def Rule.tests (r : Rule) (c : Scan) : Bool := r.operator.holds (c.selected r.selector &&& r.mask) r.value

/-- The chains of a run of rules with their indexes: a rule whose chain flag is ON is joined with the next, and the last rule's
flag is read as OFF (R97). -/
def chains : List (Nat × Rule) → List (List (Nat × Rule))
  | [] => []
  | r :: rest =>
    match r.2.chain, chains rest with
    | true, c :: cs => (r :: c) :: cs
    | _, cs => [r] :: cs

/-- Whether a chain matches: some rule of it is enabled and every enabled one tests true (R97). -/
def chainMatches (chain : List (Nat × Rule)) (c : Scan) : Bool :=
  (chain.any fun r => r.2.enable) && chain.all fun r => !r.2.enable || r.2.tests c

/-- The first chain that matches a scan (R98). -/
def State.decidingChain (s : State) (c : Scan) : Option (List (Nat × Rule)) :=
  (chains (s.rules.toList.zipIdx.map fun r => (r.2, r.1))).find? fun chain => chainMatches chain c

/-- The action of BY_HINT for a role hint (R99). -/
def hintAction : Nat → Action
  | 1 => .countEntry | 2 => .countBoarding | 3 => .passRequest | 4 => .passReturn | 5 => .rideStatus | _ => .passThrough

/-- The action the default action gives a scan (R99). -/
def defaultActionOf (d : DefaultAction) (c : Scan) : Action :=
  match d with
  | .passThrough => .passThrough
  | .discard => .discard
  | .byHint => hintAction c.roleHint

/-- The hit counter of every rule of a chain grows by 1 (R98). -/
def State.countHits (s : State) (chain : List (Nat × Rule)) : State :=
  { s with rules := tabulate fun j =>
      let r := s.rules.get j
      if chain.any fun m => m.1 == j.val then { r with hits := inc r.hits } else r }

/-- The scan decided: the counters that deciding it moves, its action, and the lane override of the deciding chain's first rule
(R98, R99). -/
def State.decideScan (s : State) (c : Scan) : State × Action × Option (Fin 64) :=
  match s.decidingChain c with
  | some chain =>
    (s.countHits chain, ((chain.head?.map fun r => r.2.action).getD .passThrough), (chain.head?.bind fun r => r.2.override))
  | none => (s.count fun k => { k with defaultTaken := inc k.defaultTaken }, defaultActionOf s.park.defaultAction c, none)

/-- The lane of a lane action: the override, or else the lane with the scan's ride number; none when it is not in use (R100). -/
def State.selectLane (s : State) (c : Scan) (override : Option (Fin 64)) : Option (Fin 64) :=
  match override with
  | some i => if (s.lane i).inUse then some i else none
  | none => s.laneOfRide c.ride

/-- A lane action handed to the block that takes it (R101 to R103). -/
def State.handOn (s : State) (a : ScanAction) : State := { s with handed := s.handed ++ [a] }

/-- A lane action handed on with its lane, or counted as unmapped when no lane in use is found (R100). -/
def State.handToLane (s : State) (c : Scan) (override : Option (Fin 64)) (f : Fin 64 → ScanAction) : State :=
  match s.selectLane c override with
  | some i => s.handOn (f i)
  | none => s.count fun k => { k with unmapped := inc k.unmapped }

/-- Where a scan came from, for its answer (R105). -/
def Scan.origin (c : Scan) : ScanOrigin := ⟨c.segment, c.source, c.ride⟩

/-! ## Routing (R116 to R119) -/

/-- The lowest segment, other than the arrival port, with a counting window that holds an address (R116 row 9). -/
def State.routeSegment (s : State) (arrival : Port) (destination : Nat) : Option (Fin 6) :=
  (List.finRange 6).find? fun k => decide (Port.sp k ≠ arrival) && (s.segment k).counts destination

/-- Rows 8 to 12 of R116: broadcast, forwarding by window, hairpin, trunk default, and no route. -/
def State.routeByWindow (s : State) (arrival : Port) (bytes : List Byte) : State :=
  let destination := frameDestination bytes
  if destination = Config.broadcast then
    ((allPorts.filter fun p => decide (p ≠ arrival) && s.linkUp p).foldl (fun t p => t.forward p bytes) s)
  else
    match s.routeSegment arrival destination with
    | some k => s.forward (.sp k) bytes
    | none =>
      match arrival with
      | .sp k =>
        if (s.segment k).counts destination then s.count fun c => { c with hairpin := inc c.hairpin }
        else s.forward .tp bytes
      | .tp => s.count fun c => { c with noRoute := inc c.noRoute }

/-- A scan taken by the classifier: checked, decided, and handed on, passed through, dropped or refused (R93, R98 to R105). -/
def State.classify (s : State) (segment : Fin 6) (f : RxFrame) : State :=
  if scanMalformed f.bytes then s.count fun c => { c with malformedScan := inc c.malformedScan }
  else
    let c := scanOf segment f
    let (t, action, override) := s.decideScan c
    match action with
    | .countEntry => t.handToLane c override fun i => .countEntry i c.count
    | .countBoarding => t.handToLane c override fun i => .countBoarding i c.count c.count2
    | .passRequest => t.handToLane c override fun i => .passRequest c.origin i c.ticket c.party
    | .passReturn => t.handToLane c override fun i => .passReturn c.origin i c.ticket c.stamp c.receipt
    | .rideStatus => t.handToLane c override fun i => .rideStatus i c.status
    | .passThrough => t.routeByWindow (.sp segment) f.bytes
    | .discard => t.count fun k => { k with discarded := inc k.discarded }
    | .refuseClass =>
      (t.count fun k => { k with classRefused := inc k.classRefused }).sendAnswer c.origin c.ticket (.bare .classRefused)

/-- A ZONE_CLEAR from zone k: dropped and counted when its size, source or lane byte is wrong, else the COUNT_SKEW sources routed
to zone k that it names are cleared (R169). -/
def State.zoneClear (s : State) (k : Fin 6) (bytes : List Byte) : State :=
  let p := framePayload bytes
  let laneByte := fieldAt p 2 1
  if frameLength bytes ≠ 4 ∨ frameSource bytes ≠ (s.segment k).stationAddress ∨ ¬ (laneByte < 64 ∨ laneByte = 255) then
    s.count fun c => { c with clearRefused := inc c.clearRefused }
  else if hasKind (BitVec.ofNat 16 (fieldAt p 0 2)) .countSkew then
    let named := fun i : Fin 64 => laneByte == 255 || laneByte == i.val
    (s.setLanes fun i =>
      let l := s.lane i
      if named i && decide (s.laneRoute .countSkew i = .sp k) then { l with countSkew := false } else l).evaluate (.sp k)
  else s

/-- A frame decided by the first row of R116 that applies; rows 1 to 7 here, the rest by window. -/
def State.routeRows (s : State) (arrival : Port) (f : RxFrame) : State :=
  let kind := frameKind f.bytes
  let destination := frameDestination f.bytes
  if kind = kindLinkReset then
    if arrival = .tp then { s with engineResetDue := true }
    else s.count fun c => { c with misdirected := inc c.misdirected }
  else if destination = 0 ∨ (251 ≤ destination ∧ destination ≤ 255) then s.count fun c => { c with noRoute := inc c.noRoute }
  else if destination = s.park.nodeAddress then
    match arrival with
    | .tp =>
      if kind = kindMgmtReq then s.handRequest f.bytes else s.count fun c => { c with misdirected := inc c.misdirected }
    | .sp k =>
      if kind = kindZoneClear then s.zoneClear k f.bytes else s.count fun c => { c with misdirected := inc c.misdirected }
  else
    match arrival with
    | .sp k =>
      if kind = kindScan ∧ 1 ≤ destination ∧ destination ≤ 250 then s.classify k f else s.routeByWindow arrival f.bytes
    | .tp => s.routeByWindow arrival f.bytes

/-- Whether the head frame of TP is a request that must wait for the agent (R115). -/
def State.headWaits (s : State) (arrival : Port) (f : RxFrame) : Bool :=
  s.agent.busy && decide (arrival = .tp) && frameKind f.bytes == kindMgmtReq && frameDestination f.bytes == s.park.nodeAddress

/-- The head frame of a receive queue taken by the router and routed whole (R115, R116). -/
def State.routeHead (s : State) (p : Port) : State :=
  match (s.port p).rx with
  | [] => s
  | f :: rest => if s.headWaits p f then s else (s.setPort p { s.port p with rx := rest }).routeRows p f

end Sys2Proof.Machine
end

