-- ==== Sys2Proof/Machine/FramePorts.lean ====
section
/-! DEFINITION. Receiving, routing, transmitting, and the offers of board frames, attention frames and held replies. -/

namespace Sys2Proof.Machine

/-! ## Receiving and routing (R114 to R116) -/

/-- The receipt second recorded with an admitted frame: OPS while the day is OPEN, 0 while it is SHUT (R156). -/
def State.receiptSecond (s : State) : Nat := if s.dayOpen then s.clock.ops else 0

/-- PORT_OVERRUN latched for a port (R115). -/
def State.latchOverrun (s : State) (p : Port) : State :=
  State.evaluate { s with attn := { s.attn with overruns := put s.attn.overruns (portIndex p) true } } .tp

/-- A frame that reaches port `p` from its link: nothing on a HELD link, else checked, and admitted or dropped with its counter
(R111, R114, R115). -/
def State.receive (s : State) (p : Port) (bytes : List Byte) : State :=
  if !s.linkUp p then s
  else if lengthFails bytes then s.countPort p fun c => { c with lengthError := inc c.lengthError }
  else if crcFails bytes then s.countPort p fun c => { c with crcError := inc c.crcError }
  else if (s.port p).rx.length < Config.rxCapacity then
    s.setPort p { s.port p with
      rx := (s.port p).rx ++ [⟨bytes, s.receiptSecond⟩]
      counters := { (s.port p).counters with received := inc (s.port p).counters.received } }
  else (s.countPort p fun c => { c with overrun := inc c.overrun }).latchOverrun p

/-- FRAME_RECEIVE (R114, R115). -/
def execFrameReceive (p : Port) (bytes : List Byte) (s : State) : Host.Outcome State Fault Refusal :=
  whileReleased s fun s => s.receive p bytes

/-- ROUTE_FRAME (R116). -/
def execRouteFrame (p : Port) (s : State) : Host.Outcome State Fault Refusal :=
  whileReleased s fun s => s.routeHead p

/-! ## Transmitting (R121) -/

/-- The start notice of a generated frame: an attention frame's slot goes from QUEUED to EMPTY (R121, R165). -/
def State.startNotice (s : State) (p : Port) (f : TxFrame) : State :=
  if f.producer = .attention ∧ (s.attnPort p).slot = .queued then s.setAttnPort p { s.attnPort p with slot := .empty } else s

/-- The head frame of a port whose link is UP starts its transmission (R121). -/
def State.startSending (s : State) (p : Port) : State :=
  match (s.port p).tx with
  | [] => s
  | f :: _ =>
    if s.linkUp p && !(s.port p).sending then (s.setPort p { s.port p with sending := true }).startNotice p f else s

/-- The completion of the RESET ENGINE reply's transmission gives the ENGINE reset to the reset path (R182). -/
def State.replySent (s : State) (f : TxFrame) : State :=
  if f.producer = .engineReply ∧ s.agent.mode = .resetting then { s with engineResetDue := true } else s

/-- The transmission of the head frame completes: it leaves the queue, the transmitted counter grows, and a completion that takes
the occupancy from 48 to 47 gives a room notice (R121). -/
def State.finishSending (s : State) (p : Port) : State :=
  match (s.port p).tx with
  | [] => s
  | f :: rest =>
    if (s.port p).sending then
      let t := s.setPort p { s.port p with
        tx := rest
        sending := false
        counters := { (s.port p).counters with transmitted := inc (s.port p).counters.transmitted } }
      let t := t.replySent f
      if rest.length + 1 = Config.txCapacity then t.roomNotice p else t
    else s

/-- TRANSMIT_START (R121). -/
def execTransmitStart (p : Port) (s : State) : Host.Outcome State Fault Refusal :=
  whileReleased s fun s => s.startSending p

/-- TRANSMIT_COMPLETE (R121). -/
def execTransmitComplete (p : Port) (s : State) : Host.Outcome State Fault Refusal :=
  whileReleased s fun s => s.finishSending p

/-! ## Board frames (R137, R138) -/

/-- The lines with a pending update on port `p`, lowest index first. -/
def State.pendingOn (s : State) (p : Port) : List (Fin 192) :=
  (List.finRange 192).filter fun j => (s.lines.get j).pending.isSome && (s.lines.get j).port == p

/-- The lines the next BOARD frame of port `p` carries: up to 16 pending lines of the board with the lowest-indexed pending line
(R137, R138). The lowest pending index is looked for afresh after each frame, so the second frame of a board with more than 16 pending
lines comes by the index of the lines it still has, and not behind the other boards' first frames as such; R138 does not say which
(DESIGN CHOICE, log entry 35). -/
def State.nextBoard (s : State) (p : Port) : List (Fin 192) :=
  match s.pendingOn p with
  | [] => []
  | j :: rest => ((j :: rest).filter fun i => (s.lines.get i).address == (s.lines.get j).address).take 16

/-- One line entry of a BOARD payload (R131, R196, R197). -/
def lineEntry (line : Nat) (c : LineContent) : List Byte :=
  [byteOf line, byteOf (displayCode c.kind), byteOf (c.posted.getD 255)] ++ le16 (nextReturnCode c.next)

/-- The payload of the BOARD frame that carries some pending lines (R197). -/
def State.boardPayload (s : State) (group : List (Fin 192)) : List Byte :=
  byteOf group.length :: group.flatMap fun j =>
    match (s.lines.get j).pending with
    | some c => lineEntry (s.lines.get j).line c
    | none => []

/-- The BOARD frame of some pending lines, addressed to the board of the first (R137). -/
def State.boardFrame (s : State) (group : List (Fin 192)) : List Byte :=
  buildFrame kindBoard ((group.head?.map fun j => (s.lines.get j).address).getD 0) s.park.nodeAddress (s.boardPayload group)

/-- The lines carried by an admitted frame leave pending (R138). -/
def State.unmark (s : State) (group : List (Fin 192)) : State :=
  { s with lines := tabulate fun j =>
      if group.contains j then { s.lines.get j with pending := none } else s.lines.get j }

/-- A run of offers for port `p`: frame after frame until no line is pending there or an offer is refused (R138). Each admitted
frame takes at least one line out of pending, so 192 frames are enough. -/
def State.offerBoards (s : State) (p : Port) : Nat → State
  | 0 => s
  | fuel + 1 =>
    let group := s.nextBoard p
    if group.isEmpty then s
    else if s.admits p .board then
      State.offerBoards
        (((s.enqueue p ⟨s.boardFrame group, .board⟩).unmark group).count fun c => { c with boardsQueued := inc c.boardsQueued })
        p fuel
    else s.count fun c => { c with boardsRefused := inc c.boardsRefused }

/-- BOARD_FRAME_OFFER: a run of offers that the publisher owes the port (R138). -/
def execBoardFrameOffer (p : Port) (s : State) : Host.Outcome State Fault Refusal :=
  whileReleased s fun s =>
    if s.linkUp p && decide (0 < (s.port p).boardRuns) then
      State.offerBoards (s.setPort p { s.port p with boardRuns := (s.port p).boardRuns - 1 }) p 192
    else s

/-! ## Attention frames and held replies (R166, R176) -/

/-- A PREPARED frame offered to its port: QUEUED and counted when admitted, else PREPARED still and counted as refused (R166). -/
def State.offerAttention (s : State) (d : Port) : State :=
  match (s.attnPort d).slot with
  | .prepared frame =>
    if s.admits d .attention then
      ((s.enqueue d ⟨frame, .attention⟩).setAttnPort d { s.attnPort d with slot := .queued, offersDue := 0 }).count fun c =>
        { c with attnQueued := inc c.attnQueued }
    else
      (s.setAttnPort d { s.attnPort d with offersDue := (s.attnPort d).offersDue - 1 }).count fun c =>
        { c with attnRefused := inc c.attnRefused }
  | _ => s.setAttnPort d { s.attnPort d with offersDue := (s.attnPort d).offersDue - 1 }

/-- ATTN_FRAME_OFFER: an offer that the Attention Unit owes the destination's port (R166). -/
def execAttnFrameOffer (d : Port) (s : State) : Host.Outcome State Fault Refusal :=
  whileReleased s fun s => if 0 < (s.attnPort d).offersDue then s.offerAttention d else s

/-- MGMT_REPLY_OFFER: a held reply offered again at a room notice of TP (R176). -/
def execMgmtReplyOffer (s : State) : Host.Outcome State Fault Refusal :=
  whileReleased s fun s =>
    match s.agent.reply with
    | some r =>
      if s.agent.mode = .holding ∧ 0 < s.agent.offersDue then
        State.offerReply { s with agent := { s.agent with offersDue := s.agent.offersDue - 1 } } r.frame r.engine
      else s
    | none => s

end Sys2Proof.Machine
end

