-- ==== Sys2Proof/Machine/Resets.lean ====
section
/-! DEFINITION. The three reset levels, and the reset input. -/

namespace Sys2Proof.Machine

/-- The loader READY with an outcome, and the enabled links up with their notices (R112, R193). The offers that the load still owed
are refused first, since every link was HELD when they were made (R172, log entry 11). -/
def State.loaderReady (s : State) (outcome : LoaderOutcome) : State :=
  let t := allPorts.foldl State.refuseOwed { s with loader := { s.loader with state := .ready, outcome := outcome } }
  (allPorts.filter fun p => t.linkUp p).foldl State.linkUpNotice t

/-- The flash access state after an ENGINE reset: an abandoned write leaves UNVERIFIED, else it is kept (R185). -/
def Flash.afterEngine (f : Flash) : Flash := if f.access = .busy then { f with access := .unverified } else f

/-- The loader as an ENGINE reset leaves it: a load starts while reload is ON, and otherwise none runs, its counters 0 and its
outcome kept (R188). DESIGN CHOICE (log entry 41): with reload OFF the entry position is 0 too, and so is the entry count from any
reset to the header that the next load reads; R188 gives neither. -/
def Loader.afterEngine (l : Loader) (reload : Bool) : Loader :=
  { state := if reload then .probing else .ready, outcome := l.outcome, position := 0, count := 0, skipped := 0, legalized := 0,
    silent := false }

/-- Everything an ENGINE reset sets and keeps, before the links come up (R20, R42, R66, R90, R109, R125, R143, R158, R172, R185,
R186, R188, R201). The boundaries the clock still owes are kept; what was handed on inside the part is dropped (log entry 14). -/
def State.engineCleared (s : State) : State :=
  { s.abandonWrite with
    lanes := tabulate fun i => { s.lane i with countSkew := false }
    rules := tabulate fun j => { s.rules.get j with hits := 0 }
    lines := tabulate fun j => { s.lines.get j with pending := none }
    ring := { s.ring with running := false }
    ports := Vector.replicate 7 .empty
    counters := .zero
    attn := .clear
    agent := .idle
    flash := s.abandonWrite.flash.afterEngine
    loader := s.loader.afterEngine s.park.reload
    handed := []
    engineResetDue := false
    segmentResetsDue := Vector.replicate 6 0 }

/-- An ENGINE reset taken (R187): with reload OFF the links come up at once (R188). -/
def State.engineReset (s : State) : State :=
  let t := s.engineCleared
  if s.park.reload then t else t.loaderReady t.loader.outcome

/-- A POWER reset taken: every block at its defaults (R187). The flash device keeps its bytes, those of an abandoned write being
free values (R185), and the queue of waiting commands is not the part's. -/
def State.powerReset (s : State) : State :=
  { State.reset with
    flash := { Flash.idle with mem := s.abandonWrite.flash.mem }
    freeDraws := s.abandonWrite.freeDraws
    pending := s.pending }

/-- The reset input asserted: every link held and its queues empty, a running load and a BUSY write abandoned, the flash port idle
(R111, R185, R187). -/
def State.assertReset (s : State) : State :=
  { s.abandonWrite with
    resetHeld := true
    ports := tabulate fun p => { s.ports.get p with rx := [], tx := [], sending := false, boardRuns := 0 }
    flash := if s.flash.access = .busy then { s.abandonWrite.flash with access := .idle } else s.flash
    loader := if s.loader.state = .ready then s.loader
      else { s.loader with state := .probing, position := 0, count := 0 } }

/-- POWER_RESET: the release of the reset input, or power-on (R187). -/
def execPowerReset (s : State) : Host.Outcome State Fault Refusal := .next s.powerReset

/-- RESET_INPUT_ASSERTED (R187). -/
def execResetInputAsserted (s : State) : Host.Outcome State Fault Refusal := .next (if s.resetHeld then s else s.assertReset)

/-- ENGINE_RESET: taken once a cause has reached the reset path (R124, R182, R187); with no cause there is no reset (log
entry 3). -/
def execEngineReset (s : State) : Host.Outcome State Fault Refusal :=
  whileReleased s fun s => if s.engineResetDue then s.engineReset else s

/-- SEGMENT_RESET: SP k takes a reset that the agent has handed to it (R123, R182). -/
def execSegmentReset (k : Fin 6) (s : State) : Host.Outcome State Fault Refusal :=
  whileReleased s fun s =>
    if 0 < s.segmentResetsDue.get k then
      State.resetSegmentPort { s with segmentResetsDue := adjust s.segmentResetsDue k (· - 1) } k
    else s

end Sys2Proof.Machine
end

