-- ==== Sys2Proof/Machine/Tables.lean ====
section
/-! DEFINITION. The eight tables: reading an entry, legalization, the checks of a write, writing, and a write's consequences. -/

namespace Sys2Proof.Machine

/-- The tables by identifier (R200). -/
inductive TableId where
  | park | lane | rule | segment | boardLine | laneLive | window | counters
  deriving DecidableEq, Repr

/-- The table a code names (R200). -/
def tableOfCode : Nat → Option TableId
  | 1 => some .park | 2 => some .lane | 3 => some .rule | 4 => some .segment | 5 => some .boardLine | 6 => some .laneLive
  | 7 => some .window | 8 => some .counters | _ => none

/-- Entries of a table (R177). -/
def TableId.entries : TableId → Nat
  | .park => 1 | .lane => 64 | .rule => 24 | .segment => 6 | .boardLine => 192 | .laneLive => 64 | .window => 2048 | .counters => 1

/-- Fields of a table's entries: their identifiers run from 1 to this (R201). -/
def TableId.fields : TableId → Nat
  | .park => 9 | .lane => 19 | .rule => 9 | .segment => 11 | .boardLine => 6 | .laneLive => 22 | .window => 7 | .counters => 74

/-- The last field of a table that management may write; the fields after it are read-only (R177). -/
def TableId.writable : TableId → Nat
  | .park => 9 | .lane => 19 | .rule => 8 | .segment => 11 | .boardLine => 5 | .laneLive => 0 | .window => 0 | .counters => 0

/-- The SHUT-only fields: a lane's ride number, window length and first window start (R2). -/
def TableId.shutOnly (t : TableId) (field : Nat) : Bool := t == .lane && (field == 1 || field == 9 || field == 10)

/-! ## Reading (R54, R201) -/

def parkFields (p : Park) : List Nat :=
  [p.period, p.maxLateness, p.passLimit, defaultActionCode p.defaultAction, p.centralAddress, p.nodeAddress, flagCode p.reload,
    loaderRateCode p.loaderRate, p.trunkEnables.toNat]

def laneFields (c : LaneConfig) : List Nat :=
  [c.ride, c.nominalRate, c.walkTime, c.warmUpCount, c.smoothing, c.boardStep, c.changeThreshold, c.refreshCount, c.windowLength,
    c.firstStart, c.grace, c.earlyTolerance, c.leadMinimum, c.searchSpan, c.grantLowMark, c.staleLimit, c.skewLimit,
    flagCode c.autoDown, autoRestartCode c.autoRestart]

def ruleFields (r : Rule) : List Nat :=
  [flagCode r.enable, flagCode r.chain, selectorCode r.selector, operatorCode r.operator, r.mask, r.value, actionCode r.action,
    overrideCode r.override, r.hits]

def segmentFields (g : Segment) : List Nat :=
  [flagCode g.enable, g.window1.base, g.window1.limit, flagCode g.window1.enable, g.window2.base, g.window2.limit,
    flagCode g.window2.enable, unsigned16 g.trim, g.stationAddress, g.delegation.toNat, g.zoneEnables.toNat]

def lineFields (b : BoardLine) : List Nat :=
  [flagCode b.enable, b.address, b.line, b.lane.val, (portIndex b.port).val, flagCode b.pending.isSome]

def liveFields (l : Lane) : List Nat :=
  let v := l.live
  [modeCode v.mode, v.q, v.entries, v.bs, v.bp, v.skew, v.r16, v.warm, v.stalePeriods, flagCode v.stale, v.wRaw, v.posted,
    l.publish.lastPublished, l.publish.refresh, lastStatusCode v.lastStatus, v.noShow, v.protectedRedeemed, v.voidedInWindow,
    v.clampedGrants, v.staleGrants, displayCode l.publish.kind, nextReturnCode l.publish.next]

/-- A WINDOW entry: the window at a slot of the lane's list, its state derived at the read; an absent slot is 0 throughout
(R54). -/
def windowFields (l : Lane) (n slot : Nat) : List Nat :=
  match l.windows[slot]? with
  | some w => [1, w.start, windowStateCode (w.state n l.config.windowLength), w.capacity, w.issued, w.redeemed, flagCode w.marked]
  | none => [0, 0, 0, 0, 0, 0, 0]

def portCounterFields (c : PortCounters) : List Nat :=
  [c.received, c.crcError, c.lengthError, c.overrun, c.transmitted, c.forwardDropped]

/-- How many lines hold a pending update (R139). -/
def State.pendingLines (s : State) : Nat := (s.lines.toList.filter fun b => b.pending.isSome).length

/-- Records held and the ISSUED, REDEEMED and PROTECTED counts (R70). -/
def State.occupancy (s : State) : List Nat :=
  [s.register.length, countState s.register 1, countState s.register 2, countState s.register 3]

/-- The 74 fields of the COUNTERS entry (R201). -/
def State.counterFields (s : State) : List Nat :=
  let c := s.counters
  allPorts.flatMap (fun p => portCounterFields (s.port p).counters)
    ++ [c.forwarded, c.noRoute, c.hairpin, c.misdirected]
    ++ [c.malformedScan, c.defaultTaken, c.unmapped, c.discarded, c.classRefused, c.answerDropped]
    ++ [c.offDay, c.badStatus, c.staleGrants]
    ++ [s.ring.grants.length, flagCode s.ring.headHeld]
    ++ s.occupancy
    ++ [c.boardsQueued, c.boardsRefused, s.pendingLines]
    ++ [c.attnQueued, c.attnRefused, c.clearRefused]
    ++ [c.malformedRequest, c.replyRefused]
    ++ [c.readerAhead, c.lateClamped]
    ++ [outcomeCode s.loader.outcome, s.loader.skipped, s.loader.legalized]

/-- The field values of one entry of a table, in identifier order; none outside the table (R177, R201). -/
def State.readEntry (s : State) (t : TableId) (index : Nat) : List Nat :=
  match t with
  | .park => if index = 0 then parkFields s.park else []
  | .lane => if h : index < 64 then laneFields (s.lane ⟨index, h⟩).config else []
  | .rule => if h : index < 24 then ruleFields (s.rules.get ⟨index, h⟩) else []
  | .segment => if h : index < 6 then segmentFields (s.segment ⟨index, h⟩) else []
  | .boardLine => if h : index < 192 then lineFields (s.lines.get ⟨index, h⟩) else []
  | .laneLive => if h : index < 64 then liveFields (s.lane ⟨index, h⟩) else []
  | .window => if h : index / 32 < 64 then windowFields (s.lane ⟨index / 32, h⟩) s.minute (index % 32) else []
  | .counters => if index = 0 then s.counterFields else []

/-- What a READ_TABLE carries: its values, and where the next read starts when it did not carry everything (R178). -/
structure ReadResult where
  values : List Nat
  next : Option (Nat × Nat)
  deriving DecidableEq, Repr

/-- Whole entries from `index` on, `count` of them, for as long as they fit behind the values already carried (R178). -/
def State.readWhole (s : State) (t : TableId) : Nat → Nat → List Nat → ReadResult
  | 0, _, values => ⟨values, none⟩
  | count + 1, index, values =>
    let entry := s.readEntry t index
    if values.length + entry.length ≤ Config.readValues then s.readWhole t count (index + 1) (values ++ entry)
    else ⟨values, some (index, 1)⟩

/-- A read of `count` entries from `first` on, beginning at field `field` of the first (R178). -/
def State.readTable (s : State) (t : TableId) (first count field : Nat) : ReadResult :=
  let entry := (s.readEntry t first).drop (field - 1)
  if Config.readValues < entry.length then ⟨entry.take Config.readValues, some (first, field + Config.readValues)⟩
  else s.readWhole t (min count (t.entries - first) - 1) (first + 1) entry

/-! ## Legalization (R3, R94, R95, R117, R127, R154, R162, R164, R177) -/

/-- ON or OFF kept, any other code replaced by `other`. -/
def legalFlag (other v : Nat) : Nat := if v ≤ 1 then v else other

/-- A code kept when at most `top`, else replaced by `other`. -/
def legalCode (top other v : Nat) : Nat := if v ≤ top then v else other

/-- A window length brought into 5 to 60 and rounded to a multiple of 5 (R3). -/
def legalWindowLength (v : Nat) : Nat :=
  let w := clamp 5 60 v
  if w % 5 ≤ 2 then w - w % 5 else w + (5 - w % 5)

def legalPark : Nat → Nat → Nat
  | 1, v => clamp 15 120 v
  | 2, v => min 30 v
  | 3, v => clamp 1 4 v
  | 4, v => legalCode 2 2 v
  | 5, v => clamp 256 16382 v
  | 6, v => clamp 256 16382 v
  | 7, v => legalFlag 1 v
  | 8, v => legalFlag 0 v
  | 9, v => (BitVec.ofNat 16 v &&& trunkKinds).toNat
  | _, v => v

def legalLane : Nat → Nat → Nat
  | 1, v => min 250 v
  | 2, v => clamp 16 65535 v
  | 3, v => min 30 v
  | 4, v => min 15 v
  | 5, v => clamp 1 16 v
  | 6, v => if v = 1 ∨ v = 5 ∨ v = 10 then v else 5
  | 7, v => min 30 v
  | 8, v => clamp 1 60 v
  | 9, v => legalWindowLength v
  | 10, v => min 2879 v
  | 11, v => min 30 v
  | 12, v => min 15 v
  | 13, v => min 120 v
  | 14, v => clamp 1 8 v
  | 15, v => min 4095 v
  | 16, v => clamp 1 15 v
  | 17, v => min 255 v
  | 18, v => legalFlag 1 v
  | 19, v => legalCode 3 0 v
  | _, v => v

def legalRule : Nat → Nat → Nat
  | 1, v => legalFlag 0 v
  | 2, v => legalFlag 0 v
  | 3, v => legalCode 5 0 v
  | 4, v => legalCode 3 0 v
  | 7, v => legalCode 7 5 v
  | 8, v => if v < 64 then v else 0xFFFF
  | _, v => v

/-- A trim brought into −3,600 to +3,600 (R154). -/
def legalTrim (v : Nat) : Int := min 3600 (max (-3600) (signed16 v))

def legalSegment : Nat → Nat → Nat
  | 1, v => legalFlag 0 v
  | 2, v => min 16383 v
  | 3, v => min 16383 v
  | 4, v => legalFlag 0 v
  | 5, v => min 16383 v
  | 6, v => min 16383 v
  | 7, v => legalFlag 0 v
  | 8, v => unsigned16 (legalTrim v)
  | 9, v => clamp 256 16382 v
  | 10, v => (BitVec.ofNat 16 v &&& delegableKinds).toNat
  | 11, v => (BitVec.ofNat 16 v &&& zoneKinds).toNat
  | _, v => v

def legalLine : Nat → Nat → Nat
  | 1, v => legalFlag 0 v
  | 2, v => clamp 256 16382 v
  | 3, v => min 15 v
  | 4, v => min 63 v
  | 5, v => legalCode 6 6 v
  | _, v => v

/-- The value a field stores for a written one. -/
def TableId.legalize (t : TableId) (field v : Nat) : Nat :=
  match t with
  | .park => legalPark field v
  | .lane => legalLane field v
  | .rule => legalRule field v
  | .segment => legalSegment field v
  | .boardLine => legalLine field v
  | _ => v

/-- Whether a field is a kind set, of which bits 10 to 15 are ignored (R196). -/
def TableId.isKindSet (t : TableId) (field : Nat) : Bool :=
  (t == .park && field == 9) || (t == .segment && (field == 10 || field == 11))

/-- Whether a write of `v` counts as legalized: the stored value differs from the written one, the ignored bits of a kind set
aside (R3, R164, R196, log entry 19). -/
def TableId.legalizes (t : TableId) (field v : Nat) : Bool :=
  let written := if t.isKindSet field then (BitVec.ofNat 16 v &&& namedKinds).toNat else v
  t.legalize field v != written

/-! ## Writing fields -/

def Park.write (p : Park) : Nat → Nat → Park
  | 1, v => { p with period := v }
  | 2, v => { p with maxLateness := v }
  | 3, v => { p with passLimit := v }
  | 4, v => { p with defaultAction := defaultActionOfCode v }
  | 5, v => { p with centralAddress := v }
  | 6, v => { p with nodeAddress := v }
  | 7, v => { p with reload := v == 1 }
  | 8, v => { p with loaderRate := loaderRateOfCode v }
  | 9, v => { p with trunkEnables := BitVec.ofNat 16 v }
  | _, _ => p

def LaneConfig.write (c : LaneConfig) : Nat → Nat → LaneConfig
  | 1, v => { c with ride := v }
  | 2, v => { c with nominalRate := v }
  | 3, v => { c with walkTime := v }
  | 4, v => { c with warmUpCount := v }
  | 5, v => { c with smoothing := v }
  | 6, v => { c with boardStep := v }
  | 7, v => { c with changeThreshold := v }
  | 8, v => { c with refreshCount := v }
  | 9, v => { c with windowLength := v }
  | 10, v => { c with firstStart := v }
  | 11, v => { c with grace := v }
  | 12, v => { c with earlyTolerance := v }
  | 13, v => { c with leadMinimum := v }
  | 14, v => { c with searchSpan := v }
  | 15, v => { c with grantLowMark := v }
  | 16, v => { c with staleLimit := v }
  | 17, v => { c with skewLimit := v }
  | 18, v => { c with autoDown := v == 1 }
  | 19, v => { c with autoRestart := autoRestartOfCode v }
  | _, _ => c

def Rule.write (r : Rule) : Nat → Nat → Rule
  | 1, v => { r with enable := v == 1 }
  | 2, v => { r with chain := v == 1 }
  | 3, v => { r with selector := selectorOfCode v }
  | 4, v => { r with operator := operatorOfCode v }
  | 5, v => { r with mask := v }
  | 6, v => { r with value := v }
  | 7, v => { r with action := actionOfCode v }
  | 8, v => { r with override := if h : v < 64 then some ⟨v, h⟩ else none }
  | _, _ => r

def Segment.write (g : Segment) : Nat → Nat → Segment
  | 1, v => { g with enable := v == 1 }
  | 2, v => { g with window1 := { g.window1 with base := v } }
  | 3, v => { g with window1 := { g.window1 with limit := v } }
  | 4, v => { g with window1 := { g.window1 with enable := v == 1 } }
  | 5, v => { g with window2 := { g.window2 with base := v } }
  | 6, v => { g with window2 := { g.window2 with limit := v } }
  | 7, v => { g with window2 := { g.window2 with enable := v == 1 } }
  | 8, v => { g with trim := signed16 v }
  | 9, v => { g with stationAddress := v }
  | 10, v => { g with delegation := BitVec.ofNat 16 v }
  | 11, v => { g with zoneEnables := BitVec.ofNat 16 v }
  | _, _ => g

def BoardLine.write (b : BoardLine) : Nat → Nat → BoardLine
  | 1, v => { b with enable := v == 1 }
  | 2, v => { b with address := v }
  | 3, v => { b with line := v }
  | 4, v => { b with lane := if h : v < 64 then ⟨v, h⟩ else 63 }
  | 5, v => { b with port := (portOfCode v).getD .tp }
  | _, _ => b

/-- Every pair of a request legalized. -/
def TableId.legalPairs (t : TableId) (pairs : List (Nat × Nat)) : List (Nat × Nat) :=
  pairs.map fun p => (p.1, t.legalize p.1 p.2)

/-! ## Consequences (R94, R113, R122, R128, R163, R164, R166, R180) -/

/-- A written rule: every pair stored, the hit counter 0 (R94). -/
def State.writeRule (s : State) (j : Fin 24) (pairs : List (Nat × Nat)) : State :=
  { s with rules := put s.rules j { pairs.foldl (fun r p => r.write p.1 p.2) (s.rules.get j) with hits := 0 } }

/-- A written lane record; the reports of the destinations between which a change of its home segment moves sources are re-evaluated
(R122, R163). -/
def State.writeLane (s : State) (i : Fin 64) (pairs : List (Nat × Nat)) : State :=
  let l := s.lane i
  let t := s.setLane i { l with config := pairs.foldl (fun c p => c.write p.1 p.2) l.config }
  if t.homeSegment i = s.homeSegment i then t else t.evaluateEach (s.moved t)

/-- A written park record: a write of the central station address sends the trunk its report again, and one of the trunk enable
set re-evaluates it (R164, R166). -/
def State.writePark (s : State) (pairs : List (Nat × Nat)) : State :=
  let t := { s with park := pairs.foldl (fun k p => k.write p.1 p.2) s.park }
  let t := if pairs.any fun p => p.1 == 5 then t.produce .tp else t
  if pairs.any fun p => p.1 == 9 then t.evaluate .tp else t

/-- The fields of a line whose change has it sent again: board address, line, lane and port (R128). -/
def BoardLine.binding (b : BoardLine) : Nat × Nat × Fin 64 × Port := (b.address, b.line, b.lane, b.port)

/-- A written board line and its pending update (R128): marked pending when it is enabled by the write or when an enabled line
changes its binding, dropped when it is disabled. -/
def State.writeLine (s : State) (j : Fin 192) (pairs : List (Nat × Nat)) : State :=
  let old := s.lines.get j
  let new := pairs.foldl (fun b p => b.write p.1 p.2) old
  let marks := new.enable && (!old.enable || decide (new.binding ≠ old.binding))
  let new' := if marks then { new with pending := some (s.lineContent new) }
    else if old.enable && !new.enable then { new with pending := none } else new
  let t := { s with lines := put s.lines j new' }
  if marks then t.oweBoardRuns new.port 1 else t

/-- The link and the queues of SP k following a change of its enable: flushed and HELD when it goes OFF (R113), and up with its notice
when it goes ON and the loader is READY, the offers still owed from the HELD time being refused (R112, R166). -/
def State.followEnable (s : State) (k : Fin 6) (old new : Bool) : State :=
  if old && !new then s.disablePort k
  else if !old && new && s.linkUp (.sp k) then (s.refuseOwed (.sp k)).linkUpNotice (.sp k) else s

/-- A written segment record (R113, R117, R122, R154, R162 to R164, R166): the port's links and queues follow its enable, the
zone is sent its report again when its station address is written, a write of its enable set re-evaluates its report, and so do
sources that the write has moved, at both of their destinations. -/
def State.writeSegment (s : State) (k : Fin 6) (pairs : List (Nat × Nat)) : State :=
  let old := s.segment k
  let new := pairs.foldl (fun g p => g.write p.1 p.2) old
  let t := (s.setSegment k new).followEnable k old.enable new.enable
  let t := if pairs.any fun p => p.1 == 9 then t.produce (.sp k) else t
  let t := if pairs.any fun p => p.1 == 11 then t.evaluate (.sp k) else t
  t.evaluateEach (s.moved t)

/-- Legalized pairs written to one entry of a table, with the consequences its chapter gives (R180). -/
def State.writeEntry (s : State) (t : TableId) (index : Nat) (pairs : List (Nat × Nat)) : State :=
  match t with
  | .park => s.writePark pairs
  | .lane => if h : index < 64 then s.writeLane ⟨index, h⟩ pairs else s
  | .rule => if h : index < 24 then s.writeRule ⟨index, h⟩ pairs else s
  | .segment => if h : index < 6 then s.writeSegment ⟨index, h⟩ pairs else s
  | .boardLine => if h : index < 192 then s.writeLine ⟨index, h⟩ pairs else s
  | _ => s

/-! ## The checks of a write (R179) -/

/-- What becomes of a table write: refused with a status and the failing pair, counting from 1, or accepted with the state it
leaves and whether a value was legalized. -/
inductive WriteResult where
  | refused (status : Status) (pair : Option Nat)
  | accepted (state : State) (legalized : Bool)

/-- The first pair, counting from 1, that a predicate picks. -/
def firstPair (pairs : List (Nat × Nat)) (bad : Nat × Nat → Bool) : Option Nat :=
  (pairs.findIdx? bad).map (· + 1)

/-- Check 4 of R179 for one pair: a field the table does not have or that is read-only, or one named in two pairs. -/
def TableId.badField (t : TableId) (pairs : List (Nat × Nat)) (p : Nat × Nat) : Bool :=
  p.1 == 0 || decide (t.writable < p.1) || decide (1 < (pairs.filter fun q => q.1 == p.1).length)

/-- Check 6 of R179 for one pair: a legalized ride number that is not 0 and that another lane holds (R4). -/
def State.duplicateRide (s : State) (t : TableId) (index : Nat) (p : Nat × Nat) : Bool :=
  let ride := t.legalize p.1 p.2
  t == .lane && p.1 == 1 && ride != 0 &&
    (List.finRange 64).any fun i => i.val != index && (s.lane i).config.ride == ride

/-- Checks 2 to 6 of R179 in order, and the write itself (R179, R180); the pair count is the request's own check. -/
def State.writeTable (s : State) (table index : Nat) (pairs : List (Nat × Nat)) : WriteResult :=
  match tableOfCode table with
  | none => .refused .badTable none
  | some t =>
    if t.entries ≤ index then .refused .badIndex none
    else
      match firstPair pairs (t.badField pairs) with
      | some j => .refused .badField (some j)
      | none =>
        match firstPair pairs fun p => s.dayOpen && t.shutOnly p.1 with
        | some j => .refused .refusedState (some j)
        | none =>
          match firstPair pairs (s.duplicateRide t index) with
          | some j => .refused .duplicate (some j)
          | none => .accepted (s.writeEntry t index (t.legalPairs pairs)) (pairs.any fun p => t.legalizes p.1 p.2)

end Sys2Proof.Machine
end

