-- ==== Sys2Proof/Machine/LoaderSteps.lean ====
section
/-! DEFINITION. The Settings Loader: the probe, one image entry, truncation, and the end of a load. -/

namespace Sys2Proof.Machine

/-- Whether a header is that of an image: the signature 0xC7, 0x3A and format 1 (R189, R198). -/
def headerMatches (header : List Byte) : Bool := header.take 3 == [0xC7#8, 0x3A#8, 0x01#8]

/-- PROBING: the flash asked for its identification and the header read, but for its reserved bytes, and the load decided (R189).
`header` is none where the flash gives no identification, and else how many header bytes it gives before it stops answering: the rest
read as 0xFF, and so does every entry of the load (R191, log entry 7). A header that counts no entry has had its last one applied at once (R190, R193, log entry 21). -/
def State.probe (s : State) (header : Option Nat) : State :=
  if s.loader.state ≠ .probing then s
  else
    match header with
    | none => s.loaderReady .absent
    | some given =>
      let bytes := s.flashBytes given 0 5
      if !headerMatches bytes then s.loaderReady .blank
      else
        let count := fieldAt bytes 3 2
        let t := { s with
          loader := { s.loader with state := .loading, position := 0, count := count, silent := decide (given < 5) } }
        if count = 0 then t.loaderReady .loaded else t

/-- LOADER_PROBE (R189). -/
def execLoaderProbe (header : Option Nat) (s : State) : Host.Outcome State Fault Refusal :=
  whileReleased s fun s => s.probe header

/-- An entry at image position `i`, as table, index, field and value (R198). -/
def entryFields (bytes : List Byte) : Nat × Nat × Nat × Nat :=
  (fieldAt bytes 0 1, fieldAt bytes 1 2, fieldAt bytes 3 1, fieldAt bytes 4 2)

/-- An entry applied as a one-pair table write, the loader's counters moved by its result (R190, R199). -/
def State.applyEntry (s : State) (bytes : List Byte) : State :=
  let (table, index, field, value) := entryFields bytes
  match s.writeTable table index [(field, value)] with
  | .refused _ _ => { s with loader := { s.loader with skipped := s.loader.skipped + 1 } }
  | .accepted t legalized =>
    if legalized then { t with loader := { t.loader with legalized := t.loader.legalized + 1 } } else t

/-- A load that ends TRUNCATED: IMAGE_FAULT latched, then READY (R191). -/
def State.truncateLoad (s : State) : State :=
  (State.evaluate { s with attn := { s.attn with imageFault := true } } .tp).loaderReady .truncated

/-- How many bytes of the next entry the flash gives: none once it has stopped answering in this load (R191). -/
def Loader.entryGiven (l : Loader) (given : Nat) : Nat := if l.silent then 0 else given

/-- LOADING: the next entry read and applied; the last one ends the load, and one that does not fit the image space truncates it
(R190, R191, R193). `given` is how many bytes of the entry the flash gives before it stops answering: the rest read as 0xFF, the entry
so read is applied, and every later entry reads as 0xFF throughout (R191, log entry 7). -/
def State.loadEntry (s : State) (given : Nat) : State :=
  if s.loader.state ≠ .loading then s
  else
    let i := s.loader.position
    if Config.flashSize < 14 + 6 * i then s.truncateLoad
    else
      let given := s.loader.entryGiven given
      let t := s.applyEntry (s.flashBytes given (8 + 6 * i) 6)
      let t := { t with loader := { t.loader with position := i + 1, silent := decide (given < 6) } }
      if s.loader.count ≤ i + 1 then t.loaderReady .loaded else t

/-- LOADER_ENTRY (R190). -/
def execLoaderEntry (given : Nat) (s : State) : Host.Outcome State Fault Refusal :=
  whileReleased s fun s => s.loadEntry given

end Sys2Proof.Machine
end

