-- ==== Sys2Proof/Machine/LaneTable.lean ====
section
/-! DEFINITION. The Lane Table: the changes of mode with all their effects, and the ride-status actions. -/

namespace Sys2Proof.Machine

/-- Opening (R10): the estimate starts afresh. -/
def Lane.opening (l : Lane) (target : LaneMode) : Lane :=
  { l with live := { l.live with
      mode := target
      q := 0
      entries := 0
      bs := 0
      bp := 0
      skew := 0
      stalePeriods := 0
      stale := false
      r16 := l.config.nominalRate
      warm := 0
      wRaw := l.config.walkTime
      posted := postedWait l.config.walkTime l.config.boardStep } }

/-- A move among open modes reinitializes nothing (R11). -/
def Lane.moved (l : Lane) (target : LaneMode) : Lane := { l with live := { l.live with mode := target } }

/-- Closing keeps the estimate, the staleness state and the window list (R12). -/
def Lane.closing (l : Lane) : Lane := { l with live := { l.live with mode := .closed } }

/-- Down entry at operating minute `n` protects the windows that are CURRENT or in GRACE (R13, R48). -/
def Lane.downEntry (l : Lane) (n : Nat) : Lane :=
  { l with live := { l.live with mode := .down }, windows := l.protectRunning n }

/-- The estimator fields that restart sets, by target mode and evacuated flag, before the wait is computed (R14). -/
def Lane.restartFields (l : Lane) (target : LaneMode) (evacuated : Bool) : Lane :=
  { l with live := { l.live with
      mode := target
      warm := if target = .passOnly then l.live.warm else 0
      q := if evacuated then 0 else l.live.q
      skew := if evacuated then 0 else l.live.skew
      stalePeriods := 0
      stale := false } }

/-- Restart (R14): the fields set, then W_raw and posted computed without a sample. -/
def Lane.restart (l : Lane) (target : LaneMode) (evacuated : Bool) : Lane := (l.restartFields target evacuated).computeWait

/-- The changes of mode, by current and target mode (R9): the lane's own effects, and whether the lane is published at once
(R134). A target that is no change, or DOWN from CLOSED, gives none (R9 check 5, R15). -/
def Lane.changeMode (l : Lane) (target : LaneMode) (evacuated : Bool) (n : Nat) : Option (Lane × Bool) :=
  if target = l.live.mode then none
  else
    match l.live.mode, target with
    | .closed, .down => none
    | .closed, _ => some (l.opening target, true)
    | _, .closed => some (l.closing, true)
    | .down, _ => some (l.restart target evacuated, true)
    | _, .down => some (l.downEntry n, true)
    | _, _ => some (l.moved target, false)

/-- A change of lane `i`'s mode with all its effects in place: the lane's own, GRANT_LOW evaluated, the immediate publish, and the
lane's attention conditions evaluated (R8, R10 to R14). -/
def State.changeMode (s : State) (i : Fin 64) (target : LaneMode) (evacuated : Bool) : State :=
  match (s.lane i).changeMode target evacuated s.minute with
  | none => s
  | some (l, publishes) =>
    let l := l.evaluateGrantLow s.minute
    let t := s.setLane i l
    let t := if publishes then t.publishLane i s.minute else t
    t.evaluateEach (t.touched fun j => if j = i then [.laneDown, .laneStale] ++ changedGrantLow (s.lane i) l else [])

/-- The last ride status of lane `i` recorded (R16). -/
def State.recordStatus (s : State) (i : Fin 64) (r : RideStatus) : State :=
  let l := s.lane i
  s.setLane i { l with live := { l.live with lastStatus := some r } }

/-- Auto-down: a FAULT on an open lane whose auto-down is ON causes down entry (R17). -/
def State.autoDown (s : State) (i : Fin 64) : State :=
  let l := s.lane i
  if l.live.mode.isOpen && l.config.autoDown then s.changeMode i .down false else s

/-- Auto-restart: an UP on a DOWN lane restarts it into its auto-restart mode, the evacuated flag clear (R18). -/
def State.autoRestart (s : State) (i : Fin 64) : State :=
  let l := s.lane i
  match l.config.autoRestart.target with
  | some m => if l.live.mode = .down then s.changeMode i m false else s
  | none => s

end Sys2Proof.Machine
end

