-- ==== Sys2Proof/Machine/Requests.lean ====
section
/-! DEFINITION. The management requests: each one's checks, what it carries out, and its reply. -/

namespace Sys2Proof.Machine

/-- A request refused: nothing changed, a status and the content its rule gives for a refusal (R175). -/
def refuse (s : State) (status : Status) (content : List Byte) : Carried := ⟨s, status, content, false⟩

/-- A reply, when the payload has the length the request calls for, else BAD_REQUEST with nothing carried out (R175). -/
def withLength (args : List Byte) (length : Nat) (s : State) (bad : List Byte) (f : Unit → Carried) : Carried :=
  if args.length = length then f () else refuse s .badRequest bad

/-! ## SET_MODE (R9 to R15) -/

/-- The reply content of SET_MODE: lane and mode (R9, R197). -/
def modeContent (lane : Nat) (m : LaneMode) : List Byte := [byteOf lane, byteOf (modeCode m)]

/-- SET_MODE carried out: the checks of R9 in order, then the change of mode, or nothing for the current mode (R15). -/
def carrySetMode (args : List Byte) (s : State) : Carried :=
  withLength args 3 s (absentByte :: unstated codeSetMode 1 1) fun _ =>
    let lane := fieldAt args 0 1
    if h : lane < 64 then
      let i : Fin 64 := ⟨lane, h⟩
      let old := modeContent lane (s.lane i).live.mode
      match modeOfCode (fieldAt args 1 1) with
      | none => refuse s .badRequest old
      | some target =>
        if !s.dayOpen then refuse s .refusedState old
        else if !(s.lane i).inUse then refuse s .refusedState old
        else if (s.lane i).live.mode = .closed ∧ target = .down then refuse s .refusedState old
        else
          let t := s.changeMode i target (fieldAt args 2 1 != 0)
          ⟨t, .ok, modeContent lane (t.lane i).live.mode, false⟩
    else refuse s .badIndex (modeContent lane .closed)

/-- SET_MODE (R9). -/
def execSetMode (h : MgmtHeader) (args : List Byte) (s : State) : Host.Outcome State Fault Refusal :=
  takeRequest (requestOf h codeSetMode args) s (carrySetMode args)

/-! ## READ_TABLE and WRITE_TABLE (R178 to R180) -/

/-- The reply content of READ_TABLE; the next index and field of a complete read are 0xFFFF and 0xFF (R197). -/
def readContent (table first field : Nat) (r : ReadResult) : List Byte :=
  [byteOf table] ++ le16 first ++ [byteOf field, byteOf r.values.length]
    ++ le16 ((r.next.map Prod.fst).getD 0xFFFF) ++ [byteOf ((r.next.map Prod.snd).getD 0xFF)]
    ++ r.values.flatMap le16

/-- READ_TABLE carried out (R178). -/
def carryReadTable (args : List Byte) (s : State) : Carried :=
  withLength args 6 s [] fun _ =>
    let table := fieldAt args 0 1
    let first := fieldAt args 1 2
    let count := fieldAt args 3 2
    let field := fieldAt args 5 1
    match tableOfCode table with
    | none => refuse s .badTable []
    | some t =>
      if t.entries ≤ first then refuse s .badIndex []
      else if count = 0 then refuse s .badRequest []
      else if field = 0 ∨ t.fields < field then refuse s .badField []
      else
        let r := s.readTable t first count field
        ⟨s, if r.next.isNone then .ok else .part, readContent table first field r, false⟩

/-- READ_TABLE (R178). -/
def execReadTable (h : MgmtHeader) (args : List Byte) (s : State) : Host.Outcome State Fault Refusal :=
  takeRequest (requestOf h codeReadTable args) s (carryReadTable args)

/-- The reply content of WRITE_TABLE: table, index, pairs written and failing pair (R179, R197). -/
def writeContent (args : List Byte) (written : Nat) (failing : Option Nat) : List Byte :=
  (if 3 ≤ args.length then args.take 3 else unstated codeWriteTable 0 3)
    ++ [byteOf written, byteOf (failing.getD 0xFF)]

/-- WRITE_TABLE carried out (R179, R180). -/
def carryWriteTable (args : List Byte) (s : State) : Carried :=
  let count := fieldAt args 3 1
  if args.length ≠ 4 + 3 * count ∨ count = 0 ∨ 12 < count then refuse s .badRequest (writeContent args 0 none)
  else
    match s.writeTable (fieldAt args 0 1) (fieldAt args 1 2) (parsePairs (args.drop 4)) with
    | .refused status pair => refuse s status (writeContent args 0 pair)
    | .accepted t legalized => ⟨t, if legalized then .okLegalized else .ok, writeContent args count none, false⟩

/-- WRITE_TABLE (R179). -/
def execWriteTable (h : MgmtHeader) (args : List Byte) (s : State) : Host.Outcome State Fault Refusal :=
  takeRequest (requestOf h codeWriteTable args) s (carryWriteTable args)

/-! ## OPEN_DAY and CLOSE_DAY (R146 to R149) -/

/-- OPEN_DAY carried out; a refusal carries the DO that stands (R146, R147). -/
def carryOpenDay (args : List Byte) (s : State) : Carried :=
  let standing := le32 s.clock.dayOffset
  withLength args 4 s standing fun _ =>
    if s.dayOpen then refuse s .refusedState standing
    else
      let written := fieldAt args 0 4
      let stored := storedOffset written
      ⟨s.openDay stored, if stored = written then .ok else .okLegalized, le32 stored, false⟩

/-- OPEN_DAY (R147). -/
def execOpenDay (h : MgmtHeader) (args : List Byte) (s : State) : Host.Outcome State Fault Refusal :=
  takeRequest (requestOf h codeOpenDay args) s (carryOpenDay args)

/-- CLOSE_DAY carried out: the checks of R148, then the event of R149 with the record counts taken first. -/
def carryCloseDay (args : List Byte) (s : State) : Carried :=
  let noCounts := unstated codeCloseDay 1 6
  withLength args 0 s (absentByte :: noCounts) fun _ =>
    if !s.dayOpen then refuse s .refusedState (absentByte :: noCounts)
    else
      match s.firstOpenLane with
      | some i => refuse s .refusedState (byteOf i.val :: noCounts)
      | none =>
        ⟨s.closeDay, .ok,
          absentByte :: (le16 (countState s.register 1) ++ le16 (countState s.register 3) ++ le16 (countState s.register 2)), false⟩

/-- CLOSE_DAY (R149). -/
def execCloseDay (h : MgmtHeader) (args : List Byte) (s : State) : Host.Outcome State Fault Refusal :=
  takeRequest (requestOf h codeCloseDay args) s (carryCloseDay args)

/-! ## POST_GRANTS (R56, R57) -/

/-- A grant whose lane index has passed check 2 of R56. -/
def grantOf (g : Nat × Nat × Int) : Grant := ⟨if h : g.1 < 64 then ⟨g.1, h⟩ else 0, g.2.1, g.2.2⟩

/-- Grants added at the tail of the ring, as many as there is room for (R57). -/
def State.postGrants (s : State) (grants : List Grant) : State :=
  State.startRun { s with ring := { s.ring with
    grants := s.ring.grants ++ grants.take (Config.ringCapacity - s.ring.grants.length) } }

/-- POST_GRANTS carried out: the checks of R56, then the posting of R57. Every reply carries the ring occupancy (R55). -/
def carryPostGrants (args : List Byte) (s : State) : Carried :=
  let refusal := unstated codePostGrants 0 1 ++ le16 s.ring.grants.length
  let count := fieldAt args 0 1
  let raw := parseGrants (args.drop 1)
  if args.length ≠ 1 + 4 * count ∨ count = 0 ∨ 20 < count then refuse s .badRequest refusal
  else if raw.any fun g => decide (63 < g.1) then refuse s .badIndex refusal
  else if raw.any fun g => decide (Config.lastMinute < g.2.1) then refuse s .badField refusal
  else
    let t := s.postGrants (raw.map grantOf)
    let accepted := min count (Config.ringCapacity - s.ring.grants.length)
    ⟨t, if accepted = count then .ok else .part, byteOf accepted :: le16 t.ring.grants.length, false⟩

/-- POST_GRANTS (R57). -/
def execPostGrants (h : MgmtHeader) (args : List Byte) (s : State) : Host.Outcome State Fault Refusal :=
  takeRequest (requestOf h codePostGrants args) s (carryPostGrants args)

/-! ## VOID_PASS and QUERY_PASS (R85, R86) -/

/-- The reply content of VOID_PASS: the record's state, party and window start, or their absent markers (R85, R196, R197). -/
def voidContent (ticketAndLane : List Byte) (r : Option PassRecord) : List Byte :=
  ticketAndLane ++
    match r with
    | some r => [byteOf (passStateCode r.state), byteOf r.party] ++ le16 (r.windowStart.getD absentMinute)
    | none => [0, 0] ++ le16 absentMinute

/-- VOID_PASS carried out (R85). -/
def carryVoidPass (args : List Byte) (s : State) : Carried :=
  withLength args 5 s (voidContent (unstated codeVoidPass 0 4 ++ [absentByte]) none) fun _ =>
    let lane := fieldAt args 4 1
    if h : lane < 64 then
      let (t, status, r) := s.voidPass ⟨lane, h⟩ (fieldAt args 0 4)
      ⟨t, status, voidContent args r, false⟩
    else refuse s .badIndex (voidContent args none)

/-- VOID_PASS (R85). -/
def execVoidPass (h : MgmtHeader) (args : List Byte) (s : State) : Host.Outcome State Fault Refusal :=
  takeRequest (requestOf h codeVoidPass args) s (carryVoidPass args)

/-- One record of a QUERY_PASS reply; its last minute is the window start, or the protected since of a PROTECTED record (R86,
R197). -/
def recordBytes (r : PassRecord) : List Byte :=
  [byteOf r.lane.val, byteOf (passStateCode r.state), byteOf r.party] ++ le16 r.issuedAt ++
    le16 (match r.state with | .issued w => w | .redeemed w => w | .carried t => t)

/-- QUERY_PASS carried out: up to ten records, and the lane of the eleventh (R86). -/
def carryQueryPass (args : List Byte) (s : State) : Carried :=
  let nothing : List Byte := [0, absentByte]
  withLength args 5 s nothing fun _ =>
    let first := fieldAt args 4 1
    if 63 < first then refuse s .badIndex nothing
    else
      let records := recordsFrom s.register (fieldAt args 0 4) first
      match records, records.drop 10 with
      | [], _ => ⟨s, .notFound, nothing, false⟩
      | rs, [] => ⟨s, .ok, [byteOf rs.length, absentByte] ++ rs.flatMap recordBytes, false⟩
      | rs, next :: _ => ⟨s, .part, [10, byteOf next.lane.val] ++ (rs.take 10).flatMap recordBytes, false⟩

/-- QUERY_PASS (R86). -/
def execQueryPass (h : MgmtHeader) (args : List Byte) (s : State) : Host.Outcome State Fault Refusal :=
  takeRequest (requestOf h codeQueryPass args) s (carryQueryPass args)

/-! ## CLEAR_ATTENTION and INJECT_NOTICE (R167, R168) -/

/-- Whether an optional byte argument names an index: 0xFF names none and so leaves all of them (R168, R196). -/
def namedOrAll (argument i : Nat) : Bool := argument == 255 || argument == i

/-- Whether the trunk's clear takes lane `i`'s COUNT_SKEW: latched, routed to the trunk, and named (R168). -/
def State.clearsSkew (s : State) (lane : Nat) (i : Fin 64) : Bool :=
  (s.lane i).countSkew && decide (s.laneRoute .countSkew i = .tp) && namedOrAll lane i.val

/-- The latched sources and notices of a set of kinds cleared (R168). -/
def State.clearSources (s : State) (kinds : BitVec 16) (lane zone : Nat) : State :=
  { s with
    lanes := tabulate fun i =>
      if hasKind kinds .countSkew && s.clearsSkew lane i then { s.lane i with countSkew := false } else s.lane i
    attn := { s.attn with
      imageFault := s.attn.imageFault && !hasKind kinds .imageFault
      registerFull := s.attn.registerFull && !hasKind kinds .registerFull
      clockEnd := s.attn.clockEnd && !hasKind kinds .clockEnd
      overruns := tabulate fun p => s.attn.overruns.get p && !hasKind kinds .portOverrun
      notices := tabulate fun z =>
        if hasKind kinds .zoneNotice && namedOrAll zone z.val then none else s.attn.notices.get z } }

/-- How many latched sources and notices the part holds (R168). -/
def State.latchedSources (s : State) : Nat :=
  (flagCode s.attn.imageFault) + (flagCode s.attn.registerFull) + (flagCode s.attn.clockEnd)
    + (s.attn.overruns.toList.filter id).length
    + ((List.finRange 64).filter fun i => (s.lane i).countSkew).length
    + (s.attn.notices.toList.filter Option.isSome).length

/-- CLEAR_ATTENTION carried out (R168). -/
def carryClearAttention (args : List Byte) (s : State) : Carried :=
  let refusal := unstated codeClearAttention 0 1
  withLength args 4 s refusal fun _ =>
    let lane := fieldAt args 2 1
    let zone := fieldAt args 3 1
    if (63 < lane ∧ lane ≠ 255) ∨ (5 < zone ∧ zone ≠ 255) then refuse s .badIndex refusal
    else
      let t := s.clearSources (BitVec.ofNat 16 (fieldAt args 0 2)) lane zone
      let zones := (List.finRange 6).filter fun z => s.attn.notices.get z != t.attn.notices.get z
      ⟨t.evaluateEach (.tp :: zones.map .sp), .ok, [byteOf (s.latchedSources - t.latchedSources)], false⟩

/-- CLEAR_ATTENTION (R168). -/
def execClearAttention (h : MgmtHeader) (args : List Byte) (s : State) : Host.Outcome State Fault Refusal :=
  takeRequest (requestOf h codeClearAttention args) s (carryClearAttention args)

/-- INJECT_NOTICE carried out (R167). -/
def carryInjectNotice (args : List Byte) (s : State) : Carried :=
  let refusal := absentByte :: unstated codeInjectNotice 1 1
  withLength args 2 s refusal fun _ =>
    let zone := fieldAt args 0 1
    if h : zone < 6 then
      let z : Fin 6 := ⟨zone, h⟩
      let t := { s with attn := { s.attn with notices := put s.attn.notices z (some (fieldAt args 1 1)) } }
      ⟨State.evaluate t (.sp z), .ok, args, false⟩
    else refuse s .badIndex refusal

/-- INJECT_NOTICE (R167). -/
def execInjectNotice (h : MgmtHeader) (args : List Byte) (s : State) : Host.Outcome State Fault Refusal :=
  takeRequest (requestOf h codeInjectNotice args) s (carryInjectNotice args)

/-! ## RESET (R182) -/

/-- RESET ENGINE carried out: the reply alone; the reset follows its transmission. The segment byte is not read, and what the
reply's segment byte shows is a free value (R182, log entry 9). -/
def carryResetEngine (s : State) : Carried :=
  ⟨s, .ok, byteOf levelEngine :: unstated codeReset 1 1, true⟩

/-- RESET_ENGINE: a RESET of level ENGINE (R182). -/
def execResetEngine (h : MgmtHeader) (segment : Byte) (s : State) : Host.Outcome State Fault Refusal :=
  takeRequest (requestOf h codeReset [byteOf levelEngine, segment]) s carryResetEngine

/-- RESET SEGMENT k carried out: the reset handed to SP k (R182). -/
def carryResetSegment (segment : Byte) (s : State) : Carried :=
  if h : segment.toNat < 6 then
    ⟨{ s with segmentResetsDue := adjust s.segmentResetsDue ⟨segment.toNat, h⟩ (· + 1) }, .ok,
      [byteOf levelSegment, segment], false⟩
  else refuse s .badIndex (unstated codeReset 0 2)

/-- RESET_SEGMENT: a RESET of level SEGMENT (R182). -/
def execResetSegment (h : MgmtHeader) (segment : Byte) (s : State) : Host.Outcome State Fault Refusal :=
  takeRequest (requestOf h codeReset [byteOf levelSegment, segment]) s (carryResetSegment segment)

/-! ## READ_STATUS (R183) -/

/-- View 0, park: two bytes a field, OPS and DO four (R183, R197). -/
def State.parkView (s : State) : List Byte :=
  le16 (dayCode s.clock.day) ++ le32 s.clock.ops ++ le32 s.clock.dayOffset
    ++ le16 (loaderStateCode s.loader.state) ++ le16 (outcomeCode s.loader.outcome)
    ++ le16 s.loader.skipped ++ le16 s.loader.legalized
    ++ le16 (flashCode s.flash.access) ++ le16 (flagCode s.flash.lastWriteOk)
    ++ s.occupancy.flatMap le16
    ++ le16 s.ring.grants.length ++ le16 (flagCode s.ring.headHeld)
    ++ le16 s.pendingLines

/-- READ_STATUS carried out (R183). -/
def carryReadStatus (args : List Byte) (s : State) : Carried :=
  withLength args 1 s [] fun _ =>
    let view := fieldAt args 0 1
    if view = 0 then ⟨s, .ok, s.parkView, false⟩
    else
      match allPorts[view - 1]? with
      | some p => ⟨s, .ok, (portCounterFields (s.port p).counters).flatMap le16, false⟩
      | none => refuse s .badIndex []

/-- READ_STATUS (R183). -/
def execReadStatus (h : MgmtHeader) (args : List Byte) (s : State) : Host.Outcome State Fault Refusal :=
  takeRequest (requestOf h codeReadStatus args) s (carryReadStatus args)

/-! ## Flash access (R184, R185) -/

/-- The checks a flash read or write shares: length, range, and then the flash state (R184, R185). For a read R184 does not say whether
BUSY comes before its two checks; R185 calls the checks of a write "those of a FLASH_READ, in the same order, followed by the flash
state" (DEDUCED, log entry 37). -/
def flashCheck (s : State) (offset length : Nat) : Option Status :=
  if length = 0 ∨ 64 < length then some .badRequest
  else if Config.flashSize < offset + length then some .badIndex
  else if s.flash.access = .busy then some .busy
  else none

/-- FLASH_READ carried out: the bytes as the flash gives them, `given` of them before it stops answering and 0xFF from then on (R184,
log entry 7). -/
def carryFlashRead (args : List Byte) (given : Nat) (s : State) : Carried :=
  withLength args 3 s [] fun _ =>
    let offset := fieldAt args 0 2
    let length := fieldAt args 2 1
    match flashCheck s offset length with
    | some status => refuse s status []
    | none => ⟨s, .ok, s.flashBytes given offset length, false⟩

/-- FLASH_READ (R184). -/
def execFlashRead (h : MgmtHeader) (args : List Byte) (given : Nat) (s : State) : Host.Outcome State Fault Refusal :=
  takeRequest (requestOf h codeFlashRead args) s (carryFlashRead args given)

/-- FLASH_WRITE carried out: accepted, the state becomes BUSY, the flag is cleared, and offset and length are recorded (R185). -/
def carryFlashWrite (args : List Byte) (s : State) : Carried :=
  let refusal := unstated codeFlashWrite 0 3
  let offset := fieldAt args 0 2
  let length := fieldAt args 2 1
  if args.length ≠ 3 + length then refuse s .badRequest refusal
  else
    match flashCheck s offset length with
    | some status => refuse s status refusal
    | none =>
      ⟨{ s with flash := { s.flash with
          access := .busy, lastWriteOk := false, offset := offset, length := length, data := args.drop 3 } },
        .ok, args.take 3, false⟩

/-- FLASH_WRITE (R185). -/
def execFlashWrite (h : MgmtHeader) (args : List Byte) (s : State) : Host.Outcome State Fault Refusal :=
  takeRequest (requestOf h codeFlashWrite args) s (carryFlashWrite args)

/-- FLASH_STATUS carried out (R184). -/
def carryFlashStatus (args : List Byte) (s : State) : Carried :=
  withLength args 0 s (unstated codeFlashStatus 0 5) fun _ =>
    ⟨s, .ok, [byteOf (flashCode s.flash.access), byteOf (flagCode s.flash.lastWriteOk)] ++ le16 s.flash.offset
      ++ [byteOf s.flash.length], false⟩

/-- FLASH_STATUS (R184). -/
def execFlashStatus (h : MgmtHeader) (args : List Byte) (s : State) : Host.Outcome State Fault Refusal :=
  takeRequest (requestOf h codeFlashStatus args) s (carryFlashStatus args)

/-- A flash write completed (R185): when the bytes read back equal those of the request the range holds them and the flag is set. When
they do not, or the device does not respond, the flag stays clear; what the range then holds the manual does not say, and its bytes are
free values (log entry 38). -/
def State.completeWrite (s : State) (verified : Bool) : State :=
  if s.flash.access = .busy then
    let t := if verified then { s with flash := { s.flash with mem := s.flash.mem.writeAll s.flash.offset s.flash.data } }
      else s.undefineRange
    { t with flash := { t.flash with access := .idle, lastWriteOk := verified } }
  else s

/-- FLASH_WRITE_COMPLETE (R185). `verified` is whether the bytes that the port reads back equal the request's. -/
def execFlashWriteComplete (verified : Bool) (s : State) : Host.Outcome State Fault Refusal :=
  whileReleased s fun s => s.completeWrite verified

end Sys2Proof.Machine
end

