-- ==== Sys2Proof/Machine/Scans.lean ====
section
/-! DEFINITION. The five lane actions, each as its block takes it. -/

namespace Sys2Proof.Machine

/-- A lane action for an unused lane is treated as unmapped: dropped and counted (R1). -/
def State.onLaneInUse (s : State) (i : Fin 64) (f : State → State) : State :=
  if (s.lane i).inUse then f s else s.count fun c => { c with unmapped := inc c.unmapped }

/-- A count action while the day is SHUT: dropped, and the off-day scan counter grows (R23). -/
def State.onOpenDay (s : State) (f : State → State) : State :=
  if s.dayOpen then f s else s.count fun c => { c with offDay := inc c.offDay }

/-- A COUNT_ENTRY taken by the Flow Estimator (R23, R24). -/
def State.takeEntry (s : State) (i : Fin 64) (c : Nat) : State :=
  s.onOpenDay fun s => s.setLane i { s.lane i with live := (s.lane i).live.countEntry c }

/-- A COUNT_BOARDING taken by the Flow Estimator; LANE_STALE is given to the Unit when the flag clears (R23, R25, R26, R160). -/
def State.takeBoarding (s : State) (i : Fin 64) (c c2 : Nat) : State :=
  s.onOpenDay fun s =>
    let t := s.setLane i { s.lane i with live := (s.lane i).live.countBoarding c c2 }
    if (t.lane i).live.stale = (s.lane i).live.stale then t else t.evaluate (t.laneRoute .laneStale i)

/-- A pass request taken by the Pass Register, and its answer sent (R72, R105). -/
def State.takePassRequest (s : State) (o : ScanOrigin) (i : Fin 64) (ticket party : Nat) : State :=
  let (t, a) := s.passRequest i ticket party
  t.sendAnswer o ticket a

/-- A pass return taken by the Pass Register with the event time of its stamp, and its answer sent (R79, R102, R105, R155). -/
def State.takePassReturn (s : State) (o : ScanOrigin) (i : Fin 64) (ticket stamp receipt : Nat) : State :=
  let (event, verdict) := s.convertStamp o.segment stamp receipt
  let (t, a) := (s.count fun c => c.stamp verdict).passReturn i ticket event
  t.sendAnswer o ticket a

/-- A ride-status action taken by the Lane Table: recorded, then auto-down or auto-restart; a bad status is counted (R16 to
R18). -/
def State.takeRideStatus (s : State) (i : Fin 64) (status : Nat) : State :=
  match rideStatusOfCode status with
  | none => s.count fun c => { c with badStatus := inc c.badStatus }
  | some .fault => (s.recordStatus i .fault).autoDown i
  | some .up => (s.recordStatus i .up).autoRestart i

/-- COUNT_ENTRY (R24). -/
def execCountEntry (i : Fin 64) (c : Nat) (s : State) : Host.Outcome State Fault Refusal :=
  takeAction (.countEntry i c) s fun s => s.onLaneInUse i fun s => s.takeEntry i c

/-- COUNT_BOARDING (R25, R26). -/
def execCountBoarding (i : Fin 64) (c c2 : Nat) (s : State) : Host.Outcome State Fault Refusal :=
  takeAction (.countBoarding i c c2) s fun s => s.onLaneInUse i fun s => s.takeBoarding i c c2

/-- PASS_REQUEST (R72). -/
def execPassRequest (o : ScanOrigin) (i : Fin 64) (ticket party : Nat) (s : State) : Host.Outcome State Fault Refusal :=
  takeAction (.passRequest o i ticket party) s fun s => s.onLaneInUse i fun s => s.takePassRequest o i ticket party

/-- PASS_RETURN (R79). -/
def execPassReturn (o : ScanOrigin) (i : Fin 64) (ticket stamp receipt : Nat) (s : State) :
    Host.Outcome State Fault Refusal :=
  takeAction (.passReturn o i ticket stamp receipt) s fun s =>
    s.onLaneInUse i fun s => s.takePassReturn o i ticket stamp receipt

/-- RIDE_STATUS (R16). -/
def execRideStatus (i : Fin 64) (status : Nat) (s : State) : Host.Outcome State Fault Refusal :=
  takeAction (.rideStatus i status) s fun s => s.onLaneInUse i fun s => s.takeRideStatus i status

end Sys2Proof.Machine
end

