-- ==== Sys2Proof/Machine/Dispatch.lean ====
section
/-! DEFINITION. The dispatch of a command to its meaning. -/

namespace Sys2Proof.Machine

def exec (i : Instr) (s : State) : Host.Outcome State Fault Refusal :=
  match i with
  | .powerReset => Sys2Proof.Machine.execPowerReset s
  | .engineReset => Sys2Proof.Machine.execEngineReset s
  | .segmentReset k => Sys2Proof.Machine.execSegmentReset k s
  | .secondArrival => Sys2Proof.Machine.execSecondArrival s
  | .minuteBoundary => Sys2Proof.Machine.execMinuteBoundary s
  | .periodBoundary => Sys2Proof.Machine.execPeriodBoundary s
  | .clockEndLatch => Sys2Proof.Machine.execClockEndLatch s
  | .frameReceive p bytes => Sys2Proof.Machine.execFrameReceive p bytes s
  | .routeFrame p => Sys2Proof.Machine.execRouteFrame p s
  | .countEntry l c => Sys2Proof.Machine.execCountEntry l c s
  | .countBoarding l c d => Sys2Proof.Machine.execCountBoarding l c d s
  | .passRequest o l t p => Sys2Proof.Machine.execPassRequest o l t p s
  | .passReturn o l t st rc => Sys2Proof.Machine.execPassReturn o l t st rc s
  | .rideStatus l st => Sys2Proof.Machine.execRideStatus l st s
  | .setMode h a => Sys2Proof.Machine.execSetMode h a s
  | .readTable h a => Sys2Proof.Machine.execReadTable h a s
  | .writeTable h a => Sys2Proof.Machine.execWriteTable h a s
  | .openDay h a => Sys2Proof.Machine.execOpenDay h a s
  | .closeDay h a => Sys2Proof.Machine.execCloseDay h a s
  | .postGrants h a => Sys2Proof.Machine.execPostGrants h a s
  | .grantResolve => Sys2Proof.Machine.execGrantResolve s
  | .voidPass h a => Sys2Proof.Machine.execVoidPass h a s
  | .queryPass h a => Sys2Proof.Machine.execQueryPass h a s
  | .clearAttention h a => Sys2Proof.Machine.execClearAttention h a s
  | .injectNotice h a => Sys2Proof.Machine.execInjectNotice h a s
  | .resetEngine h k => Sys2Proof.Machine.execResetEngine h k s
  | .resetSegment h k => Sys2Proof.Machine.execResetSegment h k s
  | .readStatus h a => Sys2Proof.Machine.execReadStatus h a s
  | .flashRead h a n => Sys2Proof.Machine.execFlashRead h a n s
  | .flashWrite h a => Sys2Proof.Machine.execFlashWrite h a s
  | .flashStatus h a => Sys2Proof.Machine.execFlashStatus h a s
  | .flashWriteComplete b => Sys2Proof.Machine.execFlashWriteComplete b s
  | .mgmtReplyOffer => Sys2Proof.Machine.execMgmtReplyOffer s
  | .boardFrameOffer p => Sys2Proof.Machine.execBoardFrameOffer p s
  | .attnFrameOffer d => Sys2Proof.Machine.execAttnFrameOffer d s
  | .transmitStart p => Sys2Proof.Machine.execTransmitStart p s
  | .transmitComplete p => Sys2Proof.Machine.execTransmitComplete p s
  | .loaderProbe b => Sys2Proof.Machine.execLoaderProbe b s
  | .loaderEntry n => Sys2Proof.Machine.execLoaderEntry n s
  | .resetInputAsserted => Sys2Proof.Machine.execResetInputAsserted s

end Sys2Proof.Machine
end

