-- ==== Sys2Proof/Safety.lean ====
section
/-! DEFINITION. What holds in every state a run reaches, and the words in which the statements speak of a command's surroundings. -/

namespace Sys2Proof.Machine

/-! ## Laws of the state -/

/-- The queues and the ring stay within their sizes, and the queues of a HELD port hold no frame (R55, R111, R120). -/
def State.QueueLaw (s : State) : Prop :=
  (∀ p : Port, (s.port p).rx.length ≤ 24 ∧ (s.port p).tx.length ≤ 48 ∧
    (s.linkUp p = false → (s.port p).rx = [] ∧ (s.port p).tx = [])) ∧
  s.ring.grants.length ≤ 512

/-- While the day is SHUT every lane is CLOSED, not stale and without windows, GRANT_LOW and GRANT_HELD do not hold, the register
is empty, no consumer run is in progress and no boundary is owed (R7, R31, R44, R53, R58, R87, R151). -/
def State.ShutLaw (s : State) : Prop :=
  s.clock.day = .shut →
    (∀ i : Fin 64, (s.lane i).live.mode = .closed ∧ (s.lane i).live.stale = false ∧ (s.lane i).windows = [] ∧
      (s.lane i).grantLow = false) ∧
    s.register = [] ∧ s.ring.headHeld = false ∧ s.ring.running = false ∧ s.clock.minutesDue = [] ∧ s.clock.periodsDue = []

/-- OPS never passes 172,799, DO is a whole minute of one clock day, and every boundary owed fell at a second that OPS has reached
(R146, R150, R151, R153). -/
def State.ClockLaw (s : State) : Prop :=
  s.clock.ops ≤ 172799 ∧ s.clock.dayOffset ≤ 86340 ∧ s.clock.dayOffset % 60 = 0 ∧
    (∀ m ∈ s.clock.minutesDue, 1 ≤ m ∧ 60 * m ≤ s.clock.ops) ∧
    (∀ d ∈ s.clock.periodsDue, 1 ≤ d.ops ∧ d.ops ≤ s.clock.ops ∧ d.ops % d.period = 0)

/-- The Pass Register holds at most 16,384 records, never two of one key, each for a party of 1 to 8 (R68). -/
def State.RegisterLaw (s : State) : Prop :=
  s.register.Pairwise (fun a b => a.key < b.key) ∧ s.register.length ≤ 16384 ∧ ∀ r ∈ s.register, 1 ≤ r.party ∧ r.party ≤ 8

/-- Every ISSUED or REDEEMED record names a window of its lane's list (R50). -/
def State.RecordLaw (s : State) : Prop :=
  ∀ r ∈ s.register, ∀ w, r.windowStart = some w → ∃ x ∈ (s.lane r.lane).windows, x.start = w

/-- A lane's window list: at most 32 windows, in strictly increasing order of start, none after 2879, with issued at most capacity
and capacity at most 4095, under a window length of at least 5 (R2, R44). -/
def Lane.CalendarLaw (l : Lane) : Prop :=
  5 ≤ l.config.windowLength ∧ l.windows.length ≤ 32 ∧ l.windows.Pairwise (fun a b => a.start < b.start) ∧
    ∀ w ∈ l.windows, w.start ≤ 2879 ∧ w.issued ≤ w.capacity ∧ w.capacity ≤ 4095

/-- The calendar law for every lane. -/
def State.CalendarLaw (s : State) : Prop := ∀ i : Fin 64, (s.lane i).CalendarLaw

/-- The party total of the records of lane `i` in a pass state, and so of those that name a window as ISSUED or REDEEMED (R68). -/
def State.riders (s : State) (i : Fin 64) (st : PassState) : Nat :=
  ((s.register.filter fun r => r.lane == i && r.state == st).map PassRecord.party).sum

/-- A window's redeemed is the party total of the REDEEMED records that name it and never exceeds its issued, and its issued is at least
the party total of the ISSUED and REDEEMED records that name it (R44). -/
def State.PromiseLaw (s : State) : Prop :=
  ∀ i : Fin 64, ∀ w ∈ (s.lane i).windows,
    w.redeemed = s.riders i (.redeemed w.start) ∧ w.redeemed ≤ w.issued ∧
      s.riders i (.issued w.start) + s.riders i (.redeemed w.start) ≤ w.issued

/-- The ranges of R2 for the fields of a lane record. -/
def LaneConfig.InRange (c : LaneConfig) : Prop :=
  c.ride ≤ 250 ∧ (16 ≤ c.nominalRate ∧ c.nominalRate ≤ 65535) ∧ c.walkTime ≤ 30 ∧ c.warmUpCount ≤ 15 ∧
    (1 ≤ c.smoothing ∧ c.smoothing ≤ 16) ∧ (c.boardStep = 1 ∨ c.boardStep = 5 ∨ c.boardStep = 10) ∧ c.changeThreshold ≤ 30 ∧
    (1 ≤ c.refreshCount ∧ c.refreshCount ≤ 60) ∧ (5 ≤ c.windowLength ∧ c.windowLength ≤ 60 ∧ c.windowLength % 5 = 0) ∧
    c.firstStart ≤ 2879 ∧ c.grace ≤ 30 ∧ c.earlyTolerance ≤ 15 ∧ c.leadMinimum ≤ 120 ∧
    (1 ≤ c.searchSpan ∧ c.searchSpan ≤ 8) ∧ c.grantLowMark ≤ 4095 ∧ (1 ≤ c.staleLimit ∧ c.staleLimit ≤ 15) ∧
    c.skewLimit ≤ 255

/-- The windows of a lane stand at least a window length apart (R44, R46, R52). -/
def Lane.SpacingLaw (l : Lane) : Prop := l.windows.Pairwise fun a b => a.start + l.config.windowLength ≤ b.start

/-- The spacing of every lane's windows. -/
def State.SpacingLaw (s : State) : Prop := ∀ i : Fin 64, (s.lane i).SpacingLaw

/-- Every lane record lies in the ranges of R2, and no two lanes hold one ride number (R2, R4). -/
def State.LaneRecordLaw (s : State) : Prop :=
  (∀ i : Fin 64, (s.lane i).config.InRange) ∧
    ∀ i j : Fin 64, (s.lane i).config.ride ≠ 0 → (s.lane i).config.ride = (s.lane j).config.ride → i = j

/-- The flash memory is in its canonical form, and a write in progress lies within the image space and holds as many bytes as its
length (R184, R185). -/
def State.FlashLaw (s : State) : Prop :=
  s.flash.mem.wf = true ∧
    (s.flash.access = .busy →
      s.flash.offset + s.flash.length ≤ 65536 ∧ s.flash.data.length = s.flash.length)

/-! ## The surroundings of a command -/

/-- The part is in service: the reset input released and the loader READY (R111, R187). -/
def State.Serving (s : State) : Prop := s.resetHeld = false ∧ s.loader.state = .ready

/-- The agent can take this request: it is IDLE and no other request waits at it (R174). -/
def State.TakesRequest (s : State) (req : MgmtRequest) : Prop :=
  s.Serving ∧ s.agent.mode = .idle ∧ (s.agent.request = none ∨ s.agent.request = some req)

/-- The state in which a request is carried out: it has left the place where the router put it. -/
def State.atRequest (s : State) : State := { s with agent := { s.agent with request := none } }

/-- The state in which a lane action is taken: one hand-off of it has left the list. -/
def State.atAction (s : State) (a : ScanAction) : State := { s with handed := s.handed.erase a }

/-- Nothing has happened to a port but to the content of a waiting attention frame, and to the runs of board offers owed, of which
State.RunsOwed speaks: receive queue, transmission and counters are as before, and so are the places of the transmit queue, with every
frame in them that is not an attention frame or that is in transmission (R121, R165). -/
def PortState.Kept (q r : PortState) : Prop :=
  r.rx = q.rx ∧ r.sending = q.sending ∧ r.counters = q.counters ∧
    r.tx.map TxFrame.producer = q.tx.map TxFrame.producer ∧
    ∀ (n : Nat) (f : TxFrame), q.tx[n]? = some f → f.producer ≠ .attention ∨ (n = 0 ∧ q.sending = true) → r.tx[n]? = some f

/-- Every port is kept. -/
def State.PortsKept (s t : State) : Prop := ∀ p : Port, (s.port p).Kept (t.port p)

/-- Each port on an UP link has come to be owed `runs p` more runs of board offers, and a HELD port none (R138). That the runs owed are
counted, one for each event that calls for one, is log entry 15. -/
def State.RunsOwed (s t : State) (runs : Port → Nat) : Prop :=
  ∀ p : Port, (t.port p).boardRuns = (s.port p).boardRuns + if s.linkUp p = true then runs p else 0

/-- Whether lane `i` has an enabled line on port `p`, so that a publish of the lane calls for a run of offers there (R135, R138). -/
def State.hasLine (s : State) (i : Fin 64) (p : Port) : Bool :=
  (List.finRange 192).any fun j => (s.lines.get j).enable && (s.lines.get j).lane == i && (s.lines.get j).port == p

/-- Only reports have been re-evaluated between `s` and `t`: no latched source and no notice has changed, no run of board offers has come
to be owed, and nothing has changed outside the ports and the Attention Unit. -/
def State.OnlyReports (s t : State) : Prop :=
  t = { s with ports := t.ports, attn := { s.attn with ports := t.attn.ports } } ∧ s.PortsKept t ∧ s.RunsOwed t fun _ => 0

/-- What has become of destination `d` between `s` and `t` is what a re-evaluation of its report leaves (R164, R165): either nothing has
happened to it, and its report is the one it had or the last one produced; or its last report is its report, and the frame of that report
is PREPARED, or is the waiting frame of a slot that was QUEUED. -/
def State.ReportFollows (s t : State) (d : Port) : Prop :=
  (t.attnPort d = s.attnPort d ∧ (t.port d).tx = (s.port d).tx ∧
    (t.report d = s.report d ∨ t.report d = (s.attnPort d).last)) ∨
  ((t.attnPort d).last = t.report d ∧
    match (s.attnPort d).slot with
    | .queued => (t.attnPort d).slot = .queued ∧
      ∀ (n : Nat) (f : TxFrame), (t.port d).tx[n]? = some f → f.producer = .attention →
        ¬ (n = 0 ∧ (t.port d).sending = true) → f.bytes = t.attnFrame d (t.report d)
    | _ => (t.attnPort d).slot = .prepared (t.attnFrame d (t.report d)) ∧ (t.port d).tx = (s.port d).tx)

/-- The report of every destination has been re-evaluated where it has changed (R164). -/
def State.ReportsFollow (s t : State) : Prop := ∀ d : Port, s.ReportFollows t d

/-- The lines of lane `i` hold the content just published for it, and every other line is as before (R135). -/
def State.LinesPublished (s t : State) (i : Fin 64) : Prop :=
  ∀ j : Fin 192, t.lines.get j =
    if (s.lines.get j).enable = true ∧ (s.lines.get j).lane = i then
      { s.lines.get j with
        pending := some (contentOf (t.lane i).publish.kind (t.lane i).publish.lastPublished (t.lane i).publish.next) }
    else s.lines.get j

end Sys2Proof.Machine
end

