-- ==== Sys2Proof/Certificates/Slice0/Obligations.lean ====
section
/-! DEFINITION. The statements for the provers. -/

open Sys2Proof Sys2Proof.Machine

/-! ## The step, and every command -/

/-- One step takes the command at the front of the queue, on the state with the queue's rest. Log entry 1.

On an empty queue the block idles. Log entry 1. -/
def Obligations.StepTakesTheFrontCommand : Prop :=
  (∀ (c : Instr) (rest : List Instr) (s : State),
     step { s with pending := c :: rest } = exec c { s with pending := rest }) ∧
  (∀ s : State, step { s with pending := [] } = .next { s with pending := [] })

/-- Every command is answered by a next state in every state, and none touches the queue of waiting commands. -/
def Obligations.EveryCommandIsAnswered : Prop :=
  ∀ (c : Instr) (s : State), ∃ t : State, exec c s = .next t ∧ t.pending = s.pending

/-! ## Laws that every step keeps -/

/-- R55, R111, R120. -/
def Obligations.StepKeepsQueueLaw : Prop :=
  ∀ s t : State, s.QueueLaw → step s = .next t → t.QueueLaw

/-- R7, R87 and the SHUT columns of R145. -/
def Obligations.StepKeepsShutLaw : Prop :=
  ∀ s t : State, s.ShutLaw → step s = .next t → t.ShutLaw

/-- R150, R151, R153. -/
def Obligations.StepKeepsClockLaw : Prop :=
  ∀ s t : State, s.ClockLaw → step s = .next t → t.ClockLaw

/-- R68. -/
def Obligations.StepKeepsRegisterLaw : Prop :=
  ∀ s t : State, s.RegisterLaw → step s = .next t → t.RegisterLaw

/-- R50: every ISSUED or REDEEMED record names a window that has not retired. -/
def Obligations.StepKeepsRecordLaw : Prop :=
  ∀ s t : State, s.ShutLaw ∧ s.RecordLaw → step s = .next t → t.ShutLaw ∧ t.RecordLaw

/-- R44.

While ShutLaw holds, the windows of a list stay at least a window length apart (R44, R46, R52; the window length is SHUT only, R2).

While the laws of the register hold, a window's redeemed is the party total of the REDEEMED records that name it and never exceeds its
issued, and its issued is at least the party total of the ISSUED and REDEEMED records that name it (R44, R50, R68). -/
def Obligations.StepKeepsCalendarLaw : Prop :=
  (∀ s t : State, s.CalendarLaw → step s = .next t → t.CalendarLaw) ∧
  (∀ s t : State, s.ShutLaw ∧ s.SpacingLaw → step s = .next t → t.SpacingLaw) ∧
  (∀ s t : State, s.ShutLaw ∧ s.RegisterLaw ∧ s.RecordLaw ∧ s.CalendarLaw ∧ s.PromiseLaw → step s = .next t → t.PromiseLaw)

/-- R2, R3, R4. -/
def Obligations.StepKeepsLaneRecordLaw : Prop :=
  ∀ s t : State, s.LaneRecordLaw → step s = .next t → t.LaneRecordLaw

/-- R184, R185, and the canonical form of the flash memory. -/
def Obligations.StepKeepsFlashLaw : Prop :=
  ∀ s t : State, s.FlashLaw → step s = .next t → t.FlashLaw

/-- The state right after a POWER reset meets every law. -/
def Obligations.ResetMeetsEveryLaw : Prop :=
  State.reset.QueueLaw ∧ State.reset.ShutLaw ∧ State.reset.ClockLaw ∧ State.reset.RegisterLaw ∧ State.reset.RecordLaw ∧
    State.reset.CalendarLaw ∧ State.reset.PromiseLaw ∧ State.reset.SpacingLaw ∧ State.reset.LaneRecordLaw ∧ State.reset.FlashLaw

/-! ## Resets -/

/-- A POWER reset: every block at its defaults, the flash state IDLE with its flag clear, and no byte of the flash device changed
outside the range of a write that it abandons (R185, R187). That the flash device keeps its bytes is the model's choice (log entry
6), and so is that the command takes its effect in every state (log entry 27). -/
def Obligations.PowerResetRestoresDefaults : Prop :=
  ∀ s : State, ∃ t : State, exec .powerReset s = .next t ∧
    t = { State.reset with flash := t.flash, freeDraws := t.freeDraws, pending := s.pending } ∧
    t.flash = { Flash.idle with mem := t.flash.mem } ∧
    ∀ a : Nat, ¬ (s.flash.access = .busy ∧ s.flash.offset ≤ a ∧ a < s.flash.offset + s.flash.length) →
      t.flash.mem.read a = s.flash.mem.read a

/-- The reset input asserted: every link HELD with empty queues, a load not finished back at its beginning, no BUSY write left, and
the rest as it was (R111, R187): that tables, counters and a READY loader stand as they were until the release, where POWER_RESET puts
everything at its defaults, is the model's choice (log entry 27). Of a BUSY write that is abandoned only the bytes of its own range are
open; every other byte of the flash, its offset, its length and its flag, clear since it was accepted, stay (R185).

While the reset input is held asserted, no command but its release changes anything (R187). -/
def Obligations.ResetInputHoldsThePart : Prop :=
  (∀ s : State, s.resetHeld = false → ∃ t : State, exec .resetInputAsserted s = .next t ∧
     t = { s with resetHeld := true, ports := t.ports, flash := t.flash, loader := t.loader, freeDraws := t.freeDraws } ∧
     (∀ p : Port, t.linkUp p = false ∧ (t.port p).rx = [] ∧ (t.port p).tx = [] ∧ (t.port p).sending = false ∧
       (t.port p).boardRuns = 0 ∧ (t.port p).counters = (s.port p).counters) ∧
     (s.flash.access ≠ .busy → t.flash = s.flash ∧ t.freeDraws = s.freeDraws) ∧
     (s.flash.access = .busy → t.flash = { s.flash with access := .idle, mem := t.flash.mem }) ∧
     (∀ a : Nat, ¬ (s.flash.access = .busy ∧ s.flash.offset ≤ a ∧ a < s.flash.offset + s.flash.length) →
       t.flash.mem.read a = s.flash.mem.read a) ∧
     (s.loader.state = .ready → t.loader = s.loader) ∧
     (s.loader.state ≠ .ready → t.loader = { s.loader with state := .probing, position := 0, count := 0 })) ∧
  (∀ (c : Instr) (s : State), s.resetHeld = true → c ≠ .powerReset → exec c s = .next s)

/-- An ENGINE reset that has been caused: configuration, clock, lanes, calendars, register and ring are kept; hit counters, event
counters, queues and latched attention are cleared; the agent is IDLE; the loader starts exactly when reload is ON (R187). The line
table is kept, its pending updates dropped, and with reload OFF the enabled lines of the links that come up at once are pending with
their current content, a run of offers owed, and their destinations' current reports PREPARED and owed an offer (R141, R143, R166,
R172, R188); that the loader's entry position and count are then 0 is the model's choice (log entry 41).

A BUSY write is abandoned: only the bytes of its range are open, the flash state becomes UNVERIFIED, and its offset, length and flag
stay; any other flash state, and every other byte of the flash, is kept (R185). That a consumer run, the lane actions handed on and the
segment resets handed over end with the reset is the model's reading (log entry 14). -/
def Obligations.EngineResetKeepsAndClears : Prop :=
  ∀ s : State, s.resetHeld = false → s.engineResetDue = true → ∃ t : State, exec .engineReset s = .next t ∧
    t = { s with
      lanes := t.lanes, rules := t.rules, lines := t.lines, ring := { s.ring with running := false }, ports := t.ports
      counters := .zero, attn := t.attn, agent := ⟨.idle, none, none, 0⟩, flash := t.flash, loader := t.loader
      handed := [], engineResetDue := false, segmentResetsDue := Vector.replicate 6 0, freeDraws := t.freeDraws } ∧
    (∀ i : Fin 64, t.lane i = { s.lane i with countSkew := false }) ∧
    (∀ j : Fin 24, t.rules.get j = { s.rules.get j with hits := 0 }) ∧
    (∀ j : Fin 192, t.lines.get j = { s.lines.get j with
      pending := if s.park.reload = false ∧ (s.lines.get j).enable = true ∧ t.linkUp (s.lines.get j).port = true then
        some (s.lineContent (s.lines.get j)) else none }) ∧
    (∀ p : Port, t.port p = ⟨[], [], false, .zero, if t.linkUp p = true then 1 else 0⟩ ∧
      t.linkUp p = (!s.park.reload && s.portEnabled p) ∧
      t.attnPort p = if t.linkUp p = true then ⟨t.report p, .prepared (t.attnFrame p (t.report p)), 1⟩ else .empty) ∧
    t.attn = ⟨false, false, false, Vector.replicate 7 false, Vector.replicate 6 none, t.attn.ports⟩ ∧
    t.loader = ⟨if s.park.reload then .probing else .ready, s.loader.outcome, 0, 0, 0, 0, false⟩ ∧
    t.flash = { s.flash with
      access := if s.flash.access = .busy then .unverified else s.flash.access, mem := t.flash.mem } ∧
    (s.flash.access ≠ .busy → t.flash = s.flash ∧ t.freeDraws = s.freeDraws) ∧
    ∀ a : Nat, ¬ (s.flash.access = .busy ∧ s.flash.offset ≤ a ∧ a < s.flash.offset + s.flash.length) →
      t.flash.mem.read a = s.flash.mem.read a

/-- A segment reset handed to SP k: its queues flushed, its counters 0, LINK_RESET alone in the transmit queue exactly when the
link is UP, its enabled lines pending, zone k's report PREPARED, and every other port as it was (R123). No pending source changes, the
resets owed to the other segments stay, and on an UP link the lines and the report are owed an offer (R138, R173). -/
def Obligations.SegmentResetActsOnOnePort : Prop :=
  ∀ (s : State) (k : Fin 6), s.resetHeld = false → 0 < s.segmentResetsDue.get k →
    ∃ t : State, exec (.segmentReset k) s = .next t ∧
      t = { s with
        ports := t.ports, lines := t.lines, attn := { s.attn with ports := t.attn.ports }
        segmentResetsDue := put s.segmentResetsDue k (s.segmentResetsDue.get k - 1) } ∧
      (t.port (.sp k)).rx = [] ∧ (t.port (.sp k)).sending = false ∧ (t.port (.sp k)).counters = .zero ∧
      (t.port (.sp k)).tx =
        (if s.linkUp (.sp k) then [⟨buildFrame 0x1F 16383 s.park.nodeAddress [], .linkReset⟩] else []) ∧
      (∀ p : Port, p ≠ .sp k → t.port p = s.port p ∧ t.attnPort p = s.attnPort p) ∧
      (∀ j : Fin 192, t.lines.get j =
        if (s.lines.get j).enable = true ∧ (s.lines.get j).port = .sp k then
          { s.lines.get j with pending := some (s.lineContent (s.lines.get j)) } else s.lines.get j) ∧
      (t.attnPort (.sp k)).slot = .prepared (s.attnFrame (.sp k) (s.report (.sp k))) ∧
      (t.attnPort (.sp k)).last = s.report (.sp k) ∧
      (s.linkUp (.sp k) = true → 0 < (t.port (.sp k)).boardRuns ∧ 0 < (t.attnPort (.sp k)).offersDue) ∧
      (s.linkUp (.sp k) = false → (t.port (.sp k)).boardRuns = 0)

/-! ## Time -/

/-- A second arrives: OPS grows by 1 while the day is OPEN and stops at 172,799; the boundaries of R151 are owed at the second they
fall on; nothing outside the clock changes (R150).

OPS does not grow while the day is SHUT, nor once it has reached 172,799 (R150). -/
def Obligations.SecondsAdvanceAndStop : Prop :=
  (∀ s : State, s.resetHeld = false → s.clock.day = .opened → s.clock.ops < 172799 →
     exec .secondArrival s = .next { s with clock := { s.clock with
       ops := s.clock.ops + 1
       minutesDue := s.clock.minutesDue ++ (if (s.clock.ops + 1) % 60 = 0 then [(s.clock.ops + 1) / 60] else [])
       periodsDue := s.clock.periodsDue ++
         (if (s.clock.ops + 1) % s.park.period = 0 then [⟨s.clock.ops + 1, s.park.period⟩] else [])
       clockEndDue := s.clock.clockEndDue || decide (s.clock.ops + 1 = 172799) } }) ∧
  (∀ s : State, s.clock.day = .shut ∨ 172799 ≤ s.clock.ops → exec .secondArrival s = .next s)

/-- A minute boundary at minute n: the windows with start + L + grace at or before n leave each list, the others stay in their order,
the window that becomes CURRENT on a DOWN lane gets the mark, and for each that left one is appended, fresh, L after the newest and
none after 2879 (R47, R49, R52). The riders written off grow the no-show tally (R50), GRANT_LOW is evaluated on the new list (R53), a
consumer run starts (R58), and the reports follow (R164). -/
def Obligations.MinuteBoundaryMovesTheCalendars : Prop :=
  ∀ (s : State) (n : Nat) (rest : List Nat), s.resetHeld = false → s.clock.minutesDue = n :: rest →
    ∃ t : State, exec .minuteBoundary s = .next t ∧
      t = { s with
        clock := { s.clock with minutesDue := rest }, lanes := t.lanes, register := t.register, ring := t.ring, ports := t.ports,
        attn := { s.attn with ports := t.attn.ports } } ∧
      s.PortsKept t ∧ s.ReportsFollow t ∧ (s.RunsOwed t fun _ => 0) ∧
      t.ring = (if s.clock.day = .opened then { s.ring with running := !s.ring.grants.isEmpty } else s.ring) ∧
      ∀ i : Fin 64,
        let l := s.lane i
        let due := fun w : Window => decide (w.start + l.config.windowLength + l.config.grace ≤ n)
        let stay := l.windows.filter fun w => !due w
        let new := (List.range (l.windows.filter due).length).map fun k =>
          (l.windows.getLast?.map Window.start).getD 0 + (k + 1) * l.config.windowLength
        let free := ((t.lane i).windows.filter fun w => decide (n < w.start)).map fun w => w.capacity - w.issued
        (t.lane i).config = l.config ∧ (t.lane i).publish = l.publish ∧ (t.lane i).countSkew = l.countSkew ∧
        (t.lane i).live = { l.live with
          noShow := min 65535 (l.live.noShow + noShowRiders (l.retired n) s.register i) } ∧
        (t.lane i).windows =
          (stay.map fun w => if l.live.mode = .down ∧ w.start = n then { w with marked := true } else w) ++
            (new.takeWhile fun start => decide (start ≤ 2879)).map (fun start => ⟨start, 0, 0, 0, false⟩) ∧
        (t.lane i).grantLow = (decide (l.config.ride ≠ 0) && decide (l.live.mode = .run ∨ l.live.mode = .passOnly) &&
          decide (l.config.grantLowMark ≠ 0) && decide (free.sum < l.config.grantLowMark))

/-- The sweep of a minute boundary at minute n, record by record (R50, R83): a PROTECTED record stays, a record of a window that
does not retire stays, a REDEEMED record of a retiring window goes, and an ISSUED one goes or becomes PROTECTED since n by the
window's mark. The register after it is what the sweep has left of the records before it, in their order, and the parties of the ISSUED
records that go grow their lane's no-show tally, up to 65,535.

The windows that retire are those with start + L + grace at or before n, under the marks they hold once a DOWN lane has marked the
window that becomes CURRENT (R47, R49). -/
def Obligations.MinuteBoundarySweepsRecords : Prop :=
  ∀ (s t : State) (n : Nat) (rest : List Nat), s.resetHeld = false → s.CalendarLaw → s.RegisterLaw →
    s.clock.minutesDue = n :: rest → exec .minuteBoundary s = .next t →
    let gone := fun i : Fin 64 =>
      let l := s.lane i
      let windows := l.windows.map fun w => if l.live.mode = .down ∧ w.start = n then { w with marked := true } else w
      windows.filter fun w => decide (w.start + l.config.windowLength + l.config.grace ≤ n)
    (∀ r ∈ s.register,
      match r.state with
      | .carried _ => r ∈ t.register
      | .redeemed w => (r ∈ t.register ↔ ∀ x ∈ gone r.lane, x.start ≠ w)
      | .issued w =>
        ((∀ x ∈ gone r.lane, x.start ≠ w) → r ∈ t.register) ∧
        (∀ x ∈ gone r.lane, x.start = w →
          if x.marked then { r with state := .carried n } ∈ t.register
          else ∀ q ∈ t.register, ¬ (q.ticket = r.ticket ∧ q.lane = r.lane))) ∧
    t.register = s.register.filterMap (fun r =>
      match r.state with
      | .carried _ => some r
      | .redeemed w => if ∃ x ∈ gone r.lane, x.start = w then none else some r
      | .issued w =>
        if ∃ x ∈ gone r.lane, x.start = w ∧ x.marked = true then some { r with state := .carried n }
        else if ∃ x ∈ gone r.lane, x.start = w then none else some r) ∧
    ∀ i : Fin 64, (t.lane i).live.noShow = min 65535 ((s.lane i).live.noShow +
      ((s.register.filter fun r => decide (r.lane = i ∧ ∃ x ∈ gone i, r.state = .issued x.start ∧ x.marked = false)).map
        PassRecord.party).sum)

/-- A period boundary: each lane in use is estimated and then handed to the publish check, whose outcome is the lane's publish state;
the enabled lines of the lanes it publishes, and no others, are marked pending with the content just published (R133, R135), and each
such lane makes the UP ports of its lines owed a run of offers (R138, log entry 15); an unused lane is skipped, and no window, no
record, no grant and no queue changes (R29, R37).

The reports follow the lanes' staleness and a COUNT_SKEW newly latched (R30, R31, R164). -/
def Obligations.PeriodBoundaryEstimatesLanes : Prop :=
  ∀ (s : State) (d : PeriodDue) (rest : List PeriodDue), s.resetHeld = false → s.clock.periodsDue = d :: rest →
    let checked := fun i : Fin 64 =>
      ((s.lane i).periodBoundary d.period).publishCheck (decide (s.clock.day = .opened)) s.clock.dayOffset (d.ops / 60)
    ∃ t : State, exec .periodBoundary s = .next t ∧
      t = { s with
        clock := { s.clock with periodsDue := rest }, lanes := t.lanes, lines := t.lines, ports := t.ports,
        attn := { s.attn with ports := t.attn.ports } } ∧
      s.PortsKept t ∧ s.ReportsFollow t ∧
      (s.RunsOwed t fun p => ((List.finRange 64).filter fun i =>
        decide ((s.lane i).config.ride ≠ 0) && (checked i).2 && s.hasLine i p).length) ∧
      (∀ i : Fin 64,
        (t.lane i).live = ((s.lane i).periodBoundary d.period).live ∧
        (t.lane i).countSkew = ((s.lane i).periodBoundary d.period).countSkew ∧
        (t.lane i).config = (s.lane i).config ∧ (t.lane i).windows = (s.lane i).windows ∧
        (t.lane i).grantLow = (s.lane i).grantLow ∧
        t.lane i = if (s.lane i).config.ride = 0 then s.lane i else (checked i).1) ∧
      ∀ j : Fin 192,
        let b := s.lines.get j
        let p := (t.lane b.lane).publish
        t.lines.get j =
          if b.enable = true ∧ (s.lane b.lane).config.ride ≠ 0 ∧ (checked b.lane).2 = true then
            { b with pending := some (contentOf p.kind p.lastPublished p.next) } else b

/-- The procedure of a lane CLOSED or DOWN: the four accumulators become 0 and everything else is held (R29).

The procedure of an open lane that stands still: with riders standing and none boarded, stale periods grow, and from the stale
limit on, or with the flag already set, the lane is stale and its rate and wait are held (R30, R31, R37). -/
def Obligations.StoppedAndSilentLanesAreHeld : Prop :=
  (∀ (l : Lane) (p : Nat), l.config.ride ≠ 0 → l.live.mode = .closed ∨ l.live.mode = .down →
     l.periodBoundary p = { l with live := { l.live with entries := 0, bs := 0, bp := 0, skew := 0 } }) ∧
  (∀ (l : Lane) (p : Nat), l.config.ride ≠ 0 → l.live.mode.isOpen = true → 0 < l.live.q → l.live.bs = 0 → l.live.bp = 0 →
     l.config.staleLimit ≤ min 15 (l.live.stalePeriods + 1) ∨ l.live.stale = true →
     l.periodBoundary p = { l with
       countSkew := l.countSkew || (decide (l.config.skewLimit ≠ 0) && decide (l.config.skewLimit < l.live.skew))
       live := { l.live with
         entries := 0, bs := 0, bp := 0, skew := 0, stale := true, stalePeriods := min 15 (l.live.stalePeriods + 1) } })

/-- The procedure of an open lane that is not stale after the check of R31 (it boarded riders, or none stood, or none boarded and neither
the limit is reached nor the flag set): the sample floor(Bs × 960 / P), 0 where none boarded, the smoothing towards it, one more warm
period, and the wait computed from them (R31 to R37). -/
def Obligations.BoardingLaneIsSampled : Prop :=
  ∀ (l : Lane) (p : Nat), l.config.ride ≠ 0 → l.live.mode.isOpen = true →
    let standing := 0 < l.live.q ∧ l.live.bs = 0 ∧ l.live.bp = 0
    (standing → l.live.stale = false ∧ min 15 (l.live.stalePeriods + 1) < l.config.staleLimit) →
    let m := l.periodBoundary p
    let sample := min 65535 (l.live.bs * 960 / p)
    let rate := if m.live.warm < l.config.warmUpCount then l.config.nominalRate
      else max m.live.r16 (l.config.nominalRate / 8)
    (m.live.r16 : Int) =
        max 0 ((l.live.r16 : Int) + Int.tdiv (((sample : Int) - l.live.r16) * l.config.smoothing) 16) ∧
      m.live.warm = min 15 (l.live.warm + 1) ∧
      m.live.wRaw = min 999 ((l.live.q * 16 + rate - 1) / rate + l.config.walkTime) ∧
      m.live.posted = postedWait m.live.wRaw l.config.boardStep ∧
      m.live.stale = false ∧ m.live.stalePeriods = (if standing then min 15 (l.live.stalePeriods + 1) else 0) ∧
      m.live.q = l.live.q ∧ m.live.mode = l.live.mode ∧
      m.live.entries = 0 ∧ m.live.bs = 0 ∧ m.live.bp = 0 ∧ m.live.skew = 0 ∧
      m.countSkew = (l.countSkew || (decide (l.config.skewLimit ≠ 0) && decide (l.config.skewLimit < l.live.skew))) ∧
      m.config = l.config ∧ m.windows = l.windows ∧ m.publish = l.publish ∧ m.grantLow = l.grantLow

/-- The sample is folded into the smoothed rate: R16 becomes R16 + trunc(d × w / 16) for d = s16 − R16, between the old R16 and the
sample and within 0 to 65,535, the sample itself for w = 16, and unchanged for |d × w| < 16; warm grows by 1, saturating at 15, and
nothing else changes (R33). -/
def Obligations.SampleIsFoldedIn : Prop :=
  ∀ (l : Lane) (p : Nat), 1 ≤ l.config.smoothing → l.config.smoothing ≤ 16 → l.live.r16 ≤ 65535 →
    let s16 := rateSample l.live.bs p
    let d := (s16 : Int) - l.live.r16
    let m := l.takeSample p
    m = { l with live := { l.live with r16 := m.live.r16, warm := min 15 (l.live.warm + 1) } } ∧
      (m.live.r16 : Int) = l.live.r16 + Int.tdiv (d * l.config.smoothing) 16 ∧
      min l.live.r16 s16 ≤ m.live.r16 ∧ m.live.r16 ≤ max l.live.r16 s16 ∧ m.live.r16 ≤ 65535 ∧
      (l.config.smoothing = 16 → m.live.r16 = s16) ∧
      ((d * l.config.smoothing).natAbs < 16 → m.live.r16 = l.live.r16)

/-- W_raw and posted are written together, and the posted wait is W_raw rounded up to the next multiple of the board step in force at
the computation, limited to 240 (R36). -/
def Obligations.PostedWaitIsRoundedUp : Prop :=
  (∀ l : Lane, l.computeWait = { l with live := { l.live with
     wRaw := l.rawWait, posted := postedWait l.rawWait l.config.boardStep } }) ∧
  ∀ wRaw step : Nat, step = 1 ∨ step = 5 ∨ step = 10 →
    step ∣ postedWait wRaw step ∧ postedWait wRaw step ≤ 240 ∧
      (wRaw ≤ 240 → wRaw ≤ postedWait wRaw step ∧ postedWait wRaw step < wRaw + step) ∧
      (step ∣ wRaw → wRaw ≤ 240 → postedWait wRaw step = wRaw) ∧
      (240 ≤ wRaw → postedWait wRaw step = 240)

/-- CLOCK_END is latched when OPS has reached 172,799, and the trunk's report is evaluated, so that its last report is its report
(R152, R164). -/
def Obligations.ClockEndIsLatched : Prop :=
  ∀ s : State, s.resetHeld = false → s.clock.clockEndDue = true → ∃ t : State, exec .clockEndLatch s = .next t ∧
    t.attn.clockEnd = true ∧ t.clock.clockEndDue = false ∧
    State.OnlyReports { s with clock := { s.clock with clockEndDue := false }, attn := { s.attn with clockEnd := true } } t ∧
    (t.attnPort .tp).last = t.report .tp ∧ s.ReportsFollow t

/-! ## Counting and ride status -/

/-- COUNT_ENTRY: on an OPEN day Q and the entries accumulator of the lane grow by the count and stop at 65,535; on a SHUT day the
off-day counter grows; a count for an unused lane grows the unmapped counter (R1, R23, R24). -/
def Obligations.CountEntryCounts : Prop :=
  ∀ (s : State) (i : Fin 64) (c : Nat), s.Serving →
    exec (.countEntry i c) s = .next (
      let u := s.atAction (.countEntry i c)
      let l := s.lane i
      if l.config.ride = 0 then
        { u with counters := { s.counters with unmapped := min 65535 (s.counters.unmapped + 1) } }
      else if s.clock.day = .shut then
        { u with counters := { s.counters with offDay := min 65535 (s.counters.offDay + 1) } }
      else
        { u with lanes := put s.lanes i { l with live := { l.live with
            q := min 65535 (l.live.q + c), entries := min 65535 (l.live.entries + c) } } })

/-- COUNT_BOARDING on an OPEN day for a lane in use: Q falls by c, what Q lacked goes to the skew accumulator, Bs and Bp grow, and on
an open lane riders boarding clear the staleness; the reports follow and nothing else changes (R25, R26, R164). On a SHUT day the
off-day counter alone grows (R23).

Each of the other lane actions, like a boarding, does nothing for an unused lane but grow the unmapped counter (R1). -/
def Obligations.CountBoardingCounts : Prop :=
  (∀ (s : State) (i : Fin 64) (c c2 : Nat), s.Serving → (s.lane i).config.ride ≠ 0 → s.clock.day = .opened →
     ∃ t : State, exec (.countBoarding i c c2) s = .next t ∧
       State.OnlyReports { s.atAction (.countBoarding i c c2) with lanes := put s.lanes i { s.lane i with live := { (s.lane i).live with
           q := (s.lane i).live.q - c
           skew := if (s.lane i).live.q < c then min 65535 ((s.lane i).live.skew + (c - (s.lane i).live.q))
             else (s.lane i).live.skew
           bs := min 65535 ((s.lane i).live.bs + c)
           bp := min 65535 ((s.lane i).live.bp + c2)
           stalePeriods := if (s.lane i).live.mode.isOpen = true ∧ 0 < c + c2 then 0 else (s.lane i).live.stalePeriods
           stale := if (s.lane i).live.mode.isOpen = true ∧ 0 < c + c2 then false else (s.lane i).live.stale } } } t ∧
       s.ReportsFollow t) ∧
  (∀ (s : State) (i : Fin 64) (c c2 : Nat), s.Serving → (s.lane i).config.ride ≠ 0 → s.clock.day = .shut →
     exec (.countBoarding i c c2) s = .next { s.atAction (.countBoarding i c c2) with
       counters := { s.counters with offDay := min 65535 (s.counters.offDay + 1) } }) ∧
  (∀ (s : State) (i : Fin 64), s.Serving → (s.lane i).config.ride = 0 →
     let dropped := fun (a : ScanAction) (c : Instr) => exec c s =
       .next { s.atAction a with counters := { s.counters with unmapped := min 65535 (s.counters.unmapped + 1) } }
     (∀ c c2 : Nat, dropped (.countBoarding i c c2) (.countBoarding i c c2)) ∧
     (∀ (o : ScanOrigin) (ticket party : Nat), dropped (.passRequest o i ticket party) (.passRequest o i ticket party)) ∧
     (∀ (o : ScanOrigin) (ticket stamp receipt : Nat),
       dropped (.passReturn o i ticket stamp receipt) (.passReturn o i ticket stamp receipt)) ∧
     ∀ status : Nat, dropped (.rideStatus i status) (.rideStatus i status))

/-- RIDE_STATUS for a lane in use: UP and FAULT are recorded; a FAULT on an open lane with auto-down ON then enters DOWN, an UP on a
DOWN lane with an auto-restart mode restarts it, the evacuated flag clear; another status only grows the bad-status counter (R16 to
R18). -/
def Obligations.RideStatusIsTaken : Prop :=
  ∀ (s : State) (i : Fin 64) (status : Nat), s.Serving → (s.lane i).config.ride ≠ 0 →
    exec (.rideStatus i status) s = .next (
      let u := s.atAction (.rideStatus i status)
      let l := s.lane i
      let recorded := fun r : RideStatus => { u with lanes := put s.lanes i { l with live := { l.live with lastStatus := some r } } }
      if status = 1 then
        if l.live.mode = .down ∧ l.config.autoRestart = .run then (recorded .up).changeMode i .run false
        else if l.live.mode = .down ∧ l.config.autoRestart = .passOnly then (recorded .up).changeMode i .passOnly false
        else if l.live.mode = .down ∧ l.config.autoRestart = .standbyOnly then (recorded .up).changeMode i .standbyOnly false
        else recorded .up
      else if status = 2 then
        if l.live.mode.isOpen = true ∧ l.config.autoDown = true then (recorded .fault).changeMode i .down false
        else recorded .fault
      else { u with counters := { s.counters with badStatus := min 65535 (s.counters.badStatus + 1) } })

/-! ## Changes of mode -/

/-- SET_MODE for a lane in use on an OPEN day, but for CLOSED to DOWN: the change of mode is made (none for the current mode, R15)
and the reply is OK with the lane and its new mode (R9). -/
def Obligations.SetModeChangesTheMode : Prop :=
  ∀ (s : State) (h : MgmtHeader) (i : Fin 64) (m : LaneMode) (evacuated : Byte),
    let args := [byteOf i.val, byteOf (modeCode m), evacuated]
    s.TakesRequest ⟨h.source, h.tag, 3, args⟩ → s.clock.day = .opened → (s.lane i).config.ride ≠ 0 →
    ¬ ((s.lane i).live.mode = .closed ∧ m = .down) →
    ∃ t : State, t = (if (s.lane i).live.mode = m then s.atRequest else s.atRequest.changeMode i m (decide (evacuated ≠ 0))) ∧
      (t.lane i).live.mode = m ∧
      exec (.setMode h args) s = .next (t.reply ⟨h.source, h.tag, 3, args⟩ .ok [byteOf i.val, byteOf (modeCode m)] false)

/-- SET_MODE refused: the checks of R9 in their order, with nothing changed but the reply.

OPEN_DAY and CLOSE_DAY refused by the day state, or CLOSE_DAY by a lane that is not CLOSED, change nothing but the reply, whose lane is
the lowest lane that is not CLOSED (R146, R148).

WRITE_TABLE of a SHUT-only lane field on an OPEN day is refused REFUSED_STATE, a ride number that another lane holds is refused
DUPLICATE while SHUT, and either names its pair and changes nothing but the reply (R2, R4, R179).

WRITE_TABLE with a pair count of 0 or above 12, or of another length than its count calls for, is refused BAD_REQUEST; one pair for an
unknown table is refused BAD_TABLE, for an index outside the table BAD_INDEX, and for a field that the table does not have or that is
read-only BAD_FIELD, naming pair 1; and nothing changes but the reply (R177, R179).

WRITE_TABLE of 1 to 12 pairs is checked whole, by checks 2 to 6 of R179 in their order: an unknown table is BAD_TABLE and an index
outside the table BAD_INDEX; then any pair for a field that the table does not have, that is read-only or that another pair names too
is BAD_FIELD; then any pair for a SHUT-only lane field on an OPEN day is REFUSED_STATE; then a ride number that another lane holds is
DUPLICATE. The reply names the first pair that fails its check, for a field named twice the earlier one (log entry 18), and no pair is
written (R2, R4, R177, R179).

POST_GRANTS is checked whole: a grant count of 0 or above 20, or a length that is not the count's, is refused BAD_REQUEST; then any
grant for a lane above 63 BAD_INDEX; then any grant of a minute above 2879 BAD_FIELD. The ring is left as it is, and the reply carries
its occupancy (R55, R56); the accepted byte of that reply is free (log entry 9).

VOID_PASS and QUERY_PASS of a lane above 63 are refused BAD_INDEX and change nothing but the reply (R85, R86), whose content has no
record in it (log entry 30).

A request of another length than its code calls for, or its own count, is refused BAD_REQUEST, and nothing is carried out (R175); the
length of a RESET is checked where it is handed over (RouteFrameByTheTable). -/
def Obligations.RefusedRequestsChangeNothing : Prop :=
  (∀ (s : State) (h : MgmtHeader) (lane mode evacuated : Byte),
     s.TakesRequest ⟨h.source, h.tag, 3, [lane, mode, evacuated]⟩ →
     let refused := fun (st : Status) (m : Byte) => exec (.setMode h [lane, mode, evacuated]) s =
       .next (s.atRequest.reply ⟨h.source, h.tag, 3, [lane, mode, evacuated]⟩ st [lane, m] false)
     (63 < lane.toNat → refused .badIndex 0) ∧
     ∀ i : Fin 64, i.val = lane.toNat →
       (4 < mode.toNat → refused .badRequest (byteOf (modeCode (s.lane i).live.mode))) ∧
       (mode.toNat ≤ 4 →
         s.clock.day = .shut ∨ (s.lane i).config.ride = 0 ∨ ((s.lane i).live.mode = .closed ∧ mode.toNat = 4) →
         refused .refusedState (byteOf (modeCode (s.lane i).live.mode)))) ∧
  (∀ (s : State) (h : MgmtHeader),
     (∀ w : Nat, s.TakesRequest ⟨h.source, h.tag, 4, le32 w⟩ → s.clock.day = .opened →
       exec (.openDay h (le32 w)) s =
         .next (s.atRequest.reply ⟨h.source, h.tag, 4, le32 w⟩ .refusedState (le32 s.clock.dayOffset) false)) ∧
     (s.TakesRequest ⟨h.source, h.tag, 5, []⟩ → s.clock.day = .shut → ∃ content : List Byte, content[0]? = some 0xFF ∧
       exec (.closeDay h []) s = .next (s.atRequest.reply ⟨h.source, h.tag, 5, []⟩ .refusedState content false)) ∧
     (∀ i : Fin 64, s.TakesRequest ⟨h.source, h.tag, 5, []⟩ → s.clock.day = .opened → (s.lane i).live.mode ≠ .closed →
       (∀ j : Fin 64, j < i → (s.lane j).live.mode = .closed) → ∃ content : List Byte, content[0]? = some (byteOf i.val) ∧
       exec (.closeDay h []) s = .next (s.atRequest.reply ⟨h.source, h.tag, 5, []⟩ .refusedState content false))) ∧
  (∀ (s : State) (h : MgmtHeader) (i : Fin 64) (v : Nat), v < 65536 →
     let args := fun field : Byte => [2, byteOf i.val, 0, 1, field] ++ le16 v
     let req := fun field : Byte => MgmtRequest.mk h.source h.tag 2 (args field)
     let refused := fun (field : Byte) (st : Status) => exec (.writeTable h (args field)) s =
       .next (s.atRequest.reply (req field) st [2, byteOf i.val, 0, 0, 1] false)
     (∀ field : Byte, field = 1 ∨ field = 9 ∨ field = 10 → s.TakesRequest (req field) → s.clock.day = .opened →
       refused field .refusedState) ∧
     (∀ j : Fin 64, j ≠ i → s.TakesRequest (req 1) → s.clock.day = .shut → min 250 v ≠ 0 →
       (s.lane j).config.ride = min 250 v → refused 1 .duplicate)) ∧
  (∀ (s : State) (h : MgmtHeader) (args : List Byte), s.TakesRequest ⟨h.source, h.tag, 2, args⟩ →
     let count := fieldAt args 3 1
     args.length ≠ 4 + 3 * count ∨ count = 0 ∨ 12 < count →
     ∃ content : List Byte, exec (.writeTable h args) s =
       .next (s.atRequest.reply ⟨h.source, h.tag, 2, args⟩ .badRequest content false)) ∧
  (∀ (s : State) (h : MgmtHeader) (table field : Byte) (index v : Nat), index < 65536 →
     let args := [table] ++ le16 index ++ [1, field] ++ le16 v
     let req : MgmtRequest := ⟨h.source, h.tag, 2, args⟩
     let refused := fun (st : Status) (pair : Byte) =>
       exec (.writeTable h args) s = .next (s.atRequest.reply req st ([table] ++ le16 index ++ [0, pair]) false)
     s.TakesRequest req →
     (table = 0 ∨ 8 < table.toNat → refused .badTable 0xFF) ∧
     ∀ t : TableId, tableOfCode table.toNat = some t →
       (t.entries ≤ index → refused .badIndex 0xFF) ∧
       (index < t.entries → field = 0 ∨ t.writable < field.toNat → refused .badField 1)) ∧
  (∀ (s : State) (h : MgmtHeader) (number : Byte) (index : Nat) (pairs : List (Nat × Nat)), index < 65536 →
     1 ≤ pairs.length → pairs.length ≤ 12 → (∀ p ∈ pairs, p.1 < 256 ∧ p.2 < 65536) →
     let args := [number] ++ le16 index ++ [byteOf pairs.length] ++ pairs.flatMap fun p => byteOf p.1 :: le16 p.2
     let req : MgmtRequest := ⟨h.source, h.tag, 2, args⟩
     let refused := fun (st : Status) (pair : Byte) =>
       exec (.writeTable h args) s = .next (s.atRequest.reply req st ([number] ++ le16 index ++ [0, pair]) false)
     let first := fun (bad : Nat × Nat → Prop) (n : Nat) => (∃ p, pairs[n]? = some p ∧ bad p) ∧
       ∀ (m : Nat) (p : Nat × Nat), m < n → pairs[m]? = some p → ¬ bad p
     s.TakesRequest req →
     (number = 0 ∨ 8 < number.toNat → refused .badTable 0xFF) ∧
     ∀ t : TableId, tableOfCode number.toNat = some t →
       let badField := fun p : Nat × Nat =>
         p.1 = 0 ∨ t.writable < p.1 ∨ 2 ≤ (pairs.filter fun q => decide (q.1 = p.1)).length
       let shutOnly := fun p : Nat × Nat => s.clock.day = .opened ∧ t = .lane ∧ (p.1 = 1 ∨ p.1 = 9 ∨ p.1 = 10)
       let duplicate := fun p : Nat × Nat => t = .lane ∧ p.1 = 1 ∧ p.2 ≠ 0 ∧
         ∃ j : Fin 64, j.val ≠ index ∧ (s.lane j).config.ride = min 250 p.2
       (t.entries ≤ index → refused .badIndex 0xFF) ∧
       (index < t.entries →
         (∀ n : Nat, first badField n → refused .badField (byteOf (n + 1))) ∧
         ((∀ p ∈ pairs, ¬ badField p) → ∀ n : Nat, first shutOnly n → refused .refusedState (byteOf (n + 1))) ∧
         ((∀ p ∈ pairs, ¬ badField p ∧ ¬ shutOnly p) → ∀ n : Nat, first duplicate n → refused .duplicate (byteOf (n + 1))))) ∧
  (∀ (s : State) (h : MgmtHeader) (args : List Byte),
     let req : MgmtRequest := ⟨h.source, h.tag, 6, args⟩
     let count := fieldAt args 0 1
     let lane := fun g : Nat => fieldAt args (1 + 4 * g) 1
     let minute := fun g : Nat => fieldAt args (2 + 4 * g) 2
     let misfit := args.length ≠ 1 + 4 * count ∨ count = 0 ∨ 20 < count
     let refused := fun st : Status => ∃ accepted : Byte, exec (.postGrants h args) s =
       .next (s.atRequest.reply req st (accepted :: le16 s.ring.grants.length) false)
     s.TakesRequest req →
     (misfit → refused .badRequest) ∧
     (¬ misfit → (∃ g : Nat, g < count ∧ 63 < lane g) → refused .badIndex) ∧
     (¬ misfit → (∀ g : Nat, g < count → lane g ≤ 63) → (∃ g : Nat, g < count ∧ 2879 < minute g) → refused .badField)) ∧
  (∀ (s : State) (h : MgmtHeader) (args : List Byte), args.length = 5 → 63 < fieldAt args 4 1 →
     (s.TakesRequest ⟨h.source, h.tag, 7, args⟩ → exec (.voidPass h args) s =
       .next (s.atRequest.reply ⟨h.source, h.tag, 7, args⟩ .badIndex (args ++ [0, 0, 0xFF, 0xFF]) false)) ∧
     (s.TakesRequest ⟨h.source, h.tag, 8, args⟩ → exec (.queryPass h args) s =
       .next (s.atRequest.reply ⟨h.source, h.tag, 8, args⟩ .badIndex [0, 0xFF] false))) ∧
  (∀ (s : State) (h : MgmtHeader) (args : List Byte),
     let refused := fun (code : Nat) (request : Instr) => s.TakesRequest ⟨h.source, h.tag, code, args⟩ →
       ∃ content : List Byte, exec request s =
         .next (s.atRequest.reply ⟨h.source, h.tag, code, args⟩ .badRequest content false)
     (args.length ≠ 6 → refused 1 (.readTable h args)) ∧
     (args.length ≠ 3 → refused 3 (.setMode h args)) ∧
     (args.length ≠ 4 → refused 4 (.openDay h args)) ∧
     (args.length ≠ 0 → refused 5 (.closeDay h args)) ∧
     (args.length ≠ 5 → refused 7 (.voidPass h args) ∧ refused 8 (.queryPass h args)) ∧
     (args.length ≠ 4 → refused 9 (.clearAttention h args)) ∧
     (args.length ≠ 2 → refused 10 (.injectNotice h args)) ∧
     (∀ given : Nat, args.length ≠ 3 → refused 12 (.flashRead h args given)) ∧
     (args.length ≠ 3 + fieldAt args 2 1 → refused 13 (.flashWrite h args)) ∧
     (args.length ≠ 0 → refused 14 (.flashStatus h args)) ∧
     (args.length ≠ 1 → refused 15 (.readStatus h args)))

/-- Opening (R10): the estimate starts afresh, windows and tallies are kept, and the lane is published at once, with a run of offers
owed to each UP port of its lines (R138, log entry 15) and with the next return of R131 and R132; GRANT_LOW is evaluated for the new
mode (R8, R53).

A move among open modes changes the mode and evaluates GRANT_LOW, and publishes nothing (R11). In both the reports follow the lane's
conditions (R8, R164). -/
def Obligations.OpeningAndMoving : Prop :=
  (∀ (s : State) (i : Fin 64) (m : LaneMode) (e : Bool),
     s.clock.day = .opened → (s.lane i).config.ride ≠ 0 → (s.lane i).live.mode = .closed → m.isOpen = true →
     let t := s.changeMode i m e
     let free := ((s.lane i).windows.filter fun w => decide (s.clock.ops / 60 < w.start)).map fun w => w.capacity - w.issued
     (t.lane i).live = { (s.lane i).live with
         mode := m, q := 0, entries := 0, bs := 0, bp := 0, skew := 0, stalePeriods := 0, stale := false,
         r16 := (s.lane i).config.nominalRate, warm := 0, wRaw := (s.lane i).config.walkTime,
         posted := postedWait (s.lane i).config.walkTime (s.lane i).config.boardStep } ∧
       (t.lane i).windows = (s.lane i).windows ∧ (t.lane i).config = (s.lane i).config ∧
       (t.lane i).countSkew = (s.lane i).countSkew ∧
       (t.lane i).grantLow = (decide (m = .run ∨ m = .passOnly) && decide ((s.lane i).config.grantLowMark ≠ 0) &&
         decide (free.sum < (s.lane i).config.grantLowMark)) ∧
       (t.lane i).publish = ⟨if m = .passOnly then .passOnly else .wait, (t.lane i).live.posted,
         if m = .standbyOnly then .absent else
           match (t.lane i).findWindow (s.clock.ops / 60) 1 with
           | some w => .minute ((s.clock.dayOffset / 60 + w.start) % 1440)
           | none => .noWindow, 0⟩ ∧
       (∀ j : Fin 64, j ≠ i → t.lane j = s.lane j) ∧ s.LinesPublished t i ∧
       t = { s with lanes := t.lanes, lines := t.lines, ports := t.ports, attn := { s.attn with ports := t.attn.ports } } ∧
       s.PortsKept t ∧ s.ReportsFollow t ∧
       (s.RunsOwed t fun p => if s.hasLine i p = true then 1 else 0)) ∧
  (∀ (s : State) (i : Fin 64) (m : LaneMode) (e : Bool),
     (s.lane i).live.mode.isOpen = true → m.isOpen = true → m ≠ (s.lane i).live.mode →
     let t := s.changeMode i m e
     State.OnlyReports { s with lanes := put s.lanes i { s.lane i with
         live := { (s.lane i).live with mode := m }
         grantLow := decide (m = .run ∨ m = .passOnly) && decide ((s.lane i).config.ride ≠ 0) &&
           decide ((s.lane i).config.grantLowMark ≠ 0) &&
           decide ((s.lane i).futureSeats s.minute < (s.lane i).config.grantLowMark) } } t ∧ s.ReportsFollow t)

/-- Closing and down entry keep the estimate and publish at once, with a run of offers owed to each UP port of the lane's lines (R138,
log entry 15); down entry marks the windows that are CURRENT or in GRACE and no other; GRANT_LOW stops holding (R12, R13, R48). The
reports follow the lane's conditions (R8, R164). -/
def Obligations.StoppingKeepsTheEstimate : Prop :=
  ∀ (s : State) (i : Fin 64) (m : LaneMode) (e : Bool),
    s.clock.day = .opened → (s.lane i).config.ride ≠ 0 →
    (m = .closed ∧ (s.lane i).live.mode ≠ .closed) ∨ (m = .down ∧ (s.lane i).live.mode.isOpen = true) →
    let t := s.changeMode i m e
    (t.lane i).live = { (s.lane i).live with mode := m } ∧ (t.lane i).config = (s.lane i).config ∧
      (t.lane i).countSkew = (s.lane i).countSkew ∧ (t.lane i).grantLow = false ∧
      (t.lane i).windows = (s.lane i).windows.map (fun w =>
        if m = .down ∧ w.start ≤ s.clock.ops / 60 then { w with marked := true } else w) ∧
      (t.lane i).publish =
        ⟨if m = .down then .down else .closed, (s.lane i).live.posted, .absent, 0⟩ ∧
      (∀ j : Fin 64, j ≠ i → t.lane j = s.lane j) ∧ s.LinesPublished t i ∧
      t = { s with lanes := t.lanes, lines := t.lines, ports := t.ports, attn := { s.attn with ports := t.attn.ports } } ∧
      s.PortsKept t ∧ s.ReportsFollow t ∧
      (s.RunsOwed t fun p => if s.hasLine i p = true then 1 else 0)

/-- Restart (R14): warm by the target mode, Q and skew by the evacuated flag, staleness cleared, R16 and the other accumulators kept,
the wait computed without a sample, the lane published at once, with a run of offers owed to each UP port of its lines (R138, log entry
15) and with the next return of R131 and R132, and GRANT_LOW evaluated for the new mode (R8, R53). The reports follow the lane's
conditions (R8, R164). -/
def Obligations.RestartResumesService : Prop :=
  ∀ (s : State) (i : Fin 64) (m : LaneMode) (e : Bool),
    s.clock.day = .opened → (s.lane i).config.ride ≠ 0 → (s.lane i).live.mode = .down → m.isOpen = true →
    let t := s.changeMode i m e
    let l := s.lane i
    let warm := if m = .passOnly then l.live.warm else 0
    let q := if e then 0 else l.live.q
    let rate := if warm < l.config.warmUpCount then l.config.nominalRate else max l.live.r16 (l.config.nominalRate / 8)
    let wRaw := min 999 ((q * 16 + rate - 1) / rate + l.config.walkTime)
    let free := ((s.lane i).windows.filter fun w => decide (s.clock.ops / 60 < w.start)).map fun w => w.capacity - w.issued
    (t.lane i).live = { l.live with
        mode := m, warm := warm, q := q, skew := if e then 0 else l.live.skew, stalePeriods := 0, stale := false,
        wRaw := wRaw, posted := postedWait wRaw l.config.boardStep } ∧
      (t.lane i).windows = l.windows ∧ (t.lane i).config = l.config ∧ (t.lane i).countSkew = l.countSkew ∧
      (t.lane i).grantLow = (decide (m = .run ∨ m = .passOnly) && decide ((s.lane i).config.grantLowMark ≠ 0) &&
        decide (free.sum < (s.lane i).config.grantLowMark)) ∧
      (t.lane i).publish = ⟨if m = .passOnly then .passOnly else .wait, (t.lane i).live.posted,
        if m = .standbyOnly then .absent else
          match (t.lane i).findWindow (s.clock.ops / 60) 1 with
          | some w => .minute ((s.clock.dayOffset / 60 + w.start) % 1440)
          | none => .noWindow, 0⟩ ∧
      (∀ j : Fin 64, j ≠ i → t.lane j = s.lane j) ∧ s.LinesPublished t i ∧
      t = { s with lanes := t.lanes, lines := t.lines, ports := t.ports, attn := { s.attn with ports := t.attn.ports } } ∧
      s.PortsKept t ∧ s.ReportsFollow t ∧
      (s.RunsOwed t fun p => if s.hasLine i p = true then 1 else 0)

/-! ## Passes -/

/-- The window search (R74, R75): what it finds is a FUTURE window of the list with room for the party that ends after the target,
every such window before it lacks room, and fewer of them than the search span stand before it.

The search finds a window whenever one of the first FUTURE windows that end after the target, as many as the search span, has room for
the party (R75). -/
def Obligations.SearchFindsTheFirstWindowWithRoom : Prop :=
  ∀ (l : Lane) (n party : Nat), l.CalendarLaw →
    let target := if l.live.mode = .passOnly then n + l.config.leadMinimum else n + max l.config.leadMinimum l.live.wRaw
    let nearer := fun w : Window => l.windows.filter fun x =>
      decide (n < x.start) && decide (target < x.start + l.config.windowLength) && decide (x.start < w.start)
    (∀ w : Window, l.findWindow n party = some w →
      w ∈ l.windows ∧ n < w.start ∧ target < w.start + l.config.windowLength ∧ w.issued + party ≤ w.capacity ∧
        (∀ x ∈ nearer w, x.capacity < x.issued + party) ∧ (nearer w).length < l.config.searchSpan) ∧
    (l.SpacingLaw → ∀ w ∈ l.windows, n < w.start → target < w.start + l.config.windowLength → w.issued + party ≤ w.capacity →
      (nearer w).length < l.config.searchSpan → (l.findWindow n party).isSome = true)

/-- PASS_REQUEST that passes its seven checks: one ISSUED record is created, the window's issued grows by the party, and the answer
carries the window and the party; nothing else changes (R72, R76, R77). -/
def Obligations.PassRequestIssues : Prop :=
  ∀ (s : State) (o : ScanOrigin) (i : Fin 64) (ticket party : Nat) (w : Window), s.Serving →
    (s.lane i).config.ride ≠ 0 → s.clock.day = .opened → 1 ≤ party → party ≤ 8 →
    (s.lane i).live.mode = .run ∨ (s.lane i).live.mode = .passOnly →
    findRecord s.register ticket i = none → liveCount s.register ticket < s.park.passLimit →
    s.register.length < 16384 → (s.lane i).findWindow (s.clock.ops / 60) party = some w →
    ∃ t : State,
      t = { s.atAction (.passRequest o i ticket party) with
        register := t.register
        lanes := put s.lanes i { s.lane i with
          windows := (s.lane i).windows.map fun x => if x.start = w.start then { x with issued := x.issued + party } else x } } ∧
      t.register.Perm (⟨ticket, i, party, .issued w.start, s.clock.ops / 60⟩ :: s.register) ∧
      exec (.passRequest o i ticket party) s = .next (t.sendAnswer o ticket ⟨.issued,
        some ((s.clock.dayOffset / 60 + w.start) % 1440,
          (s.clock.dayOffset / 60 + (w.start + (s.lane i).config.windowLength)) % 1440), some party, none⟩)

/-- PASS_REQUEST refused by a check of R72 other than that of the register's room: the first check that fails gives the result, and
nothing changes but that an answer is offered (R72, R77).

A pass request refused because the register is full latches REGISTER_FULL, keeps the register and the windows, and is answered
REGISTER_FULL (R72, R73); the reports follow, so that the last report of the trunk is its report (R164). -/
def Obligations.PassRequestRefused : Prop :=
  (∀ (s : State) (o : ScanOrigin) (i : Fin 64) (ticket party : Nat), s.Serving → (s.lane i).config.ride ≠ 0 →
     let u := s.atAction (.passRequest o i ticket party)
     let answered := fun r : AnswerResult => exec (.passRequest o i ticket party) s = .next (u.sendAnswer o ticket (.bare r))
     if s.clock.day = .shut then answered .dayShut
     else if party = 0 ∨ 8 < party then answered .badParty
     else if (s.lane i).live.mode = .down then answered .rideDown
     else if (s.lane i).live.mode = .closed ∨ (s.lane i).live.mode = .standbyOnly then answered .modeClosed
     else
       (∀ r : PassRecord, findRecord s.register ticket i = some r →
         exec (.passRequest o i ticket party) s = .next (u.sendAnswer o ticket (u.recordAnswer .alreadyHeld r))) ∧
       (findRecord s.register ticket i = none → s.park.passLimit ≤ liveCount s.register ticket → answered .limitReached) ∧
       (findRecord s.register ticket i = none → liveCount s.register ticket < s.park.passLimit → s.register.length < 16384 →
         (s.lane i).findWindow (s.clock.ops / 60) party = none → answered .noWindow)) ∧
  (∀ (s : State) (o : ScanOrigin) (i : Fin 64) (ticket party : Nat), s.Serving →
     (s.lane i).config.ride ≠ 0 → s.clock.day = .opened → 1 ≤ party → party ≤ 8 →
     (s.lane i).live.mode = .run ∨ (s.lane i).live.mode = .passOnly →
     findRecord s.register ticket i = none → liveCount s.register ticket < s.park.passLimit → 16384 ≤ s.register.length →
     ∃ t : State, exec (.passRequest o i ticket party) s = .next (t.sendAnswer o ticket (.bare .registerFull)) ∧
       t.attn.registerFull = true ∧
       State.OnlyReports { s.atAction (.passRequest o i ticket party) with attn := { s.attn with registerFull := true } } t ∧
       (t.attnPort .tp).last = t.report .tp ∧ s.ReportsFollow t)

/-- PASS_RETURN of an ISSUED record on a lane that is not DOWN: EARLY below the early bound with nothing changed, else the record is
REDEEMED and the window's redeemed grows by its party; the answer carries window and party (R79, R81).

PASS_RETURN refused: on a SHUT day DAY_SHUT; without a record UNKNOWN_PASS, or OTHER_RIDE with the ride of the lowest other lane on
which the ticket holds a live record; a REDEEMED record is USED; an ISSUED one on a DOWN lane is RIDE_DOWN; and nothing changes but
the counters of the stamp and the answer's offer (R77, R79). -/
def Obligations.PassReturnIsTaken : Prop :=
  (∀ (s : State) (o : ScanOrigin) (i : Fin 64) (ticket stamp receipt start : Nat) (r : PassRecord), s.Serving →
     (s.lane i).config.ride ≠ 0 → s.clock.day = .opened → (s.lane i).live.mode ≠ .down →
     findRecord s.register ticket i = some r → r.state = .issued start →
     let e := s.convertStamp o.segment stamp receipt
     let u := { s.atAction (.passReturn o i ticket stamp receipt) with counters := s.counters.stamp e.2 }
     let answer := fun result : AnswerResult => Answer.mk result
       (some ((s.clock.dayOffset / 60 + start) % 1440,
         (s.clock.dayOffset / 60 + (start + (s.lane i).config.windowLength)) % 1440)) (some r.party) none
     exec (.passReturn o i ticket stamp receipt) s = .next (
       if e.1 + 60 * (s.lane i).config.earlyTolerance < 60 * start then u.sendAnswer o ticket (answer .early)
       else State.sendAnswer { u with
         register := s.register.map fun q => if q.ticket = ticket ∧ q.lane = i then { q with state := .redeemed start } else q
         lanes := put s.lanes i { s.lane i with
           windows := (s.lane i).windows.map fun x => if x.start = start then { x with redeemed := x.redeemed + r.party } else x } }
         o ticket (answer .redeemed))) ∧
  (∀ (s : State) (o : ScanOrigin) (i : Fin 64) (ticket stamp receipt : Nat), s.Serving → (s.lane i).config.ride ≠ 0 →
     let u := { s.atAction (.passReturn o i ticket stamp receipt) with
       counters := s.counters.stamp (s.convertStamp o.segment stamp receipt).2 }
     let answered := fun a : Answer => exec (.passReturn o i ticket stamp receipt) s = .next (u.sendAnswer o ticket a)
     let live := fun j : Fin 64 => ∃ r ∈ s.register, r.ticket = ticket ∧ r.lane = j ∧ r.isLive = true
     if s.clock.day = .shut then answered (.bare .dayShut)
     else
       (findRecord s.register ticket i = none →
         ((∀ j : Fin 64, j ≠ i → ¬ live j) → answered (.bare .unknownPass)) ∧
         ∀ j : Fin 64, j ≠ i → live j → (∀ k : Fin 64, k < j → k ≠ i → ¬ live k) →
           answered ⟨.otherRide, none, none, some (s.lane j).config.ride⟩) ∧
       ∀ r : PassRecord, findRecord s.register ticket i = some r →
         (∀ w : Nat, r.state = .redeemed w → answered (u.recordAnswer .used r)) ∧
         (∀ w : Nat, r.state = .issued w → (s.lane i).live.mode = .down → answered (.bare .rideDown)))

/-- PASS_RETURN of a PROTECTED record: on an open lane the record is removed and the protected-redemption tally grows by its party,
with no window touched; on a CLOSED lane it stays (R80). -/
def Obligations.PassReturnHonoursProtected : Prop :=
  ∀ (s : State) (o : ScanOrigin) (i : Fin 64) (ticket stamp receipt since : Nat) (r : PassRecord), s.Serving →
    (s.lane i).config.ride ≠ 0 → s.clock.day = .opened → findRecord s.register ticket i = some r → r.state = .carried since →
    let u := { s.atAction (.passReturn o i ticket stamp receipt) with
      counters := s.counters.stamp (s.convertStamp o.segment stamp receipt).2 }
    ((s.lane i).live.mode.isOpen = true →
      exec (.passReturn o i ticket stamp receipt) s = .next (State.sendAnswer { u with
        register := s.register.filter fun q => decide (¬ (q.ticket = ticket ∧ q.lane = i))
        lanes := put s.lanes i { s.lane i with live := { (s.lane i).live with
          protectedRedeemed := min 65535 ((s.lane i).live.protectedRedeemed + r.party) } } }
        o ticket ⟨.redeemed, none, some r.party, none⟩)) ∧
    ((s.lane i).live.mode = .closed →
      exec (.passReturn o i ticket stamp receipt) s = .next (u.sendAnswer o ticket (.bare .modeClosed))) ∧
    ((s.lane i).live.mode = .down →
      exec (.passReturn o i ticket stamp receipt) s = .next (u.sendAnswer o ticket (.bare .rideDown)))

/-- The event time of a stamp (R155), with a the arrival second, DO the day offset, s the stamp, t the trim and M sixty times the
maximum lateness: the corrected stamp, the lag, the case of a reader ahead, and the clamp.

A return's stamp is converted with the lesser of its receipt second and OPS as arrival second, with the day offset and the maximum
lateness that stand, and with the trim of its arrival segment (R155, R156).

A reader ahead grows the reader-ahead counter, a clamped lag the late-clamped counter, and a stamp in time neither (R155). -/
def Obligations.EventTimeOfAStamp : Prop :=
  (∀ (a dayOffset stamp lateness : Nat) (trim : Int),
    let c := ((stamp : Int) + trim) % 86400
    let lag := ((a : Int) + dayOffset - c) % 86400
    let event := eventTime a dayOffset stamp lateness trim
    (43200 < lag → event = (a, .ahead)) ∧
    (lag ≤ 43200 → (event.1 : Int) = max 0 (a - min lag (60 * lateness)) ∧
      event.2 = (if 60 * (lateness : Int) < lag then .clamped else .inTime)) ∧
    event.1 ≤ a) ∧
  (∀ (s : State) (segment : Fin 6) (stamp receipt : Nat), s.convertStamp segment stamp receipt =
    eventTime (min receipt s.clock.ops) s.clock.dayOffset stamp s.park.maxLateness (s.segment segment).trim) ∧
  (∀ c : Counters,
    c.stamp .ahead = { c with readerAhead := min 65535 (c.readerAhead + 1) } ∧
    c.stamp .clamped = { c with lateClamped := min 65535 (c.lateClamped + 1) } ∧
    c.stamp .inTime = c)

/-- VOID_PASS by the record's state and its window's state (R85): a FUTURE window's issued falls by the party, a window that has
opened keeps it while the voided-in-window tally grows, a PROTECTED record just goes, a REDEEMED one stays, and none is NOT_FOUND.

QUERY_PASS lists a ticket's records from the first lane upward, ten at most, and changes no state; the status and the next lane
follow their number (R86). -/
def Obligations.VoidAndQueryPass : Prop :=
  (∀ (s : State) (h : MgmtHeader) (ticket : Nat) (i : Fin 64), ticket < 4294967296 →
     let args := le32 ticket ++ [byteOf i.val]
     let req : MgmtRequest := ⟨h.source, h.tag, 7, args⟩
     let content := fun (st party : Nat) (window : Nat) => args ++ [byteOf st, byteOf party] ++ le16 window
     let without := s.register.filter fun q => decide (¬ (q.ticket = ticket ∧ q.lane = i))
     let l := s.lane i
     s.TakesRequest req →
     exec (.voidPass h args) s = .next (
       match findRecord s.register ticket i with
       | none => s.atRequest.reply req .notFound (content 0 0 0xFFFF) false
       | some r =>
         match r.state with
         | .redeemed w => s.atRequest.reply req .refusedState (content 2 r.party w) false
         | .carried _ => State.reply { s.atRequest with register := without } req .ok (content 3 r.party 0xFFFF) false
         | .issued w =>
           if ∃ x ∈ l.windowAt w, s.clock.ops / 60 < x.start then
             State.reply { s.atRequest with
               register := without
               lanes := put s.lanes i { l with
                 windows := l.windows.map fun x => if x.start = w then { x with issued := x.issued - r.party } else x } }
               req .ok (content 1 r.party w) false
           else
             State.reply { s.atRequest with
               register := without
               lanes := put s.lanes i { l with live := { l.live with
                 voidedInWindow := min 65535 (l.live.voidedInWindow + r.party) } } }
               req .ok (content 1 r.party w) false)) ∧
  (∀ (s : State) (h : MgmtHeader) (ticket : Nat) (i : Fin 64), ticket < 4294967296 →
     let args := le32 ticket ++ [byteOf i.val]
     let req : MgmtRequest := ⟨h.source, h.tag, 8, args⟩
     let records := s.register.filter fun r => decide (r.ticket = ticket ∧ i.val ≤ r.lane.val)
     s.TakesRequest req →
     (records = [] → exec (.queryPass h args) s = .next (s.atRequest.reply req .notFound [0, 0xFF] false)) ∧
     (1 ≤ records.length → records.length ≤ 10 → exec (.queryPass h args) s =
       .next (s.atRequest.reply req .ok ([byteOf records.length, 0xFF] ++ records.flatMap recordBytes) false)) ∧
     ∀ r, records[10]? = some r → exec (.queryPass h args) s =
       .next (s.atRequest.reply req .part ([10, byteOf r.lane.val] ++ (records.take 10).flatMap recordBytes) false))

/-! ## The day -/

/-- OPEN_DAY while SHUT: DO stored as a whole minute, OPS 0, every window list built from its first start in steps of L, the five
tallies 0, every other live field kept; then the consumer run of the grants posted before, taken to its end; then the lanes in use
published, a CLOSED lane with the kind CLOSED, and every enabled line pending, with OFF for an unused lane; each lane published makes
the UP ports of its lines owed a run of offers (R138, log entry 15), and the OFF lines of unused lanes make one for each UP port that
has any (log entry 34); and the reply carries the stored DO (R46, R136, R146, R147).

A resolution of that run is what GRANT_RESOLVE does in a run of its own, but for the report that follows it (R58, R147 step 4). The
reports follow the head-held flag (R62, R164), for the opening from any state that meets ShutLaw. -/
def Obligations.OpenDayBuildsTheDay : Prop :=
  (∀ (s : State) (h : MgmtHeader) (w : Nat), w < 4294967296 → s.clock.day = .shut →
    let args := le32 w
    let req : MgmtRequest := ⟨h.source, h.tag, 4, args⟩
    let stored := if w < 86400 then 60 * (w / 60) else 86340
    let start : State := { s.atRequest with
      clock := { s.clock with day := .opened, ops := 0, dayOffset := stored, minutesDue := [], periodsDue := [] }
      ring := { s.ring with running := !s.ring.grants.isEmpty }
      lanes := tabulate fun i => { s.lane i with
        live := { (s.lane i).live with
          noShow := 0, protectedRedeemed := 0, voidedInWindow := 0, clampedGrants := 0, staleGrants := 0 }
        windows := if (s.lane i).config.ride = 0 then [] else
          ((List.range 32).map fun k => (s.lane i).config.firstStart + k * (s.lane i).config.windowLength).filterMap fun start =>
            if start ≤ 2879 then some ⟨start, 0, 0, 0, false⟩ else none } }
    let run := start.consumeRun s.ring.grants.length
    s.TakesRequest req →
    ∃ t : State,
      exec (.openDay h args) s =
        .next (t.reply req (if stored = w then .ok else .okLegalized) (le32 stored) false) ∧
      t = { run with
        lanes := t.lanes, lines := t.lines, ports := t.ports, attn := { s.attn with ports := t.attn.ports } } ∧
      t.clock = start.clock ∧ t.ring.running = false ∧ (s.ring.grants = [] → run = start) ∧ s.PortsKept t ∧
      (s.RunsOwed t fun p =>
        ((List.finRange 64).filter fun i => decide ((s.lane i).config.ride ≠ 0) && s.hasLine i p).length +
          if ∃ i : Fin 64, (s.lane i).config.ride = 0 ∧ s.hasLine i p = true then 1 else 0) ∧
      (s.ShutLaw → s.ReportsFollow t) ∧
      (∀ i : Fin 64,
        (t.lane i).config = (s.lane i).config ∧
        t.lane i = { run.lane i with publish := (t.lane i).publish } ∧
        ((s.lane i).config.ride = 0 → (t.lane i).publish = (s.lane i).publish) ∧
        ((s.lane i).config.ride ≠ 0 →
          (t.lane i).publish.refresh = 0 ∧ (t.lane i).publish.lastPublished = (s.lane i).live.posted ∧
          ((s.lane i).live.mode = .closed → (t.lane i).publish = ⟨.closed, (s.lane i).live.posted, .absent, 0⟩))) ∧
      ∀ j : Fin 192,
        let b := s.lines.get j
        let p := (t.lane b.lane).publish
        t.lines.get j = if b.enable = true then
          { b with pending := some (
              if (s.lane b.lane).config.ride = 0 then ⟨.off, none, .absent⟩ else contentOf p.kind p.lastPublished p.next) }
          else b) ∧
  (∀ s : State, s.resetHeld = false → s.ring.running = true →
    ∃ t : State, exec .grantResolve s = .next t ∧ s.resolveHead.OnlyReports t ∧ s.ReportsFollow t)

/-- CLOSE_DAY with every lane CLOSED: register, windows and ring emptied, the accumulators and the staleness of every lane 0, every
other live field kept, OPS and DO kept, the day SHUT, and the reply carries the counts of records as they stood (R64, R88, R149); the
lane byte of that reply, 0xFF for no lane, is read from R196 and R197 by log entry 30. Every lane in use is published with OFF (R136;
that this stands beside the publish states that R149 keeps is read by log entry 39), with a run of offers owed to each UP port of its
lines (R138, log entry 15) and one to each UP port that has lines of unused lanes (log entry 34), COUNT_SKEW stays latched (R161),
GRANT_LOW holds for no lane, and every destination's last report is its report as it then stands (R149, R164). -/
def Obligations.CloseDayEmptiesTheDay : Prop :=
  ∀ (s : State) (h : MgmtHeader), s.clock.day = .opened → (∀ i : Fin 64, (s.lane i).live.mode = .closed) →
    let req : MgmtRequest := ⟨h.source, h.tag, 5, []⟩
    let held := fun code : Nat => (s.register.filter fun r => passStateCode r.state == code).length
    s.TakesRequest req →
    ∃ t : State,
      exec (.closeDay h []) s =
        .next (t.reply req .ok (0xFF :: (le16 (held 1) ++ le16 (held 3) ++ le16 (held 2))) false) ∧
      t = { s.atRequest with
        clock := { s.clock with day := .shut, minutesDue := [], periodsDue := [] }
        register := [], ring := .empty, lanes := t.lanes, lines := t.lines, ports := t.ports,
        attn := { s.attn with ports := t.attn.ports } } ∧
      s.PortsKept t ∧
      (s.RunsOwed t fun p =>
        ((List.finRange 64).filter fun i => decide ((s.lane i).config.ride ≠ 0) && s.hasLine i p).length +
          if ∃ i : Fin 64, (s.lane i).config.ride = 0 ∧ s.hasLine i p = true then 1 else 0) ∧
      (∀ i : Fin 64, t.lane i = {
        config := (s.lane i).config
        live := { (s.lane i).live with entries := 0, bs := 0, bp := 0, skew := 0, stalePeriods := 0, stale := false }
        publish := if (s.lane i).config.ride = 0 then (s.lane i).publish else ⟨.off, (s.lane i).live.posted, .absent, 0⟩
        windows := [], grantLow := false, countSkew := (s.lane i).countSkew }) ∧
      (∀ p : Port, (t.attnPort p).last = t.report p) ∧ s.ReportsFollow t ∧
      ∀ j : Fin 192, t.lines.get j =
        if (s.lines.get j).enable = true then { s.lines.get j with pending := some ⟨.off, none, .absent⟩ } else s.lines.get j

/-! ## Grants -/

/-- POST_GRANTS with valid grants: as many as there is room for join the tail of the ring in their order, a consumer run starts on an
OPEN day, nothing else changes, and the reply carries the accepted count and the occupancy (R55, R57). -/
def Obligations.PostGrantsFillsTheRing : Prop :=
  ∀ (s : State) (h : MgmtHeader) (grants : List Grant), 1 ≤ grants.length → grants.length ≤ 20 →
    (∀ g ∈ grants, g.minute ≤ 2879 ∧ -128 ≤ g.delta ∧ g.delta ≤ 127) →
    let args := byteOf grants.length ::
      grants.flatMap fun g => [byteOf g.lane.val] ++ le16 g.minute ++ [BitVec.ofInt 8 g.delta]
    let req : MgmtRequest := ⟨h.source, h.tag, 6, args⟩
    let accepted := min grants.length (512 - s.ring.grants.length)
    let ring := s.ring.grants ++ grants.take accepted
    s.TakesRequest req →
    exec (.postGrants h args) s = .next (State.reply { s.atRequest with ring := { s.ring with
        grants := ring
        running := if s.clock.day = .opened then !ring.isEmpty else s.ring.running } }
      req (if accepted = grants.length then .ok else .part) (byteOf accepted :: le16 ring.length) false)

/-- GRANT_RESOLVE of a head grant whose minute lies in a window of its lane's list, from the first window start on: the capacity of
that window becomes C + d limited to the issued count and 4095, the tally of clamped grants grows when the limit bites, and the grant
leaves the ring (R59, R60). The reports follow the head-held flag (R62, R164). -/
def Obligations.HeadGrantIsApplied : Prop :=
  ∀ (s : State) (g : Grant) (rest : List Grant) (w : Window), s.resetHeld = false → s.ring.running = true →
    s.ring.grants = g :: rest → (s.lane g.lane).CalendarLaw → (s.lane g.lane).config.ride ≠ 0 →
    (s.lane g.lane).config.firstStart ≤ g.minute → g.minute < (s.lane g.lane).lastEnd →
    w ∈ (s.lane g.lane).windows → w.start ≤ g.minute → g.minute < w.start + (s.lane g.lane).config.windowLength →
    (∀ x ∈ (s.lane g.lane).windows, x.start < w.start → x.start + (s.lane g.lane).config.windowLength ≤ w.start) →
    ∃ t : State, exec .grantResolve s = .next t ∧
      State.OnlyReports { s with
        ring := ⟨rest, false, !rest.isEmpty⟩
        lanes := put s.lanes g.lane { s.lane g.lane with
          windows := (s.lane g.lane).windows.map fun x => if x.start = w.start then
            { x with capacity := (min 4095 (max (w.issued : Int) (w.capacity + g.delta))).toNat } else x
          live := { (s.lane g.lane).live with
            clampedGrants :=
              if (w.capacity : Int) + g.delta < w.issued ∨ 4095 < (w.capacity : Int) + g.delta then
                min 65535 ((s.lane g.lane).live.clampedGrants + 1)
              else (s.lane g.lane).live.clampedGrants } } } t ∧
      s.ReportsFollow t

/-- GRANT_RESOLVE of a head grant that is discarded, because its lane is unused or its minute lies before the first window start,
before the oldest window or at or past the last window the lane can ever hold: the grant leaves the ring, the park stale-grant counter
grows, and the lane's own tally grows unless the lane is unused (R59, R61).

GRANT_RESOLVE of a head grant at or past its lane's horizon, the newest start plus L: it stays at the head, the head-held flag is set,
and the run ends (R59, R62).

The end of the last window that a lane can ever hold is L after the last start of the form first start + k × L at or below 2879 (R59).
In every case the reports follow the head-held flag (R62, R164). -/
def Obligations.HeadGrantIsDiscardedOrHeld : Prop :=
  (∀ (s : State) (g : Grant) (rest : List Grant), s.resetHeld = false → s.ring.running = true → s.ring.grants = g :: rest →
     (s.lane g.lane).config.ride = 0 ∨ g.minute < (s.lane g.lane).config.firstStart ∨
       (∃ w ∈ (s.lane g.lane).windows.head?, g.minute < w.start) ∨ (s.lane g.lane).lastEnd ≤ g.minute →
     ∃ t : State, exec .grantResolve s = .next t ∧
       State.OnlyReports { s with
         ring := ⟨rest, false, !rest.isEmpty⟩
         counters := { s.counters with staleGrants := min 65535 (s.counters.staleGrants + 1) }
         lanes := if (s.lane g.lane).config.ride = 0 then s.lanes else put s.lanes g.lane { s.lane g.lane with
           live := { (s.lane g.lane).live with staleGrants := min 65535 ((s.lane g.lane).live.staleGrants + 1) } } } t ∧
       s.ReportsFollow t) ∧
  (∀ (s : State) (g : Grant) (rest : List Grant) (oldest newest : Window), s.resetHeld = false → s.ring.running = true →
     s.ring.grants = g :: rest → (s.lane g.lane).CalendarLaw → (s.lane g.lane).config.ride ≠ 0 →
     (s.lane g.lane).config.firstStart ≤ g.minute → (s.lane g.lane).windows.head? = some oldest →
     (s.lane g.lane).windows.getLast? = some newest → newest.start + (s.lane g.lane).config.windowLength ≤ g.minute →
     g.minute < (s.lane g.lane).lastEnd →
     ∃ t : State, exec .grantResolve s = .next t ∧
       State.OnlyReports { s with ring := ⟨g :: rest, true, false⟩ } t ∧ s.ReportsFollow t) ∧
  (∀ l : Lane, 1 ≤ l.config.windowLength → l.config.firstStart ≤ 2879 →
     ∃ k : Nat, l.config.firstStart + k * l.config.windowLength ≤ 2879 ∧
       2879 < l.config.firstStart + (k + 1) * l.config.windowLength ∧
       l.lastEnd = l.config.firstStart + k * l.config.windowLength + l.config.windowLength)

/-! ## Attention -/

/-- CLEAR_ATTENTION: of the kinds named it clears the latched park kinds, every port of PORT_OVERRUN, the COUNT_SKEW of the lanes
routed to the trunk (of the named lane alone when one is named) and the notices (of the named zone alone when one is named), and no
condition; the reports follow (the last report of the trunk, and of each zone whose notice is cleared, is its report), and the reply
carries how many sources were cleared: of the named kinds 1 for each park kind latched, 1 for each port of PORT_OVERRUN, 1 for each
lane and 1 for each zone whose source was pending and is cleared (R164, R168). A lane from 64 to 254, or a zone from 6 to 254, is
refused BAD_INDEX with nothing changed but the reply.

INJECT_NOTICE makes the notice pending at its zone with the new code, whatever the zone's port, and the zone's last report is its
report (R164); a zone above 5 is refused BAD_INDEX with nothing changed but the reply (R167). -/
def Obligations.ClearsAndNotices : Prop :=
  (∀ (s : State) (h : MgmtHeader) (set : Nat) (lane zone : Byte), set < 65536 →
     lane.toNat ≤ 63 ∨ lane = 0xFF → zone.toNat ≤ 5 ∨ zone = 0xFF →
     let args := le16 set ++ [lane, zone]
     let req : MgmtRequest := ⟨h.source, h.tag, 9, args⟩
     let named := fun kind : Nat => set.testBit (kind - 1)
     let skew := fun i : Fin 64 =>
       named 6 && decide (s.laneRoute .countSkew i = .tp) && decide (lane = 0xFF ∨ lane.toNat = i.val)
     let notice := fun z : Fin 6 => named 10 && decide (zone = 0xFF ∨ zone.toNat = z.val)
     let park := fun (kind : Nat) (latched : Bool) => if named kind = true ∧ latched = true then 1 else 0
     let cleared := park 1 s.attn.imageFault + park 3 s.attn.registerFull + park 9 s.attn.clockEnd +
       ((List.finRange 7).filter fun p => named 4 && s.attn.overruns.get p).length +
       ((List.finRange 64).filter fun i => skew i && (s.lane i).countSkew).length +
       ((List.finRange 6).filter fun z => notice z && (s.attn.notices.get z).isSome).length
     s.TakesRequest req →
     ∃ u t : State, exec (.clearAttention h args) s =
         .next (t.reply req .ok [byteOf cleared] false) ∧
       u.OnlyReports t ∧
       u = { s.atRequest with lanes := u.lanes, attn := u.attn } ∧
       (∀ i : Fin 64, u.lane i = { s.lane i with countSkew := (s.lane i).countSkew && !skew i }) ∧
       u.attn = { s.attn with
         imageFault := s.attn.imageFault && !named 1
         registerFull := s.attn.registerFull && !named 3
         clockEnd := s.attn.clockEnd && !named 9
         overruns := u.attn.overruns, notices := u.attn.notices } ∧
       (∀ p : Fin 7, u.attn.overruns.get p = (s.attn.overruns.get p && !named 4)) ∧
       (∀ z : Fin 6, u.attn.notices.get z =
         if notice z = true then none else s.attn.notices.get z) ∧
       (t.attnPort .tp).last = t.report .tp ∧
       (∀ z : Fin 6, notice z = true → s.attn.notices.get z ≠ none → (t.attnPort (.sp z)).last = t.report (.sp z)) ∧
       s.ReportsFollow t) ∧
  (∀ (s : State) (h : MgmtHeader) (set : Nat) (lane zone : Byte), set < 65536 →
     (63 < lane.toNat ∧ lane ≠ 0xFF) ∨ (5 < zone.toNat ∧ zone ≠ 0xFF) →
     let args := le16 set ++ [lane, zone]
     let req : MgmtRequest := ⟨h.source, h.tag, 9, args⟩
     s.TakesRequest req →
     ∃ content : List Byte, exec (.clearAttention h args) s = .next (s.atRequest.reply req .badIndex content false)) ∧
  (∀ (s : State) (h : MgmtHeader) (zone code : Byte),
     let req : MgmtRequest := ⟨h.source, h.tag, 10, [zone, code]⟩
     s.TakesRequest req →
     (∀ z : Fin 6, z.val = zone.toNat → ∃ t : State,
       exec (.injectNotice h [zone, code]) s = .next (t.reply req .ok [zone, code] false) ∧
       State.OnlyReports { s.atRequest with attn := { s.attn with notices := put s.attn.notices z (some code.toNat) } } t ∧
       (t.attnPort (.sp z)).last = t.report (.sp z) ∧ s.ReportsFollow t) ∧
     (5 < zone.toNat → ∃ content : List Byte, content[0]? = some 0xFF ∧
       exec (.injectNotice h [zone, code]) s = .next (s.atRequest.reply req .badIndex content false)))

/-- A source of a lane kind is routed to the zone of the lane's home segment exactly when that zone's delegation set names the kind,
and to the trunk otherwise; the home segment is the lowest one with a counting window that holds the ride number (R122, R162).

The report of a destination (R164): its pending kinds that are in its enable set, in priority order, the first of them the lead kind;
of each the pending lanes, or the pending ports in the order TP, SP0 to SP5, in increasing index, up to eight, with the truncated flag
when there are more; and the notice code when ZONE_NOTICE is visible. Conditions and latches are pending by R159 and R160; the payload
that carries a report is laid out by R197. -/
def Obligations.LaneKindsAreRouted : Prop :=
  (∀ (s : State) (k : AttnKind) (i : Fin 64) (z : Fin 6),
    s.laneRoute k i = .sp z ↔
      (s.lane i).config.ride ≠ 0 ∧ hasKind (s.segment z).delegation k = true ∧
      (s.segment z).counts (s.lane i).config.ride = true ∧
      ∀ j : Fin 6, j < z → (s.segment j).counts (s.lane i).config.ride = false) ∧
  (∀ (s : State) (d : Port),
    let lanes := fun (k : AttnKind) (pending : Lane → Bool) =>
      ((List.finRange 64).filter fun i => pending (s.lane i) && decide (s.laneRoute k i = d)).map Fin.val
    let ports := (([6, 0, 1, 2, 3, 4, 5] : List (Fin 7)).filter fun p => s.attn.overruns.get p && decide (d = .tp)).map Fin.val
    let sources : AttnKind → List Nat := fun k =>
      match k with
      | .laneDown => lanes k fun l => decide (l.config.ride ≠ 0) && decide (l.live.mode = .down)
      | .laneStale => lanes k fun l => decide (s.clock.day = .opened) && decide (l.config.ride ≠ 0) && l.live.stale
      | .countSkew => lanes k fun l => l.countSkew
      | .grantLow => lanes k fun l => l.grantLow
      | .portOverrun => ports
      | _ => []
    let enables := match d with | .tp => s.park.trunkEnables | .sp z => (s.segment z).zoneEnables
    let pending : AttnKind → Bool := fun k =>
      match k, d with
      | .imageFault, .tp => s.attn.imageFault
      | .registerFull, .tp => s.attn.registerFull
      | .clockEnd, .tp => s.attn.clockEnd
      | .grantHeld, .tp => s.ring.headHeld
      | .zoneNotice, .sp z => (s.attn.notices.get z).isSome
      | _, _ => decide (sources k ≠ [])
    let visible := fun k : AttnKind => enables.getLsbD (kindNumber k - 1) && pending k
    let r := s.report d
    r.kinds = (([.imageFault, .laneDown, .registerFull, .portOverrun, .laneStale, .countSkew, .grantHeld, .grantLow, .clockEnd,
        .zoneNotice] : List AttnKind).filter visible).map (fun k =>
          ⟨k, (sources k).take 8, decide (8 < (sources k).length)⟩) ∧
      r.notice = (match d with | .tp => 0 | .sp z => if visible .zoneNotice then (s.attn.notices.get z).getD 0 else 0) ∧
      reportPayload r =
        [byteOf (match r.kinds with | [] => 0 | lead :: _ => kindNumber lead.kind), byteOf r.kinds.length, byteOf r.notice, 0] ++
          r.kinds.flatMap fun k => [byteOf (kindNumber k.kind), byteOf (k.sources.length + if k.truncated then 128 else 0)] ++
            k.sources.map byteOf)

/-- An offer owed to a destination whose frame is PREPARED: admitted to a queue of fewer than 48 frames on an UP link, where the slot
becomes QUEUED and the queued counter grows; refused otherwise, where the frame stays PREPARED and the refused counter grows
(R120, R166).

A report produced (R164 to R166): it is the last report; an EMPTY or PREPARED slot holds its frame, PREPARED, and a frame newly
PREPARED is owed an offer at once on an UP link, and while the loader runs, when it is refused (log entries 3 and 11); the waiting frame
of a QUEUED slot is rewritten in place, the head left alone while it is in transmission. A re-evaluated report is produced exactly
when it differs from the last one. -/
def Obligations.AttnFrameIsOffered : Prop :=
  (∀ (s : State) (d : Port) (frame : List Byte), s.resetHeld = false → 0 < (s.attnPort d).offersDue →
    (s.attnPort d).slot = .prepared frame →
    ∃ t : State, exec (.attnFrameOffer d) s = .next t ∧
      t = { s with ports := t.ports, attn := { s.attn with ports := t.attn.ports }, counters := t.counters } ∧
      (∀ p : Port, p ≠ d → t.port p = s.port p ∧ t.attnPort p = s.attnPort p) ∧
      (t.attnPort d).last = (s.attnPort d).last ∧
      if s.linkUp d = true ∧ (s.port d).tx.length < 48 then
        t.port d = { s.port d with tx := (s.port d).tx ++ [⟨frame, .attention⟩] } ∧ (t.attnPort d).slot = .queued ∧
          t.counters = { s.counters with attnQueued := min 65535 (s.counters.attnQueued + 1) }
      else
        t.port d = s.port d ∧ (t.attnPort d).slot = .prepared frame ∧
          t.counters = { s.counters with attnRefused := min 65535 (s.counters.attnRefused + 1) }) ∧
  (∀ (s : State) (d : Port),
    let address := match d with | .tp => s.park.centralAddress | .sp z => (s.segment z).stationAddress
    let frame := buildFrame 0x13 address s.park.nodeAddress (reportPayload (s.report d))
    let a := s.attnPort d
    let q := s.port d
    let newSlot := fun a' : AttnPort => { s with attn := { s.attn with ports := put s.attn.ports (portIndex d) a' } }
    s.produce d = (match a.slot with
      | .empty => newSlot ⟨s.report d, .prepared frame,
          if s.linkUp d = true ∨ s.loader.state ≠ .ready then a.offersDue + 1 else a.offersDue⟩
      | .prepared _ => newSlot ⟨s.report d, .prepared frame, a.offersDue⟩
      | .queued => { newSlot ⟨s.report d, .queued, a.offersDue⟩ with
          ports := put s.ports (portIndex d) { q with tx := q.tx.mapIdx fun n f =>
            if f.producer = .attention ∧ ¬ (n = 0 ∧ q.sending = true) then { f with bytes := frame } else f } }) ∧
    s.evaluate d = if s.report d = a.last then s else s.produce d)

/-! ## Tables -/

/-- READ_TABLE of one LANE entry answers OK with the nineteen fields of R2 in their order and changes nothing but the reply (R178,
R197, R201).

READ_STATUS view 0 answers the park view in the order of R183, views 1 to 7 the six counters of TP and of SP0 to SP5, and a view above
7 is refused BAD_INDEX; none changes anything but the reply (R183, R197). That flag bytes are 1 for set and 0 for clear is log entry
17, and that a refused READ_STATUS or READ_TABLE has no content is log entry 30.

FLASH_READ within the image space, no write in progress: the bytes as the flash gives them, 0xFF from where it stops answering (log
entry 7), and no change but the reply (R184); a length of 0 or above 64 is refused BAD_REQUEST, with no content (log entry 30).

FLASH_STATUS answers OK with the state, the flag, and the offset and length of the last write, and changes nothing but the reply
(R184).

READ_TABLE in full (R178): the values asked for, the count cut at the last entry, OK when they fit 42 values; PARTIAL after the whole
entries that fit, naming the next entry and field 1; PARTIAL within a first entry that does not fit by itself, naming the field after
the 42 values; its refusals in the order of R178; and no change but the reply.

The values of an entry of each table, in field order (R54, R201); the codes of a LANE_LIVE entry's last ride status are the model's
(log entries 10 and 40). -/
def Obligations.ReadingRequestsReport : Prop :=
  (∀ (s : State) (h : MgmtHeader) (i : Fin 64),
     let c := (s.lane i).config
     let args := [2, byteOf i.val, 0, 1, 0, 1]
     let req : MgmtRequest := ⟨h.source, h.tag, 1, args⟩
     let values := [c.ride, c.nominalRate, c.walkTime, c.warmUpCount, c.smoothing, c.boardStep, c.changeThreshold, c.refreshCount,
       c.windowLength, c.firstStart, c.grace, c.earlyTolerance, c.leadMinimum, c.searchSpan, c.grantLowMark, c.staleLimit,
       c.skewLimit, if c.autoDown then 1 else 0, autoRestartCode c.autoRestart]
     s.TakesRequest req →
     exec (.readTable h args) s = .next (s.atRequest.reply req .ok
       ([2, byteOf i.val, 0, 1, 19, 0xFF, 0xFF, 0xFF] ++ values.flatMap le16) false)) ∧
  (∀ (s : State) (h : MgmtHeader) (view : Byte),
     let req : MgmtRequest := ⟨h.source, h.tag, 15, [view]⟩
     let counters := fun p : Port =>
       let c := (s.port p).counters
       exec (.readStatus h [view]) s = .next (s.atRequest.reply req .ok
         ([c.received, c.crcError, c.lengthError, c.overrun, c.transmitted, c.forwardDropped].flatMap le16) false)
     s.TakesRequest req →
     (view = 0 → exec (.readStatus h [view]) s = .next (s.atRequest.reply req .ok (
       le16 (if s.clock.day = .opened then 1 else 0) ++ le32 s.clock.ops ++ le32 s.clock.dayOffset ++ le16 2
         ++ le16 (outcomeCode s.loader.outcome) ++ le16 s.loader.skipped ++ le16 s.loader.legalized
         ++ le16 (flashCode s.flash.access) ++ le16 (if s.flash.lastWriteOk then 1 else 0)
         ++ le16 s.register.length
         ++ le16 (s.register.filter fun r => passStateCode r.state == 1).length
         ++ le16 (s.register.filter fun r => passStateCode r.state == 2).length
         ++ le16 (s.register.filter fun r => passStateCode r.state == 3).length
         ++ le16 s.ring.grants.length ++ le16 (if s.ring.headHeld then 1 else 0)
         ++ le16 (s.lines.toList.filter fun b => b.pending.isSome).length) false)) ∧
     (view = 1 → counters .tp) ∧
     (∀ k : Fin 6, view.toNat = k.val + 2 → counters (.sp k)) ∧
     (7 < view.toNat → exec (.readStatus h [view]) s = .next (s.atRequest.reply req .badIndex [] false))) ∧
  (∀ (s : State) (h : MgmtHeader) (offset length given : Nat), offset < 65536 → 1 ≤ length → length ≤ 64 →
     let args := le16 offset ++ [byteOf length]
     let req : MgmtRequest := ⟨h.source, h.tag, 12, args⟩
     s.TakesRequest req →
     exec (.flashRead h args given) s = .next (
       if 65536 < offset + length then s.atRequest.reply req .badIndex [] false
       else if s.flash.access = .busy then s.atRequest.reply req .busy [] false
       else s.atRequest.reply req .ok ((List.range length).map fun j =>
         if j < given then s.flash.mem.read (offset + j) else 0xFF) false)) ∧
  (∀ (s : State) (h : MgmtHeader) (offset : Nat) (length : Byte) (given : Nat), length = 0 ∨ 64 < length.toNat →
     let args := le16 offset ++ [length]
     let req : MgmtRequest := ⟨h.source, h.tag, 12, args⟩
     s.TakesRequest req → exec (.flashRead h args given) s = .next (s.atRequest.reply req .badRequest [] false)) ∧
  (∀ (s : State) (h : MgmtHeader), s.TakesRequest ⟨h.source, h.tag, 14, []⟩ →
     exec (.flashStatus h []) s = .next (s.atRequest.reply ⟨h.source, h.tag, 14, []⟩ .ok
       ([byteOf (match s.flash.access with | .idle => 0 | .busy => 1 | .unverified => 2),
         if s.flash.lastWriteOk then 1 else 0] ++ le16 s.flash.offset ++ [byteOf s.flash.length]) false)) ∧
  (∀ (s : State) (h : MgmtHeader) (table field : Byte) (first count : Nat), first < 65536 → count < 65536 →
     let args := [table] ++ le16 first ++ le16 count ++ [field]
     let req : MgmtRequest := ⟨h.source, h.tag, 1, args⟩
     let refused := fun st : Status => exec (.readTable h args) s = .next (s.atRequest.reply req st [] false)
     let answered := fun (st : Status) (values : List Nat) (next : List Byte) => exec (.readTable h args) s =
       .next (s.atRequest.reply req st
         ([table] ++ le16 first ++ [field, byteOf values.length] ++ next ++ values.flatMap le16) false)
     s.TakesRequest req →
     (table = 0 ∨ 8 < table.toNat → refused .badTable) ∧
     ∀ t : TableId, tableOfCode table.toNat = some t →
       if t.entries ≤ first then refused .badIndex
       else if count = 0 then refused .badRequest
       else if field = 0 ∨ t.fields < field.toNat then refused .badField
       else
         let total := min count (t.entries - first)
         let entry := fun k : Nat =>
           if k = 0 then (s.readEntry t first).drop (field.toNat - 1) else s.readEntry t (first + k)
         let upTo := fun m : Nat => (List.range m).flatMap entry
         ((upTo total).length ≤ 42 → answered .ok (upTo total) [0xFF, 0xFF, 0xFF]) ∧
         (∀ m : Nat, 1 ≤ m → m < total → (upTo m).length ≤ 42 → 42 < (upTo (m + 1)).length →
           answered .part (upTo m) (le16 (first + m) ++ [1])) ∧
         (42 < (entry 0).length → answered .part ((entry 0).take 42) (le16 first ++ [byteOf (field.toNat + 42)]))) ∧
  (∀ s : State,
     let flag := fun b : Bool => if b then 1 else 0
     let p := s.park
     let c := s.counters
     let ports := [Port.tp, .sp 0, .sp 1, .sp 2, .sp 3, .sp 4, .sp 5].flatMap fun q =>
       let k := (s.port q).counters
       [k.received, k.crcError, k.lengthError, k.overrun, k.transmitted, k.forwardDropped]
     let held := fun code : Nat => (s.register.filter fun r => passStateCode r.state == code).length
     s.readEntry .park 0 = [p.period, p.maxLateness, p.passLimit, defaultActionCode p.defaultAction, p.centralAddress, p.nodeAddress,
       flag p.reload, loaderRateCode p.loaderRate, p.trunkEnables.toNat] ∧
     (∀ j : Fin 24, let r := s.rules.get j
       s.readEntry .rule j.val = [flag r.enable, flag r.chain, selectorCode r.selector, operatorCode r.operator, r.mask, r.value,
         actionCode r.action, (match r.override with | none => 0xFFFF | some i => i.val), r.hits]) ∧
     (∀ k : Fin 6, let g := s.segment k
       s.readEntry .segment k.val = [flag g.enable, g.window1.base, g.window1.limit, flag g.window1.enable, g.window2.base,
         g.window2.limit, flag g.window2.enable, unsigned16 g.trim, g.stationAddress, g.delegation.toNat, g.zoneEnables.toNat]) ∧
     (∀ j : Fin 192, let b := s.lines.get j
       s.readEntry .boardLine j.val = [flag b.enable, b.address, b.line, b.lane.val,
         (match b.port with | .sp k => k.val | .tp => 6), flag b.pending.isSome]) ∧
     (∀ i : Fin 64, let v := (s.lane i).live; let u := (s.lane i).publish
       s.readEntry .laneLive i.val = [modeCode v.mode, v.q, v.entries, v.bs, v.bp, v.skew, v.r16, v.warm, v.stalePeriods,
         flag v.stale, v.wRaw, v.posted, u.lastPublished, u.refresh, lastStatusCode v.lastStatus, v.noShow, v.protectedRedeemed,
         v.voidedInWindow, v.clampedGrants, v.staleGrants, displayCode u.kind, nextReturnCode u.next]) ∧
     (∀ (i : Fin 64) (slot : Fin 32), s.readEntry .window (i.val * 32 + slot.val) =
       match (s.lane i).windows[slot.val]? with
       | some w => [1, w.start,
           (if s.clock.ops / 60 < w.start then 0
            else if s.clock.ops / 60 < w.start + (s.lane i).config.windowLength then 1 else 2),
           w.capacity, w.issued, w.redeemed, flag w.marked]
       | none => [0, 0, 0, 0, 0, 0, 0]) ∧
     s.readEntry .counters 0 = ports ++ [c.forwarded, c.noRoute, c.hairpin, c.misdirected, c.malformedScan, c.defaultTaken,
       c.unmapped, c.discarded, c.classRefused, c.answerDropped, c.offDay, c.badStatus, c.staleGrants, s.ring.grants.length,
       flag s.ring.headHeld, s.register.length, held 1, held 2, held 3, c.boardsQueued, c.boardsRefused,
       (s.lines.toList.filter fun b => b.pending.isSome).length, c.attnQueued, c.attnRefused, c.clearRefused, c.malformedRequest,
       c.replyRefused, c.readerAhead, c.lateClamped, outcomeCode s.loader.outcome, s.loader.skipped, s.loader.legalized])

/-- WRITE_TABLE of one any-day field of a LANE entry, the walk time: the value is stored legalized, the status says whether it was, and
nothing else changes but the reply (R2, R3, R179, R180).

WRITE_TABLE of a RULE entry stores the value and sets the rule's hit counter to 0 (R94).

WRITE_TABLE that disables an enabled BOARD_LINE entry drops the line's pending update (R128).

WRITE_TABLE that disables an enabled SP k holds its link, flushes both its queues, keeps its counters, keeps every other port, and
leaves zone k's QUEUED frame PREPARED with the current report (R113); the flush gives the notice of R121, an offer of a PREPARED frame
that the HELD link refuses (log entry 16).

WRITE_TABLE of 1 to 12 pairs that name different fields of one PARK, LANE or SEGMENT entry stores the legalized value of each field's
rule and leaves every other field of the three tables (R2, R3, R95, R117, R154, R162, R164, R177); the status says whether a value was
legalized, bits 10 to 15 of a kind set aside (log entry 19); a write of a station address or an enable set leaves its destination's
last report the current one (R164, R166). Such a write of a RULE entry stores the legalized values of R94 and sets the hit counter to
0.

A PARK, LANE or SEGMENT write that moves a pending lane source from one destination to another, by a delegation set, a counting window,
a port enable or a ride number, leaves the last report of both the current one, and every other report follows too (R122, R163, R164).

Such a write of a BOARD_LINE entry stores the legalized values of R127. The line is marked pending with its current content when it
goes from OFF to ON, or is ON and its address, line, lane or port has changed; a line that goes from ON to OFF loses its pending
update; any other keeps it (R128). A run of offers is owed to the port of a line that the write marks when its link is UP (R138).

WRITE_TABLE that enables a disabled BOARD_LINE entry marks it pending with its current content, and one that gives an enabled line
another lane marks it pending with that lane's content; a run of offers is owed to its port when its link is UP (R128, R138).

WRITE_TABLE that enables a disabled SP k brings its link up with the link-up notice: the enabled lines of SP k are pending with their
current content, a run of offers is owed, and zone k's current report is PREPARED and owed an offer, while the offers still owed from
the HELD time are refused and counted (R112, R141, R166, log entry 11). -/
def Obligations.WriteTableStoresLegalized : Prop :=
  let within := fun low high v : Nat => max low (min high v)
  let code := fun top other v : Nat => if v ≤ top then v else other
  let stored : TableId → Nat → Nat → Nat := fun table field v =>
    match table, field with
    | .park, 1 => within 15 120 v
    | .park, 2 => min 30 v
    | .park, 3 => within 1 4 v
    | .park, 4 => code 2 2 v
    | .park, 5 => within 256 16382 v
    | .park, 6 => within 256 16382 v
    | .park, 7 => code 1 1 v
    | .park, 8 => code 1 0 v
    | .park, _ => v &&& 0x1FF
    | .lane, 1 => min 250 v
    | .lane, 2 => max 16 v
    | .lane, 3 => min 30 v
    | .lane, 4 => min 15 v
    | .lane, 5 => within 1 16 v
    | .lane, 6 => if v = 1 ∨ v = 10 then v else 5
    | .lane, 7 => min 30 v
    | .lane, 8 => within 1 60 v
    | .lane, 9 => (within 5 60 v + 2) / 5 * 5
    | .lane, 10 => min 2879 v
    | .lane, 11 => min 30 v
    | .lane, 12 => min 15 v
    | .lane, 13 => min 120 v
    | .lane, 14 => within 1 8 v
    | .lane, 15 => min 4095 v
    | .lane, 16 => within 1 15 v
    | .lane, 17 => min 255 v
    | .lane, 18 => code 1 1 v
    | .lane, _ => code 3 0 v
    | .rule, 1 => code 1 0 v
    | .rule, 2 => code 1 0 v
    | .rule, 3 => code 5 0 v
    | .rule, 4 => code 3 0 v
    | .rule, 7 => code 7 5 v
    | .rule, 8 => code 63 0xFFFF v
    | .rule, _ => v
    | .boardLine, 1 => code 1 0 v
    | .boardLine, 2 => within 256 16382 v
    | .boardLine, 3 => min 15 v
    | .boardLine, 4 => min 63 v
    | .boardLine, _ => code 6 6 v
    | _, 1 => code 1 0 v
    | _, 4 => code 1 0 v
    | _, 7 => code 1 0 v
    | _, 8 => if v < 32768 then min 3600 v else max 61936 v
    | _, 9 => within 256 16382 v
    | _, 10 => v &&& 0xB2
    | _, 11 => v &&& 0x2B2
    | _, _ => min 16383 v
  let asWritten := fun (table : TableId) (p : Nat × Nat) =>
    let named := if (table = .park ∧ p.1 = 9) ∨ (table = .segment ∧ (p.1 = 10 ∨ p.1 = 11)) then p.2 &&& 0x3FF else p.2
    stored table p.1 p.2 = named
  let status := fun (table : TableId) (pairs : List (Nat × Nat)) =>
    if ∀ p ∈ pairs, asWritten table p then Status.ok else .okLegalized
  let written := fun (table : TableId) (pairs : List (Nat × Nat)) (entry : List Nat) =>
    pairs.foldl (fun e p => e.set (p.1 - 1) (stored table p.1 p.2)) entry
  let request := fun (table : TableId) (pairs : List (Nat × Nat)) =>
    1 ≤ pairs.length ∧ pairs.length ≤ 12 ∧ (pairs.map Prod.fst).Nodup ∧
      ∀ p ∈ pairs, 1 ≤ p.1 ∧ p.1 ≤ table.writable ∧ p.2 < 65536
  let args := fun (number index : Nat) (pairs : List (Nat × Nat)) =>
    [byteOf number] ++ le16 index ++ [byteOf pairs.length] ++ pairs.flatMap fun p => byteOf p.1 :: le16 p.2
  let content := fun (number index : Nat) (pairs : List (Nat × Nat)) =>
    [byteOf number] ++ le16 index ++ [byteOf pairs.length, 0xFF]
  (∀ (s : State) (h : MgmtHeader) (i : Fin 64) (v : Nat), v < 65536 →
     let args := [2, byteOf i.val, 0, 1, 3] ++ le16 v
     let req : MgmtRequest := ⟨h.source, h.tag, 2, args⟩
     s.TakesRequest req →
     exec (.writeTable h args) s = .next (State.reply { s.atRequest with
         lanes := put s.lanes i { s.lane i with config := { (s.lane i).config with walkTime := min 30 v } } }
       req (if 30 < v then .okLegalized else .ok) [2, byteOf i.val, 0, 1, 0xFF] false)) ∧
  (∀ (s : State) (h : MgmtHeader) (j : Fin 24) (v : Nat), v < 65536 →
     let args := [3, byteOf j.val, 0, 1, 5] ++ le16 v
     let req : MgmtRequest := ⟨h.source, h.tag, 2, args⟩
     s.TakesRequest req →
     exec (.writeTable h args) s = .next (State.reply { s.atRequest with
       rules := put s.rules j { s.rules.get j with mask := v, hits := 0 } } req .ok [3, byteOf j.val, 0, 1, 0xFF] false)) ∧
  (∀ (s : State) (h : MgmtHeader) (j : Fin 192), (s.lines.get j).enable = true →
     let args := [5, byteOf j.val, 0, 1, 1, 0, 0]
     let req : MgmtRequest := ⟨h.source, h.tag, 2, args⟩
     s.TakesRequest req →
     exec (.writeTable h args) s = .next (State.reply { s.atRequest with
       lines := put s.lines j { s.lines.get j with enable := false, pending := none } } req .ok [5, byteOf j.val, 0, 1, 0xFF] false)) ∧
  (∀ (s : State) (h : MgmtHeader) (k : Fin 6), (s.segment k).enable = true →
     let args := [4, byteOf k.val, 0, 1, 1, 0, 0]
     let req : MgmtRequest := ⟨h.source, h.tag, 2, args⟩
     s.TakesRequest req →
     ∃ t : State, exec (.writeTable h args) s = .next (t.reply req .ok [4, byteOf k.val, 0, 1, 0xFF] false) ∧
       t = { s.atRequest with
         segments := put s.segments k { s.segment k with enable := false }, ports := t.ports,
         attn := { s.attn with ports := t.attn.ports } } ∧
       t.linkUp (.sp k) = false ∧ (t.port (.sp k)).rx = [] ∧ (t.port (.sp k)).tx = [] ∧ (t.port (.sp k)).sending = false ∧
       (t.port (.sp k)).counters = (s.port (.sp k)).counters ∧
       (t.port (.sp k)).boardRuns = 0 ∧
       (∀ p : Port, p ≠ .sp k → (s.port p).Kept (t.port p) ∧ (t.port p).boardRuns = (s.port p).boardRuns) ∧
       (t.attnPort (.sp k)).offersDue = (s.attnPort (.sp k)).offersDue +
         (if (s.attnPort (.sp k)).slot = .empty then 0 else 1) ∧
       ((s.attnPort (.sp k)).slot = .queued → (t.attnPort (.sp k)).slot = .prepared (t.attnFrame (.sp k) (t.report (.sp k)))) ∧
       (t.report (.sp k) ≠ s.report (.sp k) → (t.attnPort (.sp k)).last = t.report (.sp k)) ∧
       ∀ d : Port, d ≠ .sp k → s.ReportFollows t d) ∧
  (∀ (s : State) (h : MgmtHeader) (table : TableId) (index : Nat) (pairs : List (Nat × Nat)),
     table = .park ∨ table = .lane ∨ table = .segment → index < table.entries → request table pairs →
     (table = .lane → s.clock.day = .opened → ∀ p ∈ pairs, p.1 ≠ 1 ∧ p.1 ≠ 9 ∧ p.1 ≠ 10) →
     (table = .lane → ∀ v : Nat, (1, v) ∈ pairs → stored .lane 1 v ≠ 0 →
       ∀ j : Fin 64, j.val ≠ index → (s.lane j).config.ride ≠ stored .lane 1 v) →
     let number := if table = .park then 1 else if table = .lane then 2 else 4
     let req : MgmtRequest := ⟨h.source, h.tag, 2, args number index pairs⟩
     s.TakesRequest req →
     ∃ t : State,
       exec (.writeTable h (args number index pairs)) s =
         .next (t.reply req (status table pairs) (content number index pairs) false) ∧
       t = { s.atRequest with
         park := t.park, lanes := t.lanes, segments := t.segments, lines := t.lines, ports := t.ports
         attn := { s.attn with ports := t.attn.ports }, counters := { s.counters with attnRefused := t.counters.attnRefused } } ∧
       t.readEntry table index = written table pairs (s.readEntry table index) ∧
       (∀ (other : TableId) (i : Nat), other = .park ∨ other = .lane ∨ other = .segment → (other, i) ≠ (table, index) →
         t.readEntry other i = s.readEntry other i) ∧
       (∀ i : Fin 64, t.lane i = { s.lane i with config := (t.lane i).config }) ∧
       (¬ (table = .segment ∧ ∃ p ∈ pairs, p.1 = 1) → s.PortsKept t ∧ (s.RunsOwed t fun _ => 0) ∧
         t.lines = s.lines ∧ t.counters = s.counters) ∧
       (table = .park → (∃ p ∈ pairs, p.1 = 5 ∨ p.1 = 9) → (t.attnPort .tp).last = t.report .tp) ∧
       (∀ k : Fin 6, table = .segment → k.val = index → (∃ p ∈ pairs, p.1 = 9 ∨ p.1 = 11) →
         (t.attnPort (.sp k)).last = t.report (.sp k)) ∧
       (∀ (i : Fin 64) (k : AttnKind), s.laneKindPending k i = true → t.laneKindPending k i = true →
         s.laneRoute k i ≠ t.laneRoute k i → ∀ d : Port, d = s.laneRoute k i ∨ d = t.laneRoute k i →
         (t.attnPort d).last = t.report d) ∧
       (table = .lane → s.ShutLaw → s.ReportsFollow t) ∧
       (table ≠ .lane → ¬ (table = .segment ∧ ∃ p ∈ pairs, p.1 = 1) → s.ReportsFollow t) ∧
       (table ≠ .lane → ∀ d : Port, t.report d ≠ s.report d → (t.attnPort d).last = t.report d)) ∧
  (∀ (s : State) (h : MgmtHeader) (j : Fin 24) (pairs : List (Nat × Nat)), request .rule pairs →
     let req : MgmtRequest := ⟨h.source, h.tag, 2, args 3 j.val pairs⟩
     s.TakesRequest req →
     ∃ t : State,
       exec (.writeTable h (args 3 j.val pairs)) s =
         .next (t.reply req (status .rule pairs) (content 3 j.val pairs) false) ∧
       t = { s.atRequest with rules := t.rules } ∧ (∀ i : Fin 24, i ≠ j → t.rules.get i = s.rules.get i) ∧
       t.readEntry .rule j.val = (written .rule pairs (s.readEntry .rule j.val)).set 8 0) ∧
  (∀ (s : State) (h : MgmtHeader) (j : Fin 192) (pairs : List (Nat × Nat)), request .boardLine pairs →
     let req : MgmtRequest := ⟨h.source, h.tag, 2, args 5 j.val pairs⟩
     s.TakesRequest req →
     ∃ t : State,
       let old := s.lines.get j
       let new := t.lines.get j
       let moved := new.address ≠ old.address ∨ new.line ≠ old.line ∨ new.lane ≠ old.lane ∨ new.port ≠ old.port
       let marks := new.enable = true ∧ (old.enable = false ∨ moved)
       exec (.writeTable h (args 5 j.val pairs)) s =
         .next (t.reply req (status .boardLine pairs) (content 5 j.val pairs) false) ∧
       t = { s.atRequest with lines := t.lines, ports := t.ports } ∧
       (∀ i : Fin 192, i ≠ j → t.lines.get i = s.lines.get i) ∧
       (t.readEntry .boardLine j.val).take 5 = written .boardLine pairs ((s.readEntry .boardLine j.val).take 5) ∧
       (marks → new.pending = some (s.lineContent new)) ∧
       (new.enable = false → new.pending = if old.enable = true then none else old.pending) ∧
       (new.enable = true → old.enable = true → ¬ moved → new.pending = old.pending) ∧
       ∀ p : Port, t.port p = { s.port p with
         boardRuns := (s.port p).boardRuns + (if marks ∧ p = new.port ∧ s.linkUp p = true then 1 else 0) }) ∧
  (∀ (s : State) (h : MgmtHeader) (j : Fin 192) (field v : Byte),
     let args := [5, byteOf j.val, 0, 1, field, v, 0]
     let req : MgmtRequest := ⟨h.source, h.tag, 2, args⟩
     let old := s.lines.get j
     let marks := fun new : BoardLine => exec (.writeTable h args) s = .next (State.reply { s.atRequest with
         lines := put s.lines j { new with pending := some (s.lineContent new) }
         ports := if s.linkUp new.port = true then
           put s.ports (portIndex new.port) { s.port new.port with boardRuns := (s.port new.port).boardRuns + 1 } else s.ports }
       req .ok [5, byteOf j.val, 0, 1, 0xFF] false)
     s.TakesRequest req →
     (old.enable = false → field = 1 → v = 1 → marks { old with enable := true }) ∧
     (∀ i : Fin 64, old.enable = true → field = 4 → v.toNat = i.val → i ≠ old.lane → marks { old with lane := i })) ∧
  (∀ (s : State) (h : MgmtHeader) (k : Fin 6), (s.segment k).enable = false →
     let args := [4, byteOf k.val, 0, 1, 1, 1, 0]
     let req : MgmtRequest := ⟨h.source, h.tag, 2, args⟩
     let a := s.attnPort (.sp k)
     s.TakesRequest req →
     ∃ t : State, exec (.writeTable h args) s = .next (t.reply req .ok [4, byteOf k.val, 0, 1, 0xFF] false) ∧
       t = { s.atRequest with
         segments := put s.segments k { s.segment k with enable := true }, lines := t.lines, ports := t.ports,
         attn := { s.attn with ports := t.attn.ports }
         counters := { s.counters with attnRefused :=
           match a.slot with
           | .prepared _ => min 65535 (s.counters.attnRefused + a.offersDue)
           | _ => s.counters.attnRefused } } ∧
       t.linkUp (.sp k) = true ∧ s.PortsKept t ∧ (t.port (.sp k)).boardRuns = (s.port (.sp k)).boardRuns + 1 ∧
       (∀ p : Port, p ≠ .sp k → (t.port p).boardRuns = (s.port p).boardRuns) ∧
       (∀ j : Fin 192, t.lines.get j =
         if (s.lines.get j).enable = true ∧ (s.lines.get j).port = .sp k then
           { s.lines.get j with pending := some (s.lineContent (s.lines.get j)) } else s.lines.get j) ∧
       (t.attnPort (.sp k)).last = t.report (.sp k) ∧
       (a.slot ≠ .queued → (t.attnPort (.sp k)).slot = .prepared (t.attnFrame (.sp k) (t.report (.sp k))) ∧
         (t.attnPort (.sp k)).offersDue = 1) ∧
       ∀ d : Port, d ≠ .sp k → s.ReportFollows t d)

/-! ## Reset and flash requests -/

/-- RESET SEGMENT k answers OK and hands one reset to SP k; a segment above 5 is refused BAD_INDEX with nothing handed over (R182).

RESET ENGINE answers OK and resets nothing yet: with room on TP the reply, of level ENGINE and with a segment byte that is a free value
(log entry 9), is queued and the agent is RESETTING, and the reset is given to the reset path at the completion of that reply's
transmission (R182). -/
def Obligations.ResetRequestsAreHandedOn : Prop :=
  (∀ (s : State) (h : MgmtHeader) (segment : Byte),
     let req : MgmtRequest := ⟨h.source, h.tag, 11, [2, segment]⟩
     s.TakesRequest req →
     (∀ k : Fin 6, k.val = segment.toNat → exec (.resetSegment h segment) s = .next (State.reply { s.atRequest with
       segmentResetsDue := put s.segmentResetsDue k (s.segmentResetsDue.get k + 1) } req .ok [2, segment] false)) ∧
     (5 < segment.toNat → ∃ content : List Byte,
       exec (.resetSegment h segment) s = .next (s.atRequest.reply req .badIndex content false))) ∧
  ((∀ (s : State) (h : MgmtHeader) (segment : Byte),
     s.TakesRequest ⟨h.source, h.tag, 11, [1, segment]⟩ → (s.port .tp).tx.length < 48 →
     ∃ (t : State) (b : Byte), exec (.resetEngine h segment) s = .next t ∧
       t = { s with ports := t.ports, agent := ⟨.resetting, none, none, 0⟩ } ∧
       (∀ p : Port, p ≠ .tp → t.port p = s.port p) ∧
       t.port .tp = { s.port .tp with tx := (s.port .tp).tx ++
         [⟨buildFrame 0x16 h.source s.park.nodeAddress (le16 h.tag ++ [11, 0, 1, b]), .engineReply⟩] }) ∧
   (∀ (s : State) (frame : List Byte) (rest : List TxFrame), s.resetHeld = false → s.agent.mode = .resetting →
     (s.port .tp).sending = true → (s.port .tp).tx = ⟨frame, .engineReply⟩ :: rest →
     ∃ t : State, exec (.transmitComplete .tp) s = .next t ∧ t.engineResetDue = true))

/-- FLASH_WRITE accepted: BUSY, the flag cleared, offset, length and data recorded, no byte written yet; and at its completion the
bytes stand in the flash, no byte outside the range has changed, the flag is set and the state is IDLE, or, where the bytes read back
differ or the flash does not respond, the flag stays clear and no byte outside the range has changed (R185); what the range then holds
is free (log entry 38).

FLASH_WRITE refused: of no byte or more than 64 it is BAD_REQUEST, past byte 65,535 BAD_INDEX, and else BUSY while a write is in
progress; the flash and the write in progress stay as they are, and nothing changes but the reply (R184, R185), whose content is free
(log entry 9). -/
def Obligations.FlashWriteAndItsCompletion : Prop :=
  (∀ (s : State) (h : MgmtHeader) (offset : Nat) (data : List Byte), offset + data.length ≤ 65536 → 1 ≤ data.length →
    data.length ≤ 64 → s.flash.access ≠ .busy →
    let args := le16 offset ++ [byteOf data.length] ++ data
    let req : MgmtRequest := ⟨h.source, h.tag, 13, args⟩
    s.TakesRequest req →
    exec (.flashWrite h args) s = .next (State.reply { s.atRequest with
        flash := { s.flash with access := .busy, lastWriteOk := false, offset := offset, length := data.length, data := data } }
      req .ok (le16 offset ++ [byteOf data.length]) false)) ∧
  (∀ (s : State) (h : MgmtHeader) (offset : Nat) (data : List Byte), offset < 65536 → data.length < 256 →
    let args := le16 offset ++ [byteOf data.length] ++ data
    let req : MgmtRequest := ⟨h.source, h.tag, 13, args⟩
    let refused := fun st : Status => ∃ content : List Byte, exec (.flashWrite h args) s =
      .next (s.atRequest.reply req st content false)
    s.TakesRequest req →
    (data.length = 0 ∨ 64 < data.length → refused .badRequest) ∧
    (1 ≤ data.length → data.length ≤ 64 → 65536 < offset + data.length → refused .badIndex) ∧
    (1 ≤ data.length → data.length ≤ 64 → offset + data.length ≤ 65536 → s.flash.access = .busy → refused .busy)) ∧
  (∀ s : State, s.resetHeld = false → s.FlashLaw → s.flash.access = .busy →
    (∃ t : State, exec (.flashWriteComplete true) s = .next t ∧
      t = { s with flash := { s.flash with access := .idle, lastWriteOk := true, mem := t.flash.mem } } ∧
      ∀ a : Nat, t.flash.mem.read a =
        if s.flash.offset ≤ a ∧ a < s.flash.offset + s.flash.length then s.flash.data.getD (a - s.flash.offset) 0
        else s.flash.mem.read a) ∧
    ∃ t : State, exec (.flashWriteComplete false) s = .next t ∧
      t = { s with
        flash := { s.flash with access := .idle, lastWriteOk := false, mem := t.flash.mem }, freeDraws := s.freeDraws + 1 } ∧
      ∀ a : Nat, ¬ (s.flash.offset ≤ a ∧ a < s.flash.offset + s.flash.length) → t.flash.mem.read a = s.flash.mem.read a)

/-- A reply that is built is queued on TP when its link is UP and its queue holds fewer than 48 frames, and the agent is IDLE again, or
RESETTING after RESET ENGINE; otherwise the agent holds it and the reply-refused counter grows (R174, R176, R182).

A held reply offered at a room notice of TP: queued as built when there is room, and the agent IDLE, or RESETTING when it is that of
RESET ENGINE; still held otherwise, with the reply-refused counter grown (R176, R182). That the offer is a command of its own, one for
each room notice while offers are owed, is the model's choice (log entries 3 and 15).

An ANSWER is addressed to the scan's source, carries ticket, ride, result, window, party and other ride with their absent markers, and
is queued on the arrival port when its link is UP and its queue holds fewer than 48 frames; otherwise it is dropped and the
answer-dropped counter grows (R105, R107, R120, R197). -/
def Obligations.ReplyIsQueuedOrHeld : Prop :=
  (∀ (s : State) (req : MgmtRequest) (st : Status) (content : List Byte) (engine : Bool),
     let frame := buildFrame 0x16 req.source s.park.nodeAddress
       (le16 req.tag ++ [byteOf req.code, byteOf (statusCode st)] ++ content)
     (s.linkUp .tp = true → (s.port .tp).tx.length < 48 →
       let t := s.reply req st content engine
       t = { s with
         ports := t.ports
         agent := { s.agent with mode := if engine then .resetting else .idle, reply := none, offersDue := 0 } } ∧
       (∀ p : Port, p ≠ .tp → t.port p = s.port p) ∧
       t.port .tp = { s.port .tp with tx := (s.port .tp).tx ++ [⟨frame, if engine then .engineReply else .reply⟩] }) ∧
     ((s.linkUp .tp = false ∨ 48 ≤ (s.port .tp).tx.length) → s.reply req st content engine =
       { s with
         agent := { s.agent with mode := .holding, reply := some ⟨frame, engine⟩ }
         counters := { s.counters with replyRefused := min 65535 (s.counters.replyRefused + 1) } })) ∧
  (∀ (s : State) (frame : List Byte) (engine : Bool), s.Serving → s.agent.mode = .holding →
     s.agent.reply = some ⟨frame, engine⟩ → 0 < s.agent.offersDue →
     ∃ t : State, exec .mgmtReplyOffer s = .next t ∧
       t = { s with ports := t.ports, agent := t.agent, counters := t.counters } ∧
       (∀ p : Port, p ≠ .tp → t.port p = s.port p) ∧
       if (s.port .tp).tx.length < 48 then
         t.port .tp = { s.port .tp with
             tx := (s.port .tp).tx ++ [⟨frame, if engine then .engineReply else .reply⟩] } ∧
           t.agent = ⟨if engine then .resetting else .idle, s.agent.request, none, 0⟩ ∧ t.counters = s.counters
       else
         t.port .tp = s.port .tp ∧ t.agent = { s.agent with offersDue := s.agent.offersDue - 1 } ∧
           t.counters = { s.counters with replyRefused := min 65535 (s.counters.replyRefused + 1) }) ∧
  (∀ (s : State) (o : ScanOrigin) (ticket : Nat) (a : Answer),
     let p := Port.sp o.segment
     let frame := buildFrame 0x11 o.source s.park.nodeAddress (
       le32 ticket ++ [byteOf o.ride, byteOf (answerResultCode a.result)]
         ++ le16 (match a.window with | some w => w.1 | none => 0xFFFF) ++ le16 (match a.window with | some w => w.2 | none => 0xFFFF)
         ++ [byteOf (a.party.getD 0), byteOf (a.otherRide.getD 0)])
     s.sendAnswer o ticket a =
       if s.linkUp p = true ∧ (s.port p).tx.length < 48 then
         { s with ports := put s.ports (portIndex p) { s.port p with tx := (s.port p).tx ++ [⟨frame, .answer⟩] } }
       else { s with counters := { s.counters with answerDropped := min 65535 (s.counters.answerDropped + 1) } })

/-! ## Ports -/

/-- A frame that reaches a port: nothing happens on a HELD link; a wrong size grows the length-error counter and else a wrong CRC the
CRC-error counter; a good frame joins a queue of fewer than 24 with its receipt second; and a full queue drops it, counts the overrun
and latches PORT_OVERRUN for that port (R111, R114, R115, R156); the reports follow, so that the last report of the trunk is its report
(R164). -/
def Obligations.FrameReceiveChecksAndQueues : Prop :=
  ∀ (s : State) (p : Port) (bytes : List Byte), s.resetHeld = false →
    let q := s.port p
    let grown := fun c : PortCounters => { s with ports := put s.ports (portIndex p) { q with counters := c } }
    let badSize := bytes.length < 9 ∨ 96 < frameLength bytes ∨ bytes.length ≠ 9 + frameLength bytes
    let badCrc := (crc16 (bytes.take (bytes.length - 2))).toNat ≠ fieldAt bytes (bytes.length - 2) 2
    (s.linkUp p = false → exec (.frameReceive p bytes) s = .next s) ∧
    (s.linkUp p = true → badSize →
      exec (.frameReceive p bytes) s = .next (grown { q.counters with lengthError := min 65535 (q.counters.lengthError + 1) })) ∧
    (s.linkUp p = true → ¬ badSize → badCrc →
      exec (.frameReceive p bytes) s = .next (grown { q.counters with crcError := min 65535 (q.counters.crcError + 1) })) ∧
    (s.linkUp p = true → ¬ badSize → ¬ badCrc → q.rx.length < 24 →
      exec (.frameReceive p bytes) s = .next { s with ports := put s.ports (portIndex p) { q with
        rx := q.rx ++ [⟨bytes, if s.clock.day = .opened then s.clock.ops else 0⟩]
        counters := { q.counters with received := min 65535 (q.counters.received + 1) } } }) ∧
    (s.linkUp p = true → ¬ badSize → ¬ badCrc → 24 ≤ q.rx.length → ∃ t : State, exec (.frameReceive p bytes) s = .next t ∧
      State.OnlyReports { grown { q.counters with overrun := min 65535 (q.counters.overrun + 1) } with
        attn := { s.attn with overruns := put s.attn.overruns (portIndex p) true } } t ∧
      (t.attnPort .tp).last = t.report .tp ∧ s.ReportsFollow t)

/-- The router takes the head frame of a receive queue and, for a frame that rows 1 to 8 of R116 leave to the windows, forwards it by
rows 9 and 11, or drops it by rows 10 and 12 (R116, R117, R119, R120).

The router drops a LINK_RESET from a segment and a frame to the node address of a kind that its port does not take as misdirected, and
a frame to an unassigned address as NO_ROUTE; a LINK_RESET from the trunk becomes a cause of ENGINE reset (R116, R119, R124).

A forwarded frame is admitted at the tail of a queue of fewer than 40 frames on an UP link and counted as forwarded; otherwise it is
refused and counted as forward-dropped at that port (R119, R120).

Row 4: a MGMT_REQ to the node address waits at the head of TP's queue while the agent has a request in progress; else it is handed to
the agent: dropped and counted when shorter than tag and code, answered BAD_REQUEST for an unknown code or a RESET of no known level or
of another length (what each such reply carries is log entry 9), and otherwise the agent's request (R115, R116, R174, R175, R182; that
the agent carries it out by a command of its own is log entry 2).

Row 5: a ZONE_CLEAR from SP k that is well formed clears the COUNT_SKEW sources routed to zone k that it names, the reports follow, and
nothing else changes; the last report of zone k is its report when the clear names COUNT_SKEW, and whenever it was so before; another
is dropped and counted (R116, R164, R169).

Row 8: a broadcast is offered to every other port whose link is UP, each copy admitted or dropped on its own and counted (R116, R118).
-/
def Obligations.RouteFrameByTheTable : Prop :=
  (∀ (s : State) (p : Port) (f : RxFrame) (rest : List RxFrame), s.resetHeld = false → (s.port p).rx = f :: rest →
     let d := frameDestination f.bytes
     let u : State := { s with ports := put s.ports (portIndex p) { s.port p with rx := rest } }
     let inWindow := fun k : Fin 6 => (s.segment k).enable = true ∧
       (((s.segment k).window1.enable = true ∧ (s.segment k).window1.base ≤ d ∧ d ≤ (s.segment k).window1.limit) ∨
         ((s.segment k).window2.enable = true ∧ (s.segment k).window2.base ≤ d ∧ d ≤ (s.segment k).window2.limit))
     frameKind f.bytes ≠ 0x1F → d ≠ 0 → ¬ (251 ≤ d ∧ d ≤ 255) → d ≠ s.park.nodeAddress → d ≠ 16383 →
     (frameKind f.bytes ≠ 0x10 ∨ 250 < d ∨ p = .tp) →
     (∀ k : Fin 6, Port.sp k ≠ p → inWindow k → (∀ j : Fin 6, j < k → Port.sp j ≠ p → ¬ inWindow j) →
       exec (.routeFrame p) s = .next (u.forward (.sp k) f.bytes)) ∧
     ((∀ k : Fin 6, Port.sp k ≠ p → ¬ inWindow k) →
       (∀ k : Fin 6, p = .sp k → inWindow k → exec (.routeFrame p) s =
         .next { u with counters := { s.counters with hairpin := min 65535 (s.counters.hairpin + 1) } }) ∧
       (∀ k : Fin 6, p = .sp k → ¬ inWindow k → exec (.routeFrame p) s = .next (u.forward .tp f.bytes)) ∧
       (p = .tp → exec (.routeFrame p) s =
         .next { u with counters := { s.counters with noRoute := min 65535 (s.counters.noRoute + 1) } }))) ∧
  (∀ (s : State) (p : Port) (f : RxFrame) (rest : List RxFrame), s.resetHeld = false → (s.port p).rx = f :: rest →
     let d := frameDestination f.bytes
     let u : State := { s with ports := put s.ports (portIndex p) { s.port p with rx := rest } }
     let misdirected := exec (.routeFrame p) s =
       .next { u with counters := { s.counters with misdirected := min 65535 (s.counters.misdirected + 1) } }
     (frameKind f.bytes = 0x1F → p = .tp → exec (.routeFrame p) s = .next { u with engineResetDue := true }) ∧
     (frameKind f.bytes = 0x1F → p ≠ .tp → misdirected) ∧
     (frameKind f.bytes ≠ 0x1F → d = 0 ∨ (251 ≤ d ∧ d ≤ 255) → d ≠ s.park.nodeAddress → exec (.routeFrame p) s =
       .next { u with counters := { s.counters with noRoute := min 65535 (s.counters.noRoute + 1) } }) ∧
     (256 ≤ d → d = s.park.nodeAddress → frameKind f.bytes ≠ 0x1F →
       (p = .tp ∧ frameKind f.bytes ≠ 0x15) ∨ (p ≠ .tp ∧ frameKind f.bytes ≠ 0x14) → misdirected)) ∧
  (∀ (s : State) (f : RxFrame) (rest : List RxFrame), s.resetHeld = false → (s.port .tp).rx = f :: rest →
     frameKind f.bytes = 0x15 → frameDestination f.bytes = s.park.nodeAddress → 256 ≤ s.park.nodeAddress →
     let u : State := { s with ports := put s.ports (portIndex .tp) { s.port .tp with rx := rest } }
     let payload := framePayload f.bytes
     let req : MgmtRequest := ⟨frameSource f.bytes, fieldAt payload 0 2, fieldAt payload 2 1, payload.drop 3⟩
     let unknown := req.code = 0 ∨ 15 < req.code
     let noLevel := req.code = 11 ∧ (req.args.length ≠ 2 ∨ (fieldAt req.args 0 1 ≠ 1 ∧ fieldAt req.args 0 1 ≠ 2))
     (s.agent.mode ≠ .idle ∨ s.agent.request ≠ none → exec (.routeFrame .tp) s = .next s) ∧
     (s.agent.mode = .idle → s.agent.request = none →
       (payload.length < 3 → exec (.routeFrame .tp) s =
         .next { u with counters := { s.counters with malformedRequest := min 65535 (s.counters.malformedRequest + 1) } }) ∧
       (3 ≤ payload.length → unknown ∨ noLevel → ∃ content : List Byte,
         exec (.routeFrame .tp) s = .next (u.reply req .badRequest content false)) ∧
       (3 ≤ payload.length → ¬ unknown → ¬ noLevel →
         exec (.routeFrame .tp) s = .next { u with agent := { s.agent with request := some req } }))) ∧
  (∀ (s : State) (k : Fin 6) (f : RxFrame) (rest : List RxFrame), s.resetHeld = false → (s.port (.sp k)).rx = f :: rest →
     frameKind f.bytes = 0x14 → frameDestination f.bytes = s.park.nodeAddress → 256 ≤ s.park.nodeAddress →
     let u : State := { s with ports := put s.ports (portIndex (.sp k)) { s.port (.sp k) with rx := rest } }
     let lane := fieldAt (framePayload f.bytes) 2 1
     let bad := frameLength f.bytes ≠ 4 ∨ frameSource f.bytes ≠ (s.segment k).stationAddress ∨ (63 < lane ∧ lane ≠ 255)
     (bad → exec (.routeFrame (.sp k)) s =
       .next { u with counters := { s.counters with clearRefused := min 65535 (s.counters.clearRefused + 1) } }) ∧
     (¬ bad → ∃ t : State, exec (.routeFrame (.sp k)) s = .next t ∧ State.OnlyReports { u with lanes := t.lanes } t ∧
       s.ReportsFollow t ∧
       ((fieldAt (framePayload f.bytes) 0 2).testBit 5 = true ∨ (s.attnPort (.sp k)).last = s.report (.sp k) →
         (t.attnPort (.sp k)).last = t.report (.sp k)) ∧
       ∀ i : Fin 64, t.lane i = { s.lane i with countSkew := (s.lane i).countSkew &&
         !((fieldAt (framePayload f.bytes) 0 2).testBit 5 && decide (s.laneRoute .countSkew i = .sp k) &&
           decide (lane = 255 ∨ lane = i.val)) })) ∧
  (∀ (s : State) (p : Port) (f : RxFrame) (rest : List RxFrame), s.resetHeld = false → (s.port p).rx = f :: rest →
     frameKind f.bytes ≠ 0x1F → frameDestination f.bytes = 16383 → s.park.nodeAddress ≠ 16383 →
     let copied := fun q : Port => q ≠ p ∧ s.linkUp q = true
     let taken := fun q : Port => copied q ∧ (s.port q).tx.length < 40
     let n := ([Port.tp, .sp 0, .sp 1, .sp 2, .sp 3, .sp 4, .sp 5].filter fun q =>
       decide (q ≠ p) && s.linkUp q && decide ((s.port q).tx.length < 40)).length
     ∃ t : State, exec (.routeFrame p) s = .next t ∧ t = { s with ports := t.ports, counters := t.counters } ∧
       t.counters = { s.counters with
         forwarded := if n = 0 then s.counters.forwarded else min 65535 (s.counters.forwarded + n) } ∧
       t.port p = { s.port p with rx := rest } ∧
       ∀ q : Port, q ≠ p →
         (taken q → t.port q = { s.port q with tx := (s.port q).tx ++ [⟨f.bytes, .forwarded⟩] }) ∧
         (copied q → ¬ taken q → t.port q = { s.port q with counters := { (s.port q).counters with
           forwardDropped := min 65535 ((s.port q).counters.forwardDropped + 1) } }) ∧
         (¬ copied q → t.port q = s.port q)) ∧
  (∀ (s : State) (p : Port) (bytes : List Byte),
     s.forward p bytes =
       if s.linkUp p = true ∧ (s.port p).tx.length < 40 then
         { s with
           ports := put s.ports (portIndex p) { s.port p with tx := (s.port p).tx ++ [⟨bytes, .forwarded⟩] }
           counters := { s.counters with forwarded := min 65535 (s.counters.forwarded + 1) } }
       else
         { s with ports := put s.ports (portIndex p) { s.port p with
           counters := { (s.port p).counters with forwardDropped := min 65535 ((s.port p).counters.forwardDropped + 1) } } })

/-- With every rule disabled and the default action BY_HINT, a well-formed scan on SP k whose hint is 1 to 5 and whose ride a lane
serves is handed on as that lane's action, and the default-taken counter grows (R93, R97 to R103).

A scan of another payload length, or whose payload names another ride than its destination, is dropped and counted as malformed (R93).

A well-formed scan in full (R96 to R104): the first chain that matches, a run of rules from one whose predecessor's chain flag is OFF to
the first whose own is, rule 23's read as OFF, decides it by the action and the override of its first rule, and the hits of its rules
grow; without one the default action decides it and the default-taken counter grows. A lane action is handed on with the overriding
lane or the lane of its ride, or counted as unmapped; PASS_THROUGH routes it by the windows, DISCARD counts it, REFUSE_CLASS counts
and answers it. -/
def Obligations.ScanIsHandedOnByHint : Prop :=
  (∀ (s : State) (k : Fin 6) (f : RxFrame) (rest : List RxFrame) (i : Fin 64), s.resetHeld = false →
    (s.port (.sp k)).rx = f :: rest → (∀ j : Fin 24, (s.rules.get j).enable = false) → s.park.defaultAction = .byHint →
    256 ≤ s.park.nodeAddress → frameKind f.bytes = 0x10 → frameLength f.bytes = 16 →
    let p := framePayload f.bytes
    let c := scanOf k f
    let ride := fieldAt p 4 1
    frameDestination f.bytes = ride → 1 ≤ ride → ride ≤ 250 → (s.lane i).config.ride = ride →
    (∀ j : Fin 64, (s.lane j).config.ride = ride → j = i) →
    let handed := fun a : ScanAction => exec (.routeFrame (.sp k)) s = .next { s with
      ports := put s.ports (portIndex (.sp k)) { s.port (.sp k) with rx := rest }
      counters := { s.counters with defaultTaken := min 65535 (s.counters.defaultTaken + 1) }
      handed := s.handed ++ [a] }
    (c.roleHint = 1 → handed (.countEntry i (fieldAt p 6 1))) ∧
    (c.roleHint = 2 → handed (.countBoarding i (fieldAt p 6 1) (fieldAt p 7 1))) ∧
    (c.roleHint = 3 → handed (.passRequest ⟨k, frameSource f.bytes, ride⟩ i (fieldAt p 0 4) (fieldAt p 8 1))) ∧
    (c.roleHint = 4 → handed (.passReturn ⟨k, frameSource f.bytes, ride⟩ i (fieldAt p 0 4) (fieldAt p 12 4) f.receipt)) ∧
    (c.roleHint = 5 → handed (.rideStatus i (fieldAt p 10 1)))) ∧
  (∀ (s : State) (k : Fin 6) (f : RxFrame) (rest : List RxFrame), s.resetHeld = false → (s.port (.sp k)).rx = f :: rest →
    256 ≤ s.park.nodeAddress → frameKind f.bytes = 0x10 → 1 ≤ frameDestination f.bytes → frameDestination f.bytes ≤ 250 →
    let u : State := { s with ports := put s.ports (portIndex (.sp k)) { s.port (.sp k) with rx := rest } }
    let p := framePayload f.bytes
    let ride := frameDestination f.bytes
    let wellFormed := frameLength f.bytes = 16 ∧ fieldAt p 4 1 = ride
    let selected : Selector → Nat := fun
      | .source => frameSource f.bytes
      | .ride => ride
      | .port => k.val
      | .ticketClass => fieldAt p 9 1
      | .party => fieldAt p 8 1
      | .roleHint => fieldAt p 5 1
    let tests : Rule → Prop := fun r =>
      match r.operator with
      | .eq => selected r.selector &&& r.mask = r.value
      | .ne => selected r.selector &&& r.mask ≠ r.value
      | .gt => r.value < selected r.selector &&& r.mask
      | .lt => selected r.selector &&& r.mask < r.value
    let chain := fun a b : Fin 24 => a ≤ b ∧ (∀ j : Fin 24, j.val + 1 = a.val → (s.rules.get j).chain = false) ∧
      (∀ j : Fin 24, a ≤ j → j < b → (s.rules.get j).chain = true) ∧ (b.val = 23 ∨ (s.rules.get b).chain = false)
    let matched := fun a b : Fin 24 => chain a b ∧ (∃ j : Fin 24, a ≤ j ∧ j ≤ b ∧ (s.rules.get j).enable = true) ∧
      ∀ j : Fin 24, a ≤ j → j ≤ b → (s.rules.get j).enable = true → tests (s.rules.get j)
    let ends := fun t : State => exec (.routeFrame (.sp k)) s = .next t
    let decided : State → Action → Option (Fin 64) → Prop := fun v action override =>
      let mapped := fun i : Fin 64 => (override = some i ∧ (s.lane i).config.ride ≠ 0) ∨
        (override = none ∧ (s.lane i).config.ride = ride ∧ ∀ j : Fin 64, (s.lane j).config.ride = ride → j = i)
      let unmapped := (∃ i : Fin 64, override = some i ∧ (s.lane i).config.ride = 0) ∨
        (override = none ∧ ∀ j : Fin 64, (s.lane j).config.ride ≠ ride)
      let handed := fun a : Fin 64 → ScanAction =>
        (∀ i : Fin 64, mapped i → ends { v with handed := s.handed ++ [a i] }) ∧
        (unmapped → ends { v with counters := { v.counters with unmapped := min 65535 (v.counters.unmapped + 1) } })
      match action with
      | .countEntry => handed fun i => .countEntry i (fieldAt p 6 1)
      | .countBoarding => handed fun i => .countBoarding i (fieldAt p 6 1) (fieldAt p 7 1)
      | .passRequest => handed fun i => .passRequest ⟨k, frameSource f.bytes, ride⟩ i (fieldAt p 0 4) (fieldAt p 8 1)
      | .passReturn => handed fun i =>
          .passReturn ⟨k, frameSource f.bytes, ride⟩ i (fieldAt p 0 4) (fieldAt p 12 4) f.receipt
      | .rideStatus => handed fun i => .rideStatus i (fieldAt p 10 1)
      | .passThrough =>
        (∀ z : Fin 6, z ≠ k → (s.segment z).counts ride = true → (∀ j : Fin 6, j < z → j ≠ k → (s.segment j).counts ride = false) →
          ends (v.forward (.sp z) f.bytes)) ∧
        ((∀ z : Fin 6, z ≠ k → (s.segment z).counts ride = false) →
          ends (if (s.segment k).counts ride = true then
            { v with counters := { v.counters with hairpin := min 65535 (v.counters.hairpin + 1) } }
          else v.forward .tp f.bytes))
      | .discard => ends { v with counters := { v.counters with discarded := min 65535 (v.counters.discarded + 1) } }
      | .refuseClass => ends (State.sendAnswer
          { v with counters := { v.counters with classRefused := min 65535 (v.counters.classRefused + 1) } }
          ⟨k, frameSource f.bytes, ride⟩ (fieldAt p 0 4) ⟨.classRefused, none, none, none⟩)
    (¬ wellFormed →
      ends { u with counters := { s.counters with malformedScan := min 65535 (s.counters.malformedScan + 1) } }) ∧
    (wellFormed →
      (∀ a b : Fin 24, matched a b → (∀ a' b' : Fin 24, a' < a → ¬ matched a' b') →
        decided { u with rules := tabulate fun j => if a ≤ j ∧ j ≤ b then
            { s.rules.get j with hits := min 65535 ((s.rules.get j).hits + 1) } else s.rules.get j }
          (s.rules.get a).action (s.rules.get a).override) ∧
      ((∀ a b : Fin 24, ¬ matched a b) →
        decided { u with counters := { s.counters with defaultTaken := min 65535 (s.counters.defaultTaken + 1) } }
          (match s.park.defaultAction with
            | .passThrough => .passThrough
            | .discard => .discard
            | .byHint => if fieldAt p 5 1 = 1 then .countEntry else if fieldAt p 5 1 = 2 then .countBoarding
                else if fieldAt p 5 1 = 3 then .passRequest else if fieldAt p 5 1 = 4 then .passReturn
                else if fieldAt p 5 1 = 5 then .rideStatus else .passThrough)
          none)))

/-- A chain of rules matches exactly when one of its rules is enabled and every enabled rule's masked field stands to its value as its
operator says (R96, R97).

A well-formed scan taken from SP k grows by 1 the hit counter of every rule of the first chain that matches it, and of no other (R98). -/
def Obligations.ChainMatchesByItsEnabledRules : Prop :=
  (∀ (chain : List (Nat × Rule)) (c : Scan),
    chainMatches chain c = true ↔
      (∃ r ∈ chain, r.2.enable = true) ∧
      ∀ r ∈ chain, r.2.enable = true →
        match r.2.operator with
        | .eq => c.selected r.2.selector &&& r.2.mask = r.2.value
        | .ne => c.selected r.2.selector &&& r.2.mask ≠ r.2.value
        | .gt => r.2.value < c.selected r.2.selector &&& r.2.mask
        | .lt => c.selected r.2.selector &&& r.2.mask < r.2.value) ∧
  (∀ (s : State) (k : Fin 6) (f : RxFrame) (rest : List RxFrame) (before after : List (List (Nat × Rule)))
    (chain : List (Nat × Rule)), s.resetHeld = false → (s.port (.sp k)).rx = f :: rest → 256 ≤ s.park.nodeAddress →
    frameKind f.bytes = 0x10 → frameLength f.bytes = 16 → frameDestination f.bytes = fieldAt (framePayload f.bytes) 4 1 →
    1 ≤ frameDestination f.bytes → frameDestination f.bytes ≤ 250 →
    chains ((List.finRange 24).map fun j => (j.val, s.rules.get j)) = before ++ chain :: after →
    (∀ x ∈ before, chainMatches x (scanOf k f) = false) → chainMatches chain (scanOf k f) = true →
    ∃ t : State, exec (.routeFrame (.sp k)) s = .next t ∧
      ∀ j : Fin 24, t.rules.get j = if ∃ r ∈ chain, r.1 = j.val then
        { s.rules.get j with hits := min 65535 ((s.rules.get j).hits + 1) } else s.rules.get j)

/-- The head frame of an UP port starts its transmission: it is marked as sending, and a QUEUED attention slot whose frame starts goes
EMPTY (R121, R165).

A transmission completes: the head frame leaves the queue and the transmitted counter grows, and that of the RESET ENGINE reply gives
the ENGINE reset to the reset path (R121, R182); from 48 frames to 47 the port gives the room notice (R121, R138), which changes nothing
of another port. That the notice is kept as one more run of board offers and one more offer owed, of an attention frame that is PREPARED
and of a reply that TP's agent holds, is the model's choice (log entries 3 and 15). -/
def Obligations.TransmissionStartsAndCompletes : Prop :=
  (∀ (s : State) (p : Port) (f : TxFrame) (rest : List TxFrame), s.resetHeld = false → s.linkUp p = true →
     (s.port p).sending = false → (s.port p).tx = f :: rest →
     let u : State := { s with ports := put s.ports (portIndex p) { s.port p with sending := true } }
     exec (.transmitStart p) s = .next (
       if f.producer = .attention ∧ (s.attnPort p).slot = .queued then
         { u with attn := { s.attn with ports := put s.attn.ports (portIndex p) { s.attnPort p with slot := .empty } } }
       else u)) ∧
  (∀ (s : State) (p : Port) (f : TxFrame) (rest : List TxFrame), s.resetHeld = false → s.linkUp p = true →
     (s.port p).sending = true → (s.port p).tx = f :: rest →
     let q := { s.port p with
       tx := rest, sending := false
       counters := { (s.port p).counters with transmitted := min 65535 ((s.port p).counters.transmitted + 1) } }
     let due := s.engineResetDue || (decide (f.producer = .engineReply) && decide (s.agent.mode = .resetting))
     (rest.length ≠ 47 → exec (.transmitComplete p) s =
       .next { s with ports := put s.ports (portIndex p) q, engineResetDue := due }) ∧
     (rest.length = 47 → ∃ t : State, exec (.transmitComplete p) s = .next t ∧
       t = { s with
         ports := put s.ports (portIndex p) { q with boardRuns := (s.port p).boardRuns + 1 }, engineResetDue := due
         attn := { s.attn with ports := t.attn.ports }
         agent := { s.agent with
           offersDue := s.agent.offersDue + (if p = .tp ∧ s.agent.mode = .holding then 1 else 0) } } ∧
       (∀ d : Port, d ≠ p → t.attnPort d = s.attnPort d) ∧
       t.attnPort p = { s.attnPort p with
         offersDue := (s.attnPort p).offersDue + (match (s.attnPort p).slot with | .prepared _ => 1 | _ => 0) }))

/-! ## Boards -/

/-- A run of offers whose port has room for one frame and lines of one board pending, at most sixteen: one BOARD frame carries them in
table order, they leave pending, and the queued counter grows (R137, R138, R139).

A run of offers with room and lines pending, of any number and of any boards: it offers the frame of the board of the lowest pending
line, with that board's lowest sixteen pending lines, and then goes on as a run of offers at what this leaves (R137, R138); that the
lowest pending line is looked for afresh after each frame is the model's choice (log entry 35).

A run of offers at a full queue with lines pending: one offer is refused and counted, every line stays pending, and the run ends; it
ends without an offer once no line is pending (R138, R139).

A line's entry is its line number, the code of the display kind, the posted wait, 0xFF when absent, and the next return, 0xFFFF when
absent and 0xFFFE for NONE (R131, R196, R197, R200). -/
def Obligations.BoardRunsOfferPendingLines : Prop :=
  let waiting := fun (s : State) (p : Port) =>
    (List.finRange 192).filter fun j => (s.lines.get j).pending.isSome && decide ((s.lines.get j).port = p)
  let entry := fun (line : Nat) (c : LineContent) =>
    let kind := match c.kind with | .off => 0 | .closed => 1 | .down => 2 | .passOnly => 3 | .wait => 4 | .held => 5
    let next := match c.next with | .absent => 0xFFFF | .noWindow => 0xFFFE | .minute m => m
    [byteOf line, byteOf kind, byteOf (c.posted.getD 0xFF)] ++ le16 next
  let offered := fun (s : State) (p : Port) (first : Fin 192) (group : List (Fin 192)) => ({ s with
    lines := tabulate fun j => if j ∈ group then { s.lines.get j with pending := none } else s.lines.get j
    ports := put s.ports (portIndex p) { s.port p with
      tx := (s.port p).tx ++ [⟨buildFrame 0x12 (s.lines.get first).address s.park.nodeAddress
        (byteOf group.length :: group.flatMap fun j =>
          match (s.lines.get j).pending with
          | some c => entry (s.lines.get j).line c
          | none => []), .board⟩] }
    counters := { s.counters with boardsQueued := min 65535 (s.counters.boardsQueued + 1) } } : State)
  let ended := fun (s : State) (p : Port) => ({ s with
    ports := put s.ports (portIndex p) { s.port p with boardRuns := (s.port p).boardRuns - 1 } } : State)
  (∀ (s : State) (p : Port) (first : Fin 192) (others : List (Fin 192)), s.resetHeld = false → s.linkUp p = true →
     0 < (s.port p).boardRuns → (s.port p).tx.length < 48 → waiting s p = first :: others →
     (∀ j ∈ others, (s.lines.get j).address = (s.lines.get first).address) → others.length ≤ 15 →
     exec (.boardFrameOffer p) s = .next (ended (offered s p first (first :: others)) p)) ∧
  (∀ (s : State) (p : Port) (first : Fin 192) (others : List (Fin 192)), s.resetHeld = false → s.linkUp p = true →
     0 < (s.port p).boardRuns → (s.port p).tx.length < 48 → waiting s p = first :: others →
     let board := fun j : Fin 192 => decide ((s.lines.get j).address = (s.lines.get first).address)
     exec (.boardFrameOffer p) s =
       exec (.boardFrameOffer p) (offered s p first (((first :: others).filter board).take 16))) ∧
  (∀ (s : State) (p : Port), s.resetHeld = false → s.linkUp p = true → 0 < (s.port p).boardRuns →
     (waiting s p = [] → exec (.boardFrameOffer p) s = .next (ended s p)) ∧
     (48 ≤ (s.port p).tx.length → waiting s p ≠ [] → exec (.boardFrameOffer p) s = .next { ended s p with
       counters := { s.counters with boardsRefused := min 65535 (s.counters.boardsRefused + 1) } }))

/-- The publish check publishes a lane exactly when its kind differs from the published one, its posted wait has moved by the change
threshold (1 at least) under WAIT or HELD, its next return differs, or the refresh counter has reached the refresh count; a lane
published gets the content and a refresh counter of 0, another only the grown refresh counter (R133, R135).

The kind is that of R130's table by day state, mode and stale flag; the next return is present for PASS_ONLY, and for WAIT on a RUN lane,
and is then the display minute of the window that a party of 1 would be issued into, or NONE (R131, R132).

A line carries the posted wait for WAIT and HELD and the next return for PASS_ONLY and WAIT (R131); its current content is that of its
lane's publish state, and OFF for an unused lane and while the day is SHUT (R129). -/
def Obligations.PublishCheckDecides : Prop :=
  (∀ (l : Lane) (dayOpen : Bool) (dayOffset n : Nat),
    let kind : DisplayKind :=
      if dayOpen = false ∨ l.config.ride = 0 then .off
      else match l.live.mode with
        | .closed => .closed
        | .down => .down
        | .passOnly => .passOnly
        | .run => if l.live.stale = true then .held else .wait
        | .standbyOnly => if l.live.stale = true then .held else .wait
    let next : NextReturn :=
      if kind = .passOnly ∨ (kind = .wait ∧ l.live.mode = .run) then
        match l.findWindow n 1 with
        | some w => .minute ((dayOffset / 60 + w.start) % 1440)
        | none => .noWindow
      else .absent
    let grown := min 60 (l.publish.refresh + 1)
    let due := kind ≠ l.publish.kind ∨
      ((kind = .wait ∨ kind = .held) ∧
        (l.live.posted + max l.config.changeThreshold 1 ≤ l.publish.lastPublished ∨
          l.publish.lastPublished + max l.config.changeThreshold 1 ≤ l.live.posted)) ∨
      next ≠ l.publish.next ∨ l.config.refreshCount ≤ grown
    (due → l.publishCheck dayOpen dayOffset n = ({ l with publish := ⟨kind, l.live.posted, next, 0⟩ }, true)) ∧
    (¬ due → l.publishCheck dayOpen dayOffset n = ({ l with publish := { l.publish with refresh := grown } }, false))) ∧
  (∀ (kind : DisplayKind) (posted : Nat) (next : NextReturn),
    contentOf kind posted next = ⟨kind, if kind = .wait ∨ kind = .held then some posted else none,
      if kind = .passOnly ∨ kind = .wait then next else .absent⟩) ∧
  (∀ (s : State) (b : BoardLine),
    let l := s.lane b.lane
    s.lineContent b = if s.clock.day = .shut ∨ l.config.ride = 0 then ⟨.off, none, .absent⟩
      else contentOf l.publish.kind l.publish.lastPublished l.publish.next)

/-! ## Start-up -/

/-- The probe: no identification ends the load ABSENT, a header that is not that of an image ends it BLANK, and an image header with
entries starts LOADING with the count as read, while one that counts none ends the load LOADED; header bytes that the flash does not
give read as 0xFF; a load that ends makes the loader READY and writes no table (R189, R193, R198).

One image entry that does not end the load is applied as a one-pair WRITE_TABLE: a refused entry leaves the tables and grows the
skip counter, an accepted one is written and grows the legalized counter when its value was legalized; the position moves on (R190,
R198, R199). Bytes that the flash does not give read as 0xFF, and so does every later byte of the load (R191, log entry 7).

The last entry that the header counts is applied and counted in the same way and ends the load: the loader is READY with the outcome
LOADED, and TP is UP (R190, R193).

An entry that would pass byte 65,535 is not read: the load ends TRUNCATED, IMAGE_FAULT is latched, the loader is READY and no
table is written (R191, R193).

At READY every enabled link is UP with its link-up notice: its enabled lines are pending with their current content, a run of offers is
owed to it, and its destination's last report is the current one (R112, R141, R166, R193). The offers of the load that are still owed
are refused and counted (R172, R193, log entry 11); a port whose link stays HELD is as it was, and its destination keeps its frame. -/
def Obligations.LoaderLoadsTheImage : Prop :=
  let up := fun t : State => t.loader.state = .ready ∧ t.linkUp .tp = true ∧
    ∀ p : Port, t.linkUp p = true → 0 < (t.port p).boardRuns ∧ (t.attnPort p).last = t.report p ∧
      ∀ j : Fin 192, (t.lines.get j).enable = true → (t.lines.get j).port = p →
        (t.lines.get j).pending = some (t.lineContent (t.lines.get j))
  let loaded := fun (u : State) (outcome : LoaderOutcome) (t : State) =>
    t = { u with
      loader := { u.loader with state := .ready, outcome := outcome }, lines := t.lines, ports := t.ports
      attn := { u.attn with ports := t.attn.ports }, counters := { u.counters with attnRefused := t.counters.attnRefused } } ∧
    u.PortsKept t ∧ (∀ p : Port, t.linkUp p = true → (t.port p).boardRuns = (u.port p).boardRuns + 1) ∧
    (∀ p : Port, t.linkUp p = u.portEnabled p) ∧
    (∀ j : Fin 192, t.lines.get j = if (u.lines.get j).enable = true ∧ t.linkUp (u.lines.get j).port = true then
      { u.lines.get j with pending := some (u.lineContent (u.lines.get j)) } else u.lines.get j) ∧
    ∀ p : Port, (t.linkUp p = false → t.port p = u.port p ∧ t.attnPort p = { u.attnPort p with offersDue := 0 }) ∧
      (t.linkUp p = true → (u.attnPort p).slot ≠ .queued →
        (t.attnPort p).slot = .prepared (t.attnFrame p (t.report p)) ∧ (t.attnPort p).offersDue = 1)
  let refused := fun u t : State =>
    let owed := ([Port.tp, .sp 0, .sp 1, .sp 2, .sp 3, .sp 4, .sp 5].map fun p =>
      match (u.attnPort p).slot with | .prepared _ => (u.attnPort p).offersDue | _ => 0).sum
    u.counters.attnRefused ≤ 65535 → t.counters.attnRefused = min 65535 (u.counters.attnRefused + owed)
  let applied := fun (s : State) (given : Nat) =>
    let byte := fun j : Nat => if s.loader.silent = false ∧ j < given then
      (s.flash.mem.read (8 + 6 * s.loader.position + j)).toNat else 255
    let silent := s.loader.silent || decide (given < 6)
    match s.writeTable (byte 0) (byte 1 + 256 * byte 2) [(byte 3, byte 4 + 256 * byte 5)] with
    | .refused _ _ =>
      { s with loader := { s.loader with
        position := s.loader.position + 1, skipped := s.loader.skipped + 1, silent := silent } }
    | .accepted t legalized =>
      { t with loader := { s.loader with
        position := s.loader.position + 1, silent := silent
        legalized := if legalized then s.loader.legalized + 1 else s.loader.legalized } }
  (∀ (s : State) (given : Nat), s.resetHeld = false → s.loader.state = .probing →
     let byte := fun j : Nat => if j < given then s.flash.mem.read j else 0xFF
     let image := byte 0 = 0xC7 ∧ byte 1 = 0x3A ∧ byte 2 = 1
     let count := (byte 3).toNat + 256 * (byte 4).toNat
     let ended := fun (header : Option Nat) (u : State) (outcome : LoaderOutcome) => ∃ t : State,
       exec (.loaderProbe header) s = .next t ∧ up t ∧ loaded u outcome t ∧ refused u t
     ended none s .absent ∧
     (¬ image → ended (some given) s .blank) ∧
     (image → count = 0 → ended (some given)
       { s with loader := { s.loader with position := 0, count := 0, silent := decide (given < 5) } } .loaded) ∧
     (image → count ≠ 0 → exec (.loaderProbe (some given)) s = .next { s with
       loader := { s.loader with state := .loading, position := 0, count := count, silent := decide (given < 5) } })) ∧
  (∀ (s : State) (given : Nat), s.resetHeld = false → s.loader.state = .loading →
     s.loader.position + 1 < s.loader.count → s.loader.position ≤ 10920 →
     exec (.loaderEntry given) s = .next (applied s given)) ∧
  (∀ (s : State) (given : Nat), s.resetHeld = false → s.loader.state = .loading → s.loader.position ≤ 10920 →
     s.loader.count ≤ s.loader.position + 1 →
     let u := applied s given
     ∃ t : State, exec (.loaderEntry given) s = .next t ∧ up t ∧ loaded u .loaded t ∧ refused u t ∧
       t.clock = s.clock ∧ t.register = s.register ∧ t.ring = s.ring ∧ t.flash = s.flash) ∧
  (∀ (s : State) (given : Nat), s.resetHeld = false → s.loader.state = .loading → 10921 ≤ s.loader.position →
     ∃ t : State, exec (.loaderEntry given) s = .next t ∧ up t ∧
       loaded { s with attn := { s.attn with imageFault := true } } .truncated t)
end

