-- ==== Sys2Proof/Laws/Word.lean ====
section
/-! SUPPORT. Tables of fixed length: what an entry of a built or changed table is. -/

namespace Sys2Proof

variable {α : Type} {n : Nat}

theorem get_eq_getElem (v : Vector α n) (i : Fin n) : v.get i = v[i.val] := rfl

@[simp] theorem get_tabulate (f : Fin n → α) (i : Fin n) : (tabulate f).get i = f i := by
  simp [get_eq_getElem, tabulate]

@[simp] theorem get_put_same (v : Vector α n) (i : Fin n) (a : α) : (put v i a).get i = a := by
  simp [get_eq_getElem, put]

theorem get_put_other (v : Vector α n) {i j : Fin n} (a : α) (h : j ≠ i) : (put v i a).get j = v.get j := by
  have hv : i.val ≠ j.val := fun e => h (Fin.ext e.symm)
  simp [get_eq_getElem, put, hv]

theorem get_put (v : Vector α n) (i j : Fin n) (a : α) : (put v i a).get j = if j = i then a else v.get j := by
  by_cases h : j = i
  · subst h; simp
  · simp [h, get_put_other]

@[simp] theorem get_replicate (a : α) (i : Fin n) : (Vector.replicate n a).get i = a := by
  simp [get_eq_getElem]

@[simp] theorem get_adjust_same (v : Vector α n) (i : Fin n) (f : α → α) : (adjust v i f).get i = f (v.get i) := by
  simp [adjust]

theorem get_adjust_other (v : Vector α n) {i j : Fin n} (f : α → α) (h : j ≠ i) : (adjust v i f).get j = v.get j :=
  get_put_other v _ h

/-- Two tables with the same entries are the same table. -/
theorem table_ext {v w : Vector α n} (h : ∀ i : Fin n, v.get i = w.get i) : v = w :=
  Vector.ext fun i hi => h ⟨i, hi⟩

@[simp] theorem put_get_self (v : Vector α n) (i : Fin n) : put v i (v.get i) = v :=
  table_ext fun j => by rw [get_put]; split <;> simp_all

theorem satAdd_le_top (top a b : Nat) : satAdd top a b ≤ top := Nat.min_le_left _ _

theorem clamp_mem {low high : Nat} (h : low ≤ high) (v : Nat) : low ≤ clamp low high v ∧ clamp low high v ≤ high := by
  unfold clamp; omega

end Sys2Proof
end

