-- ==== Sys2Proof/Laws/State.lean ====
section
/-! SUPPORT. The updates of the state: one lemma per field and update, and what the changed entry is. -/

namespace Sys2Proof.Machine

/-! ### `State.setLane` -/

@[simp] theorem setLane_resetHeld (s : State) (i : Fin 64) (l : Lane) : (s.setLane i l).resetHeld = s.resetHeld := rfl
@[simp] theorem setLane_clock (s : State) (i : Fin 64) (l : Lane) : (s.setLane i l).clock = s.clock := rfl
@[simp] theorem setLane_park (s : State) (i : Fin 64) (l : Lane) : (s.setLane i l).park = s.park := rfl
@[simp] theorem setLane_rules (s : State) (i : Fin 64) (l : Lane) : (s.setLane i l).rules = s.rules := rfl
@[simp] theorem setLane_segments (s : State) (i : Fin 64) (l : Lane) : (s.setLane i l).segments = s.segments := rfl
@[simp] theorem setLane_lines (s : State) (i : Fin 64) (l : Lane) : (s.setLane i l).lines = s.lines := rfl
@[simp] theorem setLane_ring (s : State) (i : Fin 64) (l : Lane) : (s.setLane i l).ring = s.ring := rfl
@[simp] theorem setLane_register (s : State) (i : Fin 64) (l : Lane) : (s.setLane i l).register = s.register := rfl
@[simp] theorem setLane_ports (s : State) (i : Fin 64) (l : Lane) : (s.setLane i l).ports = s.ports := rfl
@[simp] theorem setLane_counters (s : State) (i : Fin 64) (l : Lane) : (s.setLane i l).counters = s.counters := rfl
@[simp] theorem setLane_attn (s : State) (i : Fin 64) (l : Lane) : (s.setLane i l).attn = s.attn := rfl
@[simp] theorem setLane_agent (s : State) (i : Fin 64) (l : Lane) : (s.setLane i l).agent = s.agent := rfl
@[simp] theorem setLane_flash (s : State) (i : Fin 64) (l : Lane) : (s.setLane i l).flash = s.flash := rfl
@[simp] theorem setLane_loader (s : State) (i : Fin 64) (l : Lane) : (s.setLane i l).loader = s.loader := rfl
@[simp] theorem setLane_handed (s : State) (i : Fin 64) (l : Lane) : (s.setLane i l).handed = s.handed := rfl
@[simp] theorem setLane_engineResetDue (s : State) (i : Fin 64) (l : Lane) : (s.setLane i l).engineResetDue = s.engineResetDue := rfl
@[simp] theorem setLane_segmentResetsDue (s : State) (i : Fin 64) (l : Lane) : (s.setLane i l).segmentResetsDue = s.segmentResetsDue := rfl
@[simp] theorem setLane_freeDraws (s : State) (i : Fin 64) (l : Lane) : (s.setLane i l).freeDraws = s.freeDraws := rfl
@[simp] theorem setLane_pending (s : State) (i : Fin 64) (l : Lane) : (s.setLane i l).pending = s.pending := rfl

/-! ### `State.setLanes` -/

@[simp] theorem setLanes_resetHeld (s : State) (f : Fin 64 → Lane) : (s.setLanes f).resetHeld = s.resetHeld := rfl
@[simp] theorem setLanes_clock (s : State) (f : Fin 64 → Lane) : (s.setLanes f).clock = s.clock := rfl
@[simp] theorem setLanes_park (s : State) (f : Fin 64 → Lane) : (s.setLanes f).park = s.park := rfl
@[simp] theorem setLanes_rules (s : State) (f : Fin 64 → Lane) : (s.setLanes f).rules = s.rules := rfl
@[simp] theorem setLanes_segments (s : State) (f : Fin 64 → Lane) : (s.setLanes f).segments = s.segments := rfl
@[simp] theorem setLanes_lines (s : State) (f : Fin 64 → Lane) : (s.setLanes f).lines = s.lines := rfl
@[simp] theorem setLanes_ring (s : State) (f : Fin 64 → Lane) : (s.setLanes f).ring = s.ring := rfl
@[simp] theorem setLanes_register (s : State) (f : Fin 64 → Lane) : (s.setLanes f).register = s.register := rfl
@[simp] theorem setLanes_ports (s : State) (f : Fin 64 → Lane) : (s.setLanes f).ports = s.ports := rfl
@[simp] theorem setLanes_counters (s : State) (f : Fin 64 → Lane) : (s.setLanes f).counters = s.counters := rfl
@[simp] theorem setLanes_attn (s : State) (f : Fin 64 → Lane) : (s.setLanes f).attn = s.attn := rfl
@[simp] theorem setLanes_agent (s : State) (f : Fin 64 → Lane) : (s.setLanes f).agent = s.agent := rfl
@[simp] theorem setLanes_flash (s : State) (f : Fin 64 → Lane) : (s.setLanes f).flash = s.flash := rfl
@[simp] theorem setLanes_loader (s : State) (f : Fin 64 → Lane) : (s.setLanes f).loader = s.loader := rfl
@[simp] theorem setLanes_handed (s : State) (f : Fin 64 → Lane) : (s.setLanes f).handed = s.handed := rfl
@[simp] theorem setLanes_engineResetDue (s : State) (f : Fin 64 → Lane) : (s.setLanes f).engineResetDue = s.engineResetDue := rfl
@[simp] theorem setLanes_segmentResetsDue (s : State) (f : Fin 64 → Lane) : (s.setLanes f).segmentResetsDue = s.segmentResetsDue := rfl
@[simp] theorem setLanes_freeDraws (s : State) (f : Fin 64 → Lane) : (s.setLanes f).freeDraws = s.freeDraws := rfl
@[simp] theorem setLanes_pending (s : State) (f : Fin 64 → Lane) : (s.setLanes f).pending = s.pending := rfl

/-! ### `State.setSegment` -/

@[simp] theorem setSegment_resetHeld (s : State) (k : Fin 6) (g : Segment) : (s.setSegment k g).resetHeld = s.resetHeld := rfl
@[simp] theorem setSegment_clock (s : State) (k : Fin 6) (g : Segment) : (s.setSegment k g).clock = s.clock := rfl
@[simp] theorem setSegment_park (s : State) (k : Fin 6) (g : Segment) : (s.setSegment k g).park = s.park := rfl
@[simp] theorem setSegment_lanes (s : State) (k : Fin 6) (g : Segment) : (s.setSegment k g).lanes = s.lanes := rfl
@[simp] theorem setSegment_rules (s : State) (k : Fin 6) (g : Segment) : (s.setSegment k g).rules = s.rules := rfl
@[simp] theorem setSegment_lines (s : State) (k : Fin 6) (g : Segment) : (s.setSegment k g).lines = s.lines := rfl
@[simp] theorem setSegment_ring (s : State) (k : Fin 6) (g : Segment) : (s.setSegment k g).ring = s.ring := rfl
@[simp] theorem setSegment_register (s : State) (k : Fin 6) (g : Segment) : (s.setSegment k g).register = s.register := rfl
@[simp] theorem setSegment_ports (s : State) (k : Fin 6) (g : Segment) : (s.setSegment k g).ports = s.ports := rfl
@[simp] theorem setSegment_counters (s : State) (k : Fin 6) (g : Segment) : (s.setSegment k g).counters = s.counters := rfl
@[simp] theorem setSegment_attn (s : State) (k : Fin 6) (g : Segment) : (s.setSegment k g).attn = s.attn := rfl
@[simp] theorem setSegment_agent (s : State) (k : Fin 6) (g : Segment) : (s.setSegment k g).agent = s.agent := rfl
@[simp] theorem setSegment_flash (s : State) (k : Fin 6) (g : Segment) : (s.setSegment k g).flash = s.flash := rfl
@[simp] theorem setSegment_loader (s : State) (k : Fin 6) (g : Segment) : (s.setSegment k g).loader = s.loader := rfl
@[simp] theorem setSegment_handed (s : State) (k : Fin 6) (g : Segment) : (s.setSegment k g).handed = s.handed := rfl
@[simp] theorem setSegment_engineResetDue (s : State) (k : Fin 6) (g : Segment) : (s.setSegment k g).engineResetDue = s.engineResetDue := rfl
@[simp] theorem setSegment_segmentResetsDue (s : State) (k : Fin 6) (g : Segment) : (s.setSegment k g).segmentResetsDue = s.segmentResetsDue := rfl
@[simp] theorem setSegment_freeDraws (s : State) (k : Fin 6) (g : Segment) : (s.setSegment k g).freeDraws = s.freeDraws := rfl
@[simp] theorem setSegment_pending (s : State) (k : Fin 6) (g : Segment) : (s.setSegment k g).pending = s.pending := rfl

/-! ### `State.setPort` -/

@[simp] theorem setPort_resetHeld (s : State) (p : Port) (q : PortState) : (s.setPort p q).resetHeld = s.resetHeld := rfl
@[simp] theorem setPort_clock (s : State) (p : Port) (q : PortState) : (s.setPort p q).clock = s.clock := rfl
@[simp] theorem setPort_park (s : State) (p : Port) (q : PortState) : (s.setPort p q).park = s.park := rfl
@[simp] theorem setPort_lanes (s : State) (p : Port) (q : PortState) : (s.setPort p q).lanes = s.lanes := rfl
@[simp] theorem setPort_rules (s : State) (p : Port) (q : PortState) : (s.setPort p q).rules = s.rules := rfl
@[simp] theorem setPort_segments (s : State) (p : Port) (q : PortState) : (s.setPort p q).segments = s.segments := rfl
@[simp] theorem setPort_lines (s : State) (p : Port) (q : PortState) : (s.setPort p q).lines = s.lines := rfl
@[simp] theorem setPort_ring (s : State) (p : Port) (q : PortState) : (s.setPort p q).ring = s.ring := rfl
@[simp] theorem setPort_register (s : State) (p : Port) (q : PortState) : (s.setPort p q).register = s.register := rfl
@[simp] theorem setPort_counters (s : State) (p : Port) (q : PortState) : (s.setPort p q).counters = s.counters := rfl
@[simp] theorem setPort_attn (s : State) (p : Port) (q : PortState) : (s.setPort p q).attn = s.attn := rfl
@[simp] theorem setPort_agent (s : State) (p : Port) (q : PortState) : (s.setPort p q).agent = s.agent := rfl
@[simp] theorem setPort_flash (s : State) (p : Port) (q : PortState) : (s.setPort p q).flash = s.flash := rfl
@[simp] theorem setPort_loader (s : State) (p : Port) (q : PortState) : (s.setPort p q).loader = s.loader := rfl
@[simp] theorem setPort_handed (s : State) (p : Port) (q : PortState) : (s.setPort p q).handed = s.handed := rfl
@[simp] theorem setPort_engineResetDue (s : State) (p : Port) (q : PortState) : (s.setPort p q).engineResetDue = s.engineResetDue := rfl
@[simp] theorem setPort_segmentResetsDue (s : State) (p : Port) (q : PortState) : (s.setPort p q).segmentResetsDue = s.segmentResetsDue := rfl
@[simp] theorem setPort_freeDraws (s : State) (p : Port) (q : PortState) : (s.setPort p q).freeDraws = s.freeDraws := rfl
@[simp] theorem setPort_pending (s : State) (p : Port) (q : PortState) : (s.setPort p q).pending = s.pending := rfl

/-! ### `State.setAttnPort` -/

@[simp] theorem setAttnPort_resetHeld (s : State) (d : Port) (a : AttnPort) : (s.setAttnPort d a).resetHeld = s.resetHeld := rfl
@[simp] theorem setAttnPort_clock (s : State) (d : Port) (a : AttnPort) : (s.setAttnPort d a).clock = s.clock := rfl
@[simp] theorem setAttnPort_park (s : State) (d : Port) (a : AttnPort) : (s.setAttnPort d a).park = s.park := rfl
@[simp] theorem setAttnPort_lanes (s : State) (d : Port) (a : AttnPort) : (s.setAttnPort d a).lanes = s.lanes := rfl
@[simp] theorem setAttnPort_rules (s : State) (d : Port) (a : AttnPort) : (s.setAttnPort d a).rules = s.rules := rfl
@[simp] theorem setAttnPort_segments (s : State) (d : Port) (a : AttnPort) : (s.setAttnPort d a).segments = s.segments := rfl
@[simp] theorem setAttnPort_lines (s : State) (d : Port) (a : AttnPort) : (s.setAttnPort d a).lines = s.lines := rfl
@[simp] theorem setAttnPort_ring (s : State) (d : Port) (a : AttnPort) : (s.setAttnPort d a).ring = s.ring := rfl
@[simp] theorem setAttnPort_register (s : State) (d : Port) (a : AttnPort) : (s.setAttnPort d a).register = s.register := rfl
@[simp] theorem setAttnPort_ports (s : State) (d : Port) (a : AttnPort) : (s.setAttnPort d a).ports = s.ports := rfl
@[simp] theorem setAttnPort_counters (s : State) (d : Port) (a : AttnPort) : (s.setAttnPort d a).counters = s.counters := rfl
@[simp] theorem setAttnPort_agent (s : State) (d : Port) (a : AttnPort) : (s.setAttnPort d a).agent = s.agent := rfl
@[simp] theorem setAttnPort_flash (s : State) (d : Port) (a : AttnPort) : (s.setAttnPort d a).flash = s.flash := rfl
@[simp] theorem setAttnPort_loader (s : State) (d : Port) (a : AttnPort) : (s.setAttnPort d a).loader = s.loader := rfl
@[simp] theorem setAttnPort_handed (s : State) (d : Port) (a : AttnPort) : (s.setAttnPort d a).handed = s.handed := rfl
@[simp] theorem setAttnPort_engineResetDue (s : State) (d : Port) (a : AttnPort) : (s.setAttnPort d a).engineResetDue = s.engineResetDue := rfl
@[simp] theorem setAttnPort_segmentResetsDue (s : State) (d : Port) (a : AttnPort) : (s.setAttnPort d a).segmentResetsDue = s.segmentResetsDue := rfl
@[simp] theorem setAttnPort_freeDraws (s : State) (d : Port) (a : AttnPort) : (s.setAttnPort d a).freeDraws = s.freeDraws := rfl
@[simp] theorem setAttnPort_pending (s : State) (d : Port) (a : AttnPort) : (s.setAttnPort d a).pending = s.pending := rfl

/-! ### `State.count` -/

@[simp] theorem count_resetHeld (s : State) (f : Counters → Counters) : (s.count f).resetHeld = s.resetHeld := rfl
@[simp] theorem count_clock (s : State) (f : Counters → Counters) : (s.count f).clock = s.clock := rfl
@[simp] theorem count_park (s : State) (f : Counters → Counters) : (s.count f).park = s.park := rfl
@[simp] theorem count_lanes (s : State) (f : Counters → Counters) : (s.count f).lanes = s.lanes := rfl
@[simp] theorem count_rules (s : State) (f : Counters → Counters) : (s.count f).rules = s.rules := rfl
@[simp] theorem count_segments (s : State) (f : Counters → Counters) : (s.count f).segments = s.segments := rfl
@[simp] theorem count_lines (s : State) (f : Counters → Counters) : (s.count f).lines = s.lines := rfl
@[simp] theorem count_ring (s : State) (f : Counters → Counters) : (s.count f).ring = s.ring := rfl
@[simp] theorem count_register (s : State) (f : Counters → Counters) : (s.count f).register = s.register := rfl
@[simp] theorem count_ports (s : State) (f : Counters → Counters) : (s.count f).ports = s.ports := rfl
@[simp] theorem count_attn (s : State) (f : Counters → Counters) : (s.count f).attn = s.attn := rfl
@[simp] theorem count_agent (s : State) (f : Counters → Counters) : (s.count f).agent = s.agent := rfl
@[simp] theorem count_flash (s : State) (f : Counters → Counters) : (s.count f).flash = s.flash := rfl
@[simp] theorem count_loader (s : State) (f : Counters → Counters) : (s.count f).loader = s.loader := rfl
@[simp] theorem count_handed (s : State) (f : Counters → Counters) : (s.count f).handed = s.handed := rfl
@[simp] theorem count_engineResetDue (s : State) (f : Counters → Counters) : (s.count f).engineResetDue = s.engineResetDue := rfl
@[simp] theorem count_segmentResetsDue (s : State) (f : Counters → Counters) : (s.count f).segmentResetsDue = s.segmentResetsDue := rfl
@[simp] theorem count_freeDraws (s : State) (f : Counters → Counters) : (s.count f).freeDraws = s.freeDraws := rfl
@[simp] theorem count_pending (s : State) (f : Counters → Counters) : (s.count f).pending = s.pending := rfl

/-! ### The entries that the updates change -/

theorem portIndex_injective {p q : Port} (h : portIndex p = portIndex q) : p = q := by
  cases p with
  | tp => cases q with
    | tp => rfl
    | sp k => simp [portIndex, Fin.ext_iff] at h; omega
  | sp k => cases q with
    | tp => simp [portIndex, Fin.ext_iff] at h; omega
    | sp j => simp [portIndex, Fin.ext_iff] at h; simp [Fin.ext_iff, h]

@[simp] theorem setLane_lane_same (s : State) (i : Fin 64) (l : Lane) : (s.setLane i l).lane i = l := by
  simp [State.lane, State.setLane]

theorem setLane_lane_other (s : State) {i j : Fin 64} (l : Lane) (h : j ≠ i) : (s.setLane i l).lane j = s.lane j := by
  simp [State.lane, State.setLane, get_put_other _ _ h]

theorem setLane_lane (s : State) (i j : Fin 64) (l : Lane) : (s.setLane i l).lane j = if j = i then l else s.lane j := by
  simp [State.lane, State.setLane, get_put]

@[simp] theorem setLanes_lane (s : State) (f : Fin 64 → Lane) (i : Fin 64) : (s.setLanes f).lane i = f i := by
  simp [State.lane, State.setLanes]

@[simp] theorem setSegment_segment_same (s : State) (k : Fin 6) (g : Segment) : (s.setSegment k g).segment k = g := by
  simp [State.segment, State.setSegment]

theorem setSegment_segment_other (s : State) {k j : Fin 6} (g : Segment) (h : j ≠ k) :
    (s.setSegment k g).segment j = s.segment j := by
  simp [State.segment, State.setSegment, get_put_other _ _ h]

@[simp] theorem setPort_port_same (s : State) (p : Port) (q : PortState) : (s.setPort p q).port p = q := by
  simp [State.port, State.setPort]

theorem setPort_port_other (s : State) {p r : Port} (q : PortState) (h : r ≠ p) : (s.setPort p q).port r = s.port r := by
  simp [State.port, State.setPort, get_put_other _ _ fun e => h (portIndex_injective e)]

@[simp] theorem setAttnPort_attnPort_same (s : State) (d : Port) (a : AttnPort) : (s.setAttnPort d a).attnPort d = a := by
  simp [State.attnPort, State.setAttnPort]

theorem setAttnPort_attnPort_other (s : State) {d e : Port} (a : AttnPort) (h : e ≠ d) :
    (s.setAttnPort d a).attnPort e = s.attnPort e := by
  simp [State.attnPort, State.setAttnPort, get_put_other _ _ fun x => h (portIndex_injective x)]

@[simp] theorem count_counters (s : State) (f : Counters → Counters) : (s.count f).counters = f s.counters := rfl

/-! ### What the readers of the state look at -/

@[simp] theorem setSegment_lane (s : State) (k : Fin 6) (g : Segment) (x : Fin 64) : (s.setSegment k g).lane x = s.lane x := rfl
@[simp] theorem setPort_lane (s : State) (p : Port) (q : PortState) (x : Fin 64) : (s.setPort p q).lane x = s.lane x := rfl
@[simp] theorem setAttnPort_lane (s : State) (d : Port) (a : AttnPort) (x : Fin 64) : (s.setAttnPort d a).lane x = s.lane x := rfl
@[simp] theorem count_lane (s : State) (f : Counters → Counters) (x : Fin 64) : (s.count f).lane x = s.lane x := rfl
@[simp] theorem setLane_segment (s : State) (i : Fin 64) (l : Lane) (x : Fin 6) : (s.setLane i l).segment x = s.segment x := rfl
@[simp] theorem setLanes_segment (s : State) (f : Fin 64 → Lane) (x : Fin 6) : (s.setLanes f).segment x = s.segment x := rfl
@[simp] theorem setPort_segment (s : State) (p : Port) (q : PortState) (x : Fin 6) : (s.setPort p q).segment x = s.segment x := rfl
@[simp] theorem setAttnPort_segment (s : State) (d : Port) (a : AttnPort) (x : Fin 6) : (s.setAttnPort d a).segment x = s.segment x := rfl
@[simp] theorem count_segment (s : State) (f : Counters → Counters) (x : Fin 6) : (s.count f).segment x = s.segment x := rfl
@[simp] theorem setLane_port (s : State) (i : Fin 64) (l : Lane) (x : Port) : (s.setLane i l).port x = s.port x := rfl
@[simp] theorem setLanes_port (s : State) (f : Fin 64 → Lane) (x : Port) : (s.setLanes f).port x = s.port x := rfl
@[simp] theorem setSegment_port (s : State) (k : Fin 6) (g : Segment) (x : Port) : (s.setSegment k g).port x = s.port x := rfl
@[simp] theorem setAttnPort_port (s : State) (d : Port) (a : AttnPort) (x : Port) : (s.setAttnPort d a).port x = s.port x := rfl
@[simp] theorem count_port (s : State) (f : Counters → Counters) (x : Port) : (s.count f).port x = s.port x := rfl
@[simp] theorem setLane_attnPort (s : State) (i : Fin 64) (l : Lane) (x : Port) : (s.setLane i l).attnPort x = s.attnPort x := rfl
@[simp] theorem setLanes_attnPort (s : State) (f : Fin 64 → Lane) (x : Port) : (s.setLanes f).attnPort x = s.attnPort x := rfl
@[simp] theorem setSegment_attnPort (s : State) (k : Fin 6) (g : Segment) (x : Port) : (s.setSegment k g).attnPort x = s.attnPort x := rfl
@[simp] theorem setPort_attnPort (s : State) (p : Port) (q : PortState) (x : Port) : (s.setPort p q).attnPort x = s.attnPort x := rfl
@[simp] theorem count_attnPort (s : State) (f : Counters → Counters) (x : Port) : (s.count f).attnPort x = s.attnPort x := rfl
@[simp] theorem setLane_minute (s : State) (i : Fin 64) (l : Lane) : (s.setLane i l).minute = s.minute := rfl
@[simp] theorem setLanes_minute (s : State) (f : Fin 64 → Lane) : (s.setLanes f).minute = s.minute := rfl
@[simp] theorem setSegment_minute (s : State) (k : Fin 6) (g : Segment) : (s.setSegment k g).minute = s.minute := rfl
@[simp] theorem setPort_minute (s : State) (p : Port) (q : PortState) : (s.setPort p q).minute = s.minute := rfl
@[simp] theorem setAttnPort_minute (s : State) (d : Port) (a : AttnPort) : (s.setAttnPort d a).minute = s.minute := rfl
@[simp] theorem count_minute (s : State) (f : Counters → Counters) : (s.count f).minute = s.minute := rfl
@[simp] theorem setLane_dayOpen (s : State) (i : Fin 64) (l : Lane) : (s.setLane i l).dayOpen = s.dayOpen := rfl
@[simp] theorem setLanes_dayOpen (s : State) (f : Fin 64 → Lane) : (s.setLanes f).dayOpen = s.dayOpen := rfl
@[simp] theorem setSegment_dayOpen (s : State) (k : Fin 6) (g : Segment) : (s.setSegment k g).dayOpen = s.dayOpen := rfl
@[simp] theorem setPort_dayOpen (s : State) (p : Port) (q : PortState) : (s.setPort p q).dayOpen = s.dayOpen := rfl
@[simp] theorem setAttnPort_dayOpen (s : State) (d : Port) (a : AttnPort) : (s.setAttnPort d a).dayOpen = s.dayOpen := rfl
@[simp] theorem count_dayOpen (s : State) (f : Counters → Counters) : (s.count f).dayOpen = s.dayOpen := rfl
@[simp] theorem setLane_inService (s : State) (i : Fin 64) (l : Lane) : (s.setLane i l).inService = s.inService := rfl
@[simp] theorem setLanes_inService (s : State) (f : Fin 64 → Lane) : (s.setLanes f).inService = s.inService := rfl
@[simp] theorem setSegment_inService (s : State) (k : Fin 6) (g : Segment) : (s.setSegment k g).inService = s.inService := rfl
@[simp] theorem setPort_inService (s : State) (p : Port) (q : PortState) : (s.setPort p q).inService = s.inService := rfl
@[simp] theorem setAttnPort_inService (s : State) (d : Port) (a : AttnPort) : (s.setAttnPort d a).inService = s.inService := rfl
@[simp] theorem count_inService (s : State) (f : Counters → Counters) : (s.count f).inService = s.inService := rfl

@[simp] theorem setLane_linkUp (s : State) (i : Fin 64) (l : Lane) (x : Port) : (s.setLane i l).linkUp x = s.linkUp x := by
  cases x <;> rfl
@[simp] theorem setLanes_linkUp (s : State) (f : Fin 64 → Lane) (x : Port) : (s.setLanes f).linkUp x = s.linkUp x := by
  cases x <;> rfl
@[simp] theorem setPort_linkUp (s : State) (p : Port) (q : PortState) (x : Port) : (s.setPort p q).linkUp x = s.linkUp x := by
  cases x <;> rfl
@[simp] theorem setAttnPort_linkUp (s : State) (d : Port) (a : AttnPort) (x : Port) : (s.setAttnPort d a).linkUp x = s.linkUp x := by
  cases x <;> rfl
@[simp] theorem count_linkUp (s : State) (f : Counters → Counters) (x : Port) : (s.count f).linkUp x = s.linkUp x := by
  cases x <;> rfl

end Sys2Proof.Machine
end

