-- ==== Sys2Proof/Laws/Commands.lean ====
section
/-! SUPPORT. How a command runs: what the shared wrappers of a meaning answer, in the surroundings in which they let it act and
in those in which they do not. -/

namespace Sys2Proof.Machine

/-! ## Surroundings -/

theorem State.Serving.inService {s : State} (h : s.Serving) : s.inService = true := by
  simp [State.inService, h.1, h.2]

theorem State.Serving.linkUp_trunk {s : State} (h : s.Serving) : s.linkUp .tp = true := by
  simp [State.linkUp, h.inService, State.portEnabled]

theorem State.inService_iff {s : State} : s.inService = true ↔ s.Serving := by
  simp [State.inService, State.Serving]

theorem State.TakesRequest.serving {s : State} {req : MgmtRequest} (h : s.TakesRequest req) : s.Serving := h.1

theorem State.takesRequest_iff {s : State} {req : MgmtRequest} : s.takesRequest req = true ↔
    s.Serving ∧ s.agent.mode = .idle ∧ (s.agent.request = none ∨ s.agent.request = some req) := by
  simp [State.takesRequest, State.linkUp, State.portEnabled, State.inService_iff, and_assoc]

theorem State.dayOpen_eq_true {s : State} : s.dayOpen = true ↔ s.clock.day = .opened := by
  simp [State.dayOpen]

theorem State.dayOpen_eq_false {s : State} : s.dayOpen = false ↔ s.clock.day = .shut := by
  cases h : s.clock.day <;> simp [State.dayOpen, h]

theorem Lane.inUse_eq_true {l : Lane} : l.inUse = true ↔ l.config.ride ≠ 0 := by simp [Lane.inUse]

theorem Lane.inUse_eq_false {l : Lane} : l.inUse = false ↔ l.config.ride = 0 := by simp [Lane.inUse]

/-! ## The wrappers -/

/-- With the reset input released the command's effect is all there is. -/
theorem whileReleased_released {s : State} (h : s.resetHeld = false) (f : State → State) : whileReleased s f = .next (f s) := by
  simp [whileReleased, h]

/-- With the reset input asserted nothing happens (R187). -/
theorem whileReleased_held {s : State} (h : s.resetHeld = true) (f : State → State) : whileReleased s f = .next s := by
  simp [whileReleased, h]

/-- A lane action in service takes effect, its hand-off gone from the list. -/
theorem takeAction_serving {s : State} (h : s.Serving) (a : ScanAction) (f : State → State) :
    takeAction a s f = .next (f (s.atAction a)) := by
  rw [takeAction, whileReleased_released h.1, if_pos h.inService]; rfl

/-- A lane action out of service changes nothing. -/
theorem takeAction_not_serving {s : State} (h : ¬ s.Serving) (a : ScanAction) (f : State → State) :
    takeAction a s f = .next s := by
  rw [takeAction, whileReleased, if_neg (mt State.inService_iff.mp h), ite_self]

/-- A request that the agent can take is carried out and its reply offered. -/
theorem takeRequest_takes {s : State} {req : MgmtRequest} (h : s.TakesRequest req) (f : State → Carried) :
    takeRequest req s f =
      .next ((f s.atRequest).state.reply req (f s.atRequest).status (f s.atRequest).content (f s.atRequest).engine) := by
  rw [takeRequest, whileReleased_released h.1.1, if_pos (State.takesRequest_iff.mpr h)]; rfl

/-- A request that the agent cannot take waits outside it. -/
theorem takeRequest_waits {s : State} {req : MgmtRequest} (h : ¬ s.TakesRequest req) (f : State → Carried) :
    takeRequest req s f = .next s := by
  rw [takeRequest, whileReleased, if_neg (mt State.takesRequest_iff.mp h), ite_self]

/-- Whatever a wrapped effect keeps, the command keeps. -/
theorem whileReleased_keeps {s t : State} {f : State → State} {P : State → Prop} (h : whileReleased s f = .next t) (hs : P s)
    (hf : s.resetHeld = false → P (f s)) : P t := by
  unfold whileReleased at h
  split at h
  · cases h; exact hs
  · cases h; exact hf (by simp_all)

/-- Whatever a lane action's effect keeps, and the hand-off's removal with it, the command keeps. -/
theorem takeAction_keeps {s t : State} {a : ScanAction} {f : State → State} {P : State → Prop}
    (h : takeAction a s f = .next t) (hs : P s) (hf : s.Serving → P (f (s.atAction a))) : P t := by
  by_cases hv : s.Serving
  · rw [takeAction_serving hv] at h; cases h; exact hf hv
  · rw [takeAction_not_serving hv] at h; cases h; exact hs

/-- Whatever carrying out a request and replying keep, the command keeps. -/
theorem takeRequest_keeps {s t : State} {req : MgmtRequest} {f : State → Carried} {P : State → Prop}
    (h : takeRequest req s f = .next t) (hs : P s)
    (hf : s.TakesRequest req →
      P ((f s.atRequest).state.reply req (f s.atRequest).status (f s.atRequest).content (f s.atRequest).engine)) : P t := by
  by_cases hv : s.TakesRequest req
  · rw [takeRequest_takes hv] at h; cases h; exact hf hv
  · rw [takeRequest_waits hv] at h; cases h; exact hs

/-! ## Reading a request's arguments -/

theorem fieldAt_byte (bs : List Byte) (p : Nat) : fieldAt bs p 1 = (bs[p]?.getD 0).toNat := by
  unfold fieldAt
  rcases h : bs.drop p with _ | ⟨b, rest⟩
  · have : bs[p]? = none := by simpa using List.drop_eq_nil_iff.mp h
    simp [this, fromLe]
  · have : bs[p]? = some b := by
      have := congrArg List.head? h
      simpa [List.head?_drop] using this
    simp [this, fromLe]

theorem byteOf_toNat (n : Nat) : (byteOf n).toNat = n % 256 := by simp [byteOf]

theorem byteOf_toNat_of_lt {n : Nat} (h : n < 256) : (byteOf n).toNat = n := by rw [byteOf_toNat]; omega

theorem byteOf_val (b : Byte) : byteOf b.toNat = b := by simp [byteOf]

theorem fromLe_le16 {n : Nat} (h : n < 65536) : fromLe (le16 n) = n := by
  simp only [le16, fromLe, byteOf_toNat]; omega

theorem fromLe_le32 {n : Nat} (h : n < 4294967296) : fromLe (le32 n) = n := by
  simp only [le32, fromLe, byteOf_toNat]; omega

/-- What `withLength` carries out, by the payload's length (R175). -/
theorem withLength_eq {args : List Byte} {n : Nat} (h : args.length = n) (s : State) (bad : List Byte) (f : Unit → Carried) :
    withLength args n s bad f = f () := if_pos h

theorem withLength_ne {args : List Byte} {n : Nat} (h : args.length ≠ n) (s : State) (bad : List Byte) (f : Unit → Carried) :
    withLength args n s bad f = refuse s .badRequest bad := if_neg h

end Sys2Proof.Machine
end

