-- ==== Sys2Proof/Laws/Frames.lean ====
section
/-! SUPPORT. What each shared operation leaves unchanged: one equation per operation, and its field lemmas. -/

namespace Sys2Proof.Machine

/-! ## The equations: an operation changes at most the fields named -/

theorem State.produceQuietly_frame (s : State) (d : Port) :
    s.produceQuietly d =
      { s with ports := (s.produceQuietly d).ports, attn := { s.attn with ports := (s.produceQuietly d).attn.ports } } := by
  unfold State.produceQuietly
  dsimp only
  split <;> rfl

theorem State.oweOffer_frame (s : State) (d : Port) :
    s.oweOffer d = { s with attn := { s.attn with ports := (s.oweOffer d).attn.ports } } := by
  unfold State.oweOffer
  split <;> rfl

theorem State.produce_frame (s : State) (d : Port) :
    s.produce d = { s with ports := (s.produce d).ports, attn := { s.attn with ports := (s.produce d).attn.ports } } := by
  unfold State.produce
  split
  · dsimp only
    split
    · rw [State.oweOffer_frame, State.produceQuietly_frame]
    · exact State.produceQuietly_frame s d
  · exact State.produceQuietly_frame s d

theorem State.evaluate_frame (s : State) (d : Port) :
    s.evaluate d = { s with ports := (s.evaluate d).ports, attn := { s.attn with ports := (s.evaluate d).attn.ports } } := by
  unfold State.evaluate
  split
  · rfl
  · exact State.produce_frame s d

theorem State.evaluateEach_frame (s : State) (ds : List Port) :
    s.evaluateEach ds =
      { s with ports := (s.evaluateEach ds).ports, attn := { s.attn with ports := (s.evaluateEach ds).attn.ports } } := by
  induction ds generalizing s with
  | nil => rfl
  | cons d ds ih =>
    have h : s.evaluateEach (d :: ds) = (s.evaluate d).evaluateEach ds := rfl
    rw [h, ih, State.evaluate_frame]

theorem State.requeueSlot_frame (s : State) (d : Port) :
    s.requeueSlot d =
      { s with ports := (s.requeueSlot d).ports, attn := { s.attn with ports := (s.requeueSlot d).attn.ports } } := by
  unfold State.requeueSlot
  split
  · rw [State.produceQuietly_frame]; rfl
  · rfl

theorem State.oweBoardRuns_frame (s : State) (p : Port) (n : Nat) :
    s.oweBoardRuns p n = { s with ports := (s.oweBoardRuns p n).ports } := by
  unfold State.oweBoardRuns
  split <;> rfl

theorem State.oweRuns_frame (s : State) (f : Port → Nat) : s.oweRuns f = { s with ports := (s.oweRuns f).ports } := by
  unfold State.oweRuns
  generalize allPorts = ps
  induction ps generalizing s with
  | nil => rfl
  | cons p ps ih => rw [List.foldl_cons, ih, State.oweBoardRuns_frame]

theorem State.markLines_frame (s : State) (f : BoardLine → Bool) : s.markLines f = { s with lines := (s.markLines f).lines } := rfl

theorem State.markPublished_frame (s : State) (f : Fin 64 → Bool) :
    s.markPublished f = { s with lines := (s.markPublished f).lines, ports := (s.markPublished f).ports } := by
  unfold State.markPublished
  rw [State.oweRuns_frame]; rfl

theorem State.publishLane_frame (s : State) (i : Fin 64) (n : Nat) :
    s.publishLane i n =
      { s with lanes := (s.publishLane i n).lanes, lines := (s.publishLane i n).lines, ports := (s.publishLane i n).ports } := by
  unfold State.publishLane
  rw [State.markPublished_frame]; rfl

theorem State.publishAll_frame (s : State) :
    s.publishAll = { s with lanes := s.publishAll.lanes, lines := s.publishAll.lines, ports := s.publishAll.ports } := by
  unfold State.publishAll
  dsimp only
  rw [State.oweRuns_frame]; rfl

theorem State.resend_frame (s : State) (p : Port) :
    s.resend p = { s with
      lines := (s.resend p).lines, ports := (s.resend p).ports, attn := { s.attn with ports := (s.resend p).attn.ports } } := by
  unfold State.resend
  rw [State.produceQuietly_frame, State.oweBoardRuns_frame]; rfl

theorem State.linkUpNotice_frame (s : State) (p : Port) :
    s.linkUpNotice p = { s with
      lines := (s.linkUpNotice p).lines, ports := (s.linkUpNotice p).ports,
      attn := { s.attn with ports := (s.linkUpNotice p).attn.ports } } := by
  unfold State.linkUpNotice
  rw [State.oweOffer_frame, State.resend_frame]

theorem State.portNotice_frame (s : State) (p : Port) :
    s.portNotice p =
      { s with ports := (s.portNotice p).ports, attn := { s.attn with ports := (s.portNotice p).attn.ports } } := by
  unfold State.portNotice
  rw [State.oweOffer_frame, State.oweBoardRuns_frame]

theorem State.flushPort_frame (s : State) (p : Port) :
    s.flushPort p =
      { s with ports := (s.flushPort p).ports, attn := { s.attn with ports := (s.flushPort p).attn.ports } } := by
  unfold State.flushPort
  rw [State.portNotice_frame, State.requeueSlot_frame]; rfl

theorem State.refuseOwed_frame (s : State) (d : Port) :
    s.refuseOwed d = { s with
      counters := { s.counters with attnRefused := (s.refuseOwed d).counters.attnRefused }
      attn := { s.attn with ports := (s.refuseOwed d).attn.ports } } := by
  unfold State.refuseOwed
  dsimp only
  split <;> rfl

theorem State.refuseOwedEach_frame (s : State) (ds : List Port) :
    ds.foldl State.refuseOwed s = { s with
      counters := { s.counters with attnRefused := (ds.foldl State.refuseOwed s).counters.attnRefused }
      attn := { s.attn with ports := (ds.foldl State.refuseOwed s).attn.ports } } := by
  induction ds generalizing s with
  | nil => rfl
  | cons d ds ih => rw [List.foldl_cons, ih, State.refuseOwed_frame]

theorem State.roomNotice_frame (s : State) (p : Port) :
    s.roomNotice p = { s with
      ports := (s.roomNotice p).ports, attn := { s.attn with ports := (s.roomNotice p).attn.ports },
      agent := { s.agent with offersDue := (s.roomNotice p).agent.offersDue } } := by
  unfold State.roomNotice
  dsimp only
  rw [State.portNotice_frame]
  split <;> rfl

theorem State.disablePort_frame (s : State) (k : Fin 6) :
    s.disablePort k = { s with
      ports := (s.disablePort k).ports, attn := { s.attn with ports := (s.disablePort k).attn.ports } } :=
  State.flushPort_frame s (.sp k)

theorem State.forward_frame (s : State) (p : Port) (b : List Byte) :
    s.forward p b = { s with ports := (s.forward p b).ports, counters := (s.forward p b).counters } := by
  unfold State.forward
  split <;> rfl

theorem State.sendAnswer_frame (s : State) (o : ScanOrigin) (n : Nat) (a : Answer) :
    s.sendAnswer o n a = { s with ports := (s.sendAnswer o n a).ports, counters := (s.sendAnswer o n a).counters } := by
  unfold State.sendAnswer
  dsimp only
  split <;> rfl

theorem State.offerReply_frame (s : State) (b : List Byte) (e : Bool) :
    s.offerReply b e = { s with
      ports := (s.offerReply b e).ports, agent := (s.offerReply b e).agent, counters := (s.offerReply b e).counters } := by
  unfold State.offerReply
  dsimp only
  generalize (if e = true then Producer.engineReply else Producer.reply) = p
  split <;> rfl

theorem State.reply_frame (s : State) (r : MgmtRequest) (st : Status) (c : List Byte) (e : Bool) :
    s.reply r st c e = { s with
      ports := (s.reply r st c e).ports, agent := (s.reply r st c e).agent, counters := (s.reply r st c e).counters } :=
  State.offerReply_frame s _ e

theorem State.startRun_frame (s : State) : s.startRun = { s with ring := { s.ring with running := s.startRun.ring.running } } := by
  unfold State.startRun
  split <;> rfl

theorem State.resolveHead_frame (s : State) :
    s.resolveHead =
      { s with ring := s.resolveHead.ring, lanes := s.resolveHead.lanes, counters := s.resolveHead.counters } := by
  unfold State.resolveHead
  split
  · rfl
  · split <;> rfl

theorem State.consumeRun_frame (s : State) (n : Nat) :
    s.consumeRun n =
      { s with ring := (s.consumeRun n).ring, lanes := (s.consumeRun n).lanes, counters := (s.consumeRun n).counters } := by
  induction n generalizing s with
  | zero => rfl
  | succ n ih =>
    unfold State.consumeRun
    split
    · rw [ih, State.resolveHead_frame]
    · rfl

theorem State.changeMode_frame (s : State) (i : Fin 64) (m : LaneMode) (e : Bool) :
    s.changeMode i m e = { s with
      lanes := (s.changeMode i m e).lanes, lines := (s.changeMode i m e).lines, ports := (s.changeMode i m e).ports,
      attn := { s.attn with ports := (s.changeMode i m e).attn.ports } } := by
  unfold State.changeMode
  split
  · rfl
  · rename_i b _
    cases b
    · dsimp only
      rw [State.evaluateEach_frame]; rfl
    · dsimp only
      rw [State.evaluateEach_frame]
      simp only [if_true]
      rw [State.publishLane_frame]; rfl

theorem State.linkUpNotices_frame (s : State) (ps : List Port) :
    ps.foldl State.linkUpNotice s = { s with
      lines := (ps.foldl State.linkUpNotice s).lines, ports := (ps.foldl State.linkUpNotice s).ports,
      attn := { s.attn with ports := (ps.foldl State.linkUpNotice s).attn.ports } } := by
  induction ps generalizing s with
  | nil => rfl
  | cons p ps ih => rw [List.foldl_cons, ih, State.linkUpNotice_frame]

theorem State.loaderReady_frame (s : State) (o : LoaderOutcome) :
    s.loaderReady o = { s with
      loader := { s.loader with state := .ready, outcome := o }
      counters := { s.counters with attnRefused := (s.loaderReady o).counters.attnRefused }
      lines := (s.loaderReady o).lines, ports := (s.loaderReady o).ports,
      attn := { s.attn with ports := (s.loaderReady o).attn.ports } } := by
  unfold State.loaderReady
  dsimp only
  rw [State.linkUpNotices_frame, State.refuseOwedEach_frame]

theorem State.abandonWrite_frame (s : State) :
    s.abandonWrite = { s with
      flash := { s.flash with mem := s.abandonWrite.flash.mem }, freeDraws := s.abandonWrite.freeDraws } := by
  unfold State.abandonWrite State.undefineRange
  split <;> rfl

theorem State.giveGrantHeld_frame (s t : State) :
    s.giveGrantHeld t = { t with
      ports := (s.giveGrantHeld t).ports, attn := { t.attn with ports := (s.giveGrantHeld t).attn.ports } } := by
  unfold State.giveGrantHeld
  split
  · rfl
  · exact State.evaluate_frame t .tp

theorem State.sendLinkReset_frame (s : State) (p : Port) : s.sendLinkReset p = { s with ports := (s.sendLinkReset p).ports } := by
  unfold State.sendLinkReset
  split <;> rfl

theorem State.resetNotice_frame (s : State) (p : Port) :
    s.resetNotice p = { s with
      lines := (s.resetNotice p).lines, ports := (s.resetNotice p).ports,
      attn := { s.attn with ports := (s.resetNotice p).attn.ports } } := by
  unfold State.resetNotice
  split
  · exact State.linkUpNotice_frame s p
  · exact State.resend_frame s p

theorem State.resetSegmentPort_frame (s : State) (k : Fin 6) :
    s.resetSegmentPort k = { s with
      lines := (s.resetSegmentPort k).lines, ports := (s.resetSegmentPort k).ports,
      attn := { s.attn with ports := (s.resetSegmentPort k).attn.ports } } := by
  unfold State.resetSegmentPort
  rw [State.resetNotice_frame, State.sendLinkReset_frame, State.countPort, State.setPort, State.flushPort_frame]

/-! ## The fields -/

@[simp] theorem produceQuietly_resetHeld (s : State) (d : Port) : (s.produceQuietly d).resetHeld = s.resetHeld := (congrArg State.resetHeld (s.produceQuietly_frame d) :)
@[simp] theorem produceQuietly_clock (s : State) (d : Port) : (s.produceQuietly d).clock = s.clock := (congrArg State.clock (s.produceQuietly_frame d) :)
@[simp] theorem produceQuietly_park (s : State) (d : Port) : (s.produceQuietly d).park = s.park := (congrArg State.park (s.produceQuietly_frame d) :)
@[simp] theorem produceQuietly_lanes (s : State) (d : Port) : (s.produceQuietly d).lanes = s.lanes := (congrArg State.lanes (s.produceQuietly_frame d) :)
@[simp] theorem produceQuietly_rules (s : State) (d : Port) : (s.produceQuietly d).rules = s.rules := (congrArg State.rules (s.produceQuietly_frame d) :)
@[simp] theorem produceQuietly_segments (s : State) (d : Port) : (s.produceQuietly d).segments = s.segments := (congrArg State.segments (s.produceQuietly_frame d) :)
@[simp] theorem produceQuietly_lines (s : State) (d : Port) : (s.produceQuietly d).lines = s.lines := (congrArg State.lines (s.produceQuietly_frame d) :)
@[simp] theorem produceQuietly_ring (s : State) (d : Port) : (s.produceQuietly d).ring = s.ring := (congrArg State.ring (s.produceQuietly_frame d) :)
@[simp] theorem produceQuietly_register (s : State) (d : Port) : (s.produceQuietly d).register = s.register := (congrArg State.register (s.produceQuietly_frame d) :)
@[simp] theorem produceQuietly_counters (s : State) (d : Port) : (s.produceQuietly d).counters = s.counters := (congrArg State.counters (s.produceQuietly_frame d) :)
@[simp] theorem produceQuietly_agent (s : State) (d : Port) : (s.produceQuietly d).agent = s.agent := (congrArg State.agent (s.produceQuietly_frame d) :)
@[simp] theorem produceQuietly_flash (s : State) (d : Port) : (s.produceQuietly d).flash = s.flash := (congrArg State.flash (s.produceQuietly_frame d) :)
@[simp] theorem produceQuietly_loader (s : State) (d : Port) : (s.produceQuietly d).loader = s.loader := (congrArg State.loader (s.produceQuietly_frame d) :)
@[simp] theorem produceQuietly_handed (s : State) (d : Port) : (s.produceQuietly d).handed = s.handed := (congrArg State.handed (s.produceQuietly_frame d) :)
@[simp] theorem produceQuietly_engineResetDue (s : State) (d : Port) : (s.produceQuietly d).engineResetDue = s.engineResetDue := (congrArg State.engineResetDue (s.produceQuietly_frame d) :)
@[simp] theorem produceQuietly_segmentResetsDue (s : State) (d : Port) : (s.produceQuietly d).segmentResetsDue = s.segmentResetsDue := (congrArg State.segmentResetsDue (s.produceQuietly_frame d) :)
@[simp] theorem produceQuietly_freeDraws (s : State) (d : Port) : (s.produceQuietly d).freeDraws = s.freeDraws := (congrArg State.freeDraws (s.produceQuietly_frame d) :)
@[simp] theorem produceQuietly_pending (s : State) (d : Port) : (s.produceQuietly d).pending = s.pending := (congrArg State.pending (s.produceQuietly_frame d) :)

@[simp] theorem oweOffer_resetHeld (s : State) (d : Port) : (s.oweOffer d).resetHeld = s.resetHeld := (congrArg State.resetHeld (s.oweOffer_frame d) :)
@[simp] theorem oweOffer_clock (s : State) (d : Port) : (s.oweOffer d).clock = s.clock := (congrArg State.clock (s.oweOffer_frame d) :)
@[simp] theorem oweOffer_park (s : State) (d : Port) : (s.oweOffer d).park = s.park := (congrArg State.park (s.oweOffer_frame d) :)
@[simp] theorem oweOffer_lanes (s : State) (d : Port) : (s.oweOffer d).lanes = s.lanes := (congrArg State.lanes (s.oweOffer_frame d) :)
@[simp] theorem oweOffer_rules (s : State) (d : Port) : (s.oweOffer d).rules = s.rules := (congrArg State.rules (s.oweOffer_frame d) :)
@[simp] theorem oweOffer_segments (s : State) (d : Port) : (s.oweOffer d).segments = s.segments := (congrArg State.segments (s.oweOffer_frame d) :)
@[simp] theorem oweOffer_lines (s : State) (d : Port) : (s.oweOffer d).lines = s.lines := (congrArg State.lines (s.oweOffer_frame d) :)
@[simp] theorem oweOffer_ring (s : State) (d : Port) : (s.oweOffer d).ring = s.ring := (congrArg State.ring (s.oweOffer_frame d) :)
@[simp] theorem oweOffer_register (s : State) (d : Port) : (s.oweOffer d).register = s.register := (congrArg State.register (s.oweOffer_frame d) :)
@[simp] theorem oweOffer_ports (s : State) (d : Port) : (s.oweOffer d).ports = s.ports := (congrArg State.ports (s.oweOffer_frame d) :)
@[simp] theorem oweOffer_counters (s : State) (d : Port) : (s.oweOffer d).counters = s.counters := (congrArg State.counters (s.oweOffer_frame d) :)
@[simp] theorem oweOffer_agent (s : State) (d : Port) : (s.oweOffer d).agent = s.agent := (congrArg State.agent (s.oweOffer_frame d) :)
@[simp] theorem oweOffer_flash (s : State) (d : Port) : (s.oweOffer d).flash = s.flash := (congrArg State.flash (s.oweOffer_frame d) :)
@[simp] theorem oweOffer_loader (s : State) (d : Port) : (s.oweOffer d).loader = s.loader := (congrArg State.loader (s.oweOffer_frame d) :)
@[simp] theorem oweOffer_handed (s : State) (d : Port) : (s.oweOffer d).handed = s.handed := (congrArg State.handed (s.oweOffer_frame d) :)
@[simp] theorem oweOffer_engineResetDue (s : State) (d : Port) : (s.oweOffer d).engineResetDue = s.engineResetDue := (congrArg State.engineResetDue (s.oweOffer_frame d) :)
@[simp] theorem oweOffer_segmentResetsDue (s : State) (d : Port) : (s.oweOffer d).segmentResetsDue = s.segmentResetsDue := (congrArg State.segmentResetsDue (s.oweOffer_frame d) :)
@[simp] theorem oweOffer_freeDraws (s : State) (d : Port) : (s.oweOffer d).freeDraws = s.freeDraws := (congrArg State.freeDraws (s.oweOffer_frame d) :)
@[simp] theorem oweOffer_pending (s : State) (d : Port) : (s.oweOffer d).pending = s.pending := (congrArg State.pending (s.oweOffer_frame d) :)

@[simp] theorem produce_resetHeld (s : State) (d : Port) : (s.produce d).resetHeld = s.resetHeld := (congrArg State.resetHeld (s.produce_frame d) :)
@[simp] theorem produce_clock (s : State) (d : Port) : (s.produce d).clock = s.clock := (congrArg State.clock (s.produce_frame d) :)
@[simp] theorem produce_park (s : State) (d : Port) : (s.produce d).park = s.park := (congrArg State.park (s.produce_frame d) :)
@[simp] theorem produce_lanes (s : State) (d : Port) : (s.produce d).lanes = s.lanes := (congrArg State.lanes (s.produce_frame d) :)
@[simp] theorem produce_rules (s : State) (d : Port) : (s.produce d).rules = s.rules := (congrArg State.rules (s.produce_frame d) :)
@[simp] theorem produce_segments (s : State) (d : Port) : (s.produce d).segments = s.segments := (congrArg State.segments (s.produce_frame d) :)
@[simp] theorem produce_lines (s : State) (d : Port) : (s.produce d).lines = s.lines := (congrArg State.lines (s.produce_frame d) :)
@[simp] theorem produce_ring (s : State) (d : Port) : (s.produce d).ring = s.ring := (congrArg State.ring (s.produce_frame d) :)
@[simp] theorem produce_register (s : State) (d : Port) : (s.produce d).register = s.register := (congrArg State.register (s.produce_frame d) :)
@[simp] theorem produce_counters (s : State) (d : Port) : (s.produce d).counters = s.counters := (congrArg State.counters (s.produce_frame d) :)
@[simp] theorem produce_agent (s : State) (d : Port) : (s.produce d).agent = s.agent := (congrArg State.agent (s.produce_frame d) :)
@[simp] theorem produce_flash (s : State) (d : Port) : (s.produce d).flash = s.flash := (congrArg State.flash (s.produce_frame d) :)
@[simp] theorem produce_loader (s : State) (d : Port) : (s.produce d).loader = s.loader := (congrArg State.loader (s.produce_frame d) :)
@[simp] theorem produce_handed (s : State) (d : Port) : (s.produce d).handed = s.handed := (congrArg State.handed (s.produce_frame d) :)
@[simp] theorem produce_engineResetDue (s : State) (d : Port) : (s.produce d).engineResetDue = s.engineResetDue := (congrArg State.engineResetDue (s.produce_frame d) :)
@[simp] theorem produce_segmentResetsDue (s : State) (d : Port) : (s.produce d).segmentResetsDue = s.segmentResetsDue := (congrArg State.segmentResetsDue (s.produce_frame d) :)
@[simp] theorem produce_freeDraws (s : State) (d : Port) : (s.produce d).freeDraws = s.freeDraws := (congrArg State.freeDraws (s.produce_frame d) :)
@[simp] theorem produce_pending (s : State) (d : Port) : (s.produce d).pending = s.pending := (congrArg State.pending (s.produce_frame d) :)

@[simp] theorem evaluate_resetHeld (s : State) (d : Port) : (s.evaluate d).resetHeld = s.resetHeld := (congrArg State.resetHeld (s.evaluate_frame d) :)
@[simp] theorem evaluate_clock (s : State) (d : Port) : (s.evaluate d).clock = s.clock := (congrArg State.clock (s.evaluate_frame d) :)
@[simp] theorem evaluate_park (s : State) (d : Port) : (s.evaluate d).park = s.park := (congrArg State.park (s.evaluate_frame d) :)
@[simp] theorem evaluate_lanes (s : State) (d : Port) : (s.evaluate d).lanes = s.lanes := (congrArg State.lanes (s.evaluate_frame d) :)
@[simp] theorem evaluate_rules (s : State) (d : Port) : (s.evaluate d).rules = s.rules := (congrArg State.rules (s.evaluate_frame d) :)
@[simp] theorem evaluate_segments (s : State) (d : Port) : (s.evaluate d).segments = s.segments := (congrArg State.segments (s.evaluate_frame d) :)
@[simp] theorem evaluate_lines (s : State) (d : Port) : (s.evaluate d).lines = s.lines := (congrArg State.lines (s.evaluate_frame d) :)
@[simp] theorem evaluate_ring (s : State) (d : Port) : (s.evaluate d).ring = s.ring := (congrArg State.ring (s.evaluate_frame d) :)
@[simp] theorem evaluate_register (s : State) (d : Port) : (s.evaluate d).register = s.register := (congrArg State.register (s.evaluate_frame d) :)
@[simp] theorem evaluate_counters (s : State) (d : Port) : (s.evaluate d).counters = s.counters := (congrArg State.counters (s.evaluate_frame d) :)
@[simp] theorem evaluate_agent (s : State) (d : Port) : (s.evaluate d).agent = s.agent := (congrArg State.agent (s.evaluate_frame d) :)
@[simp] theorem evaluate_flash (s : State) (d : Port) : (s.evaluate d).flash = s.flash := (congrArg State.flash (s.evaluate_frame d) :)
@[simp] theorem evaluate_loader (s : State) (d : Port) : (s.evaluate d).loader = s.loader := (congrArg State.loader (s.evaluate_frame d) :)
@[simp] theorem evaluate_handed (s : State) (d : Port) : (s.evaluate d).handed = s.handed := (congrArg State.handed (s.evaluate_frame d) :)
@[simp] theorem evaluate_engineResetDue (s : State) (d : Port) : (s.evaluate d).engineResetDue = s.engineResetDue := (congrArg State.engineResetDue (s.evaluate_frame d) :)
@[simp] theorem evaluate_segmentResetsDue (s : State) (d : Port) : (s.evaluate d).segmentResetsDue = s.segmentResetsDue := (congrArg State.segmentResetsDue (s.evaluate_frame d) :)
@[simp] theorem evaluate_freeDraws (s : State) (d : Port) : (s.evaluate d).freeDraws = s.freeDraws := (congrArg State.freeDraws (s.evaluate_frame d) :)
@[simp] theorem evaluate_pending (s : State) (d : Port) : (s.evaluate d).pending = s.pending := (congrArg State.pending (s.evaluate_frame d) :)

@[simp] theorem evaluateEach_resetHeld (s : State) (ds : List Port) : (s.evaluateEach ds).resetHeld = s.resetHeld := (congrArg State.resetHeld (s.evaluateEach_frame ds) :)
@[simp] theorem evaluateEach_clock (s : State) (ds : List Port) : (s.evaluateEach ds).clock = s.clock := (congrArg State.clock (s.evaluateEach_frame ds) :)
@[simp] theorem evaluateEach_park (s : State) (ds : List Port) : (s.evaluateEach ds).park = s.park := (congrArg State.park (s.evaluateEach_frame ds) :)
@[simp] theorem evaluateEach_lanes (s : State) (ds : List Port) : (s.evaluateEach ds).lanes = s.lanes := (congrArg State.lanes (s.evaluateEach_frame ds) :)
@[simp] theorem evaluateEach_rules (s : State) (ds : List Port) : (s.evaluateEach ds).rules = s.rules := (congrArg State.rules (s.evaluateEach_frame ds) :)
@[simp] theorem evaluateEach_segments (s : State) (ds : List Port) : (s.evaluateEach ds).segments = s.segments := (congrArg State.segments (s.evaluateEach_frame ds) :)
@[simp] theorem evaluateEach_lines (s : State) (ds : List Port) : (s.evaluateEach ds).lines = s.lines := (congrArg State.lines (s.evaluateEach_frame ds) :)
@[simp] theorem evaluateEach_ring (s : State) (ds : List Port) : (s.evaluateEach ds).ring = s.ring := (congrArg State.ring (s.evaluateEach_frame ds) :)
@[simp] theorem evaluateEach_register (s : State) (ds : List Port) : (s.evaluateEach ds).register = s.register := (congrArg State.register (s.evaluateEach_frame ds) :)
@[simp] theorem evaluateEach_counters (s : State) (ds : List Port) : (s.evaluateEach ds).counters = s.counters := (congrArg State.counters (s.evaluateEach_frame ds) :)
@[simp] theorem evaluateEach_agent (s : State) (ds : List Port) : (s.evaluateEach ds).agent = s.agent := (congrArg State.agent (s.evaluateEach_frame ds) :)
@[simp] theorem evaluateEach_flash (s : State) (ds : List Port) : (s.evaluateEach ds).flash = s.flash := (congrArg State.flash (s.evaluateEach_frame ds) :)
@[simp] theorem evaluateEach_loader (s : State) (ds : List Port) : (s.evaluateEach ds).loader = s.loader := (congrArg State.loader (s.evaluateEach_frame ds) :)
@[simp] theorem evaluateEach_handed (s : State) (ds : List Port) : (s.evaluateEach ds).handed = s.handed := (congrArg State.handed (s.evaluateEach_frame ds) :)
@[simp] theorem evaluateEach_engineResetDue (s : State) (ds : List Port) : (s.evaluateEach ds).engineResetDue = s.engineResetDue := (congrArg State.engineResetDue (s.evaluateEach_frame ds) :)
@[simp] theorem evaluateEach_segmentResetsDue (s : State) (ds : List Port) : (s.evaluateEach ds).segmentResetsDue = s.segmentResetsDue := (congrArg State.segmentResetsDue (s.evaluateEach_frame ds) :)
@[simp] theorem evaluateEach_freeDraws (s : State) (ds : List Port) : (s.evaluateEach ds).freeDraws = s.freeDraws := (congrArg State.freeDraws (s.evaluateEach_frame ds) :)
@[simp] theorem evaluateEach_pending (s : State) (ds : List Port) : (s.evaluateEach ds).pending = s.pending := (congrArg State.pending (s.evaluateEach_frame ds) :)

@[simp] theorem requeueSlot_resetHeld (s : State) (d : Port) : (s.requeueSlot d).resetHeld = s.resetHeld := (congrArg State.resetHeld (s.requeueSlot_frame d) :)
@[simp] theorem requeueSlot_clock (s : State) (d : Port) : (s.requeueSlot d).clock = s.clock := (congrArg State.clock (s.requeueSlot_frame d) :)
@[simp] theorem requeueSlot_park (s : State) (d : Port) : (s.requeueSlot d).park = s.park := (congrArg State.park (s.requeueSlot_frame d) :)
@[simp] theorem requeueSlot_lanes (s : State) (d : Port) : (s.requeueSlot d).lanes = s.lanes := (congrArg State.lanes (s.requeueSlot_frame d) :)
@[simp] theorem requeueSlot_rules (s : State) (d : Port) : (s.requeueSlot d).rules = s.rules := (congrArg State.rules (s.requeueSlot_frame d) :)
@[simp] theorem requeueSlot_segments (s : State) (d : Port) : (s.requeueSlot d).segments = s.segments := (congrArg State.segments (s.requeueSlot_frame d) :)
@[simp] theorem requeueSlot_lines (s : State) (d : Port) : (s.requeueSlot d).lines = s.lines := (congrArg State.lines (s.requeueSlot_frame d) :)
@[simp] theorem requeueSlot_ring (s : State) (d : Port) : (s.requeueSlot d).ring = s.ring := (congrArg State.ring (s.requeueSlot_frame d) :)
@[simp] theorem requeueSlot_register (s : State) (d : Port) : (s.requeueSlot d).register = s.register := (congrArg State.register (s.requeueSlot_frame d) :)
@[simp] theorem requeueSlot_counters (s : State) (d : Port) : (s.requeueSlot d).counters = s.counters := (congrArg State.counters (s.requeueSlot_frame d) :)
@[simp] theorem requeueSlot_agent (s : State) (d : Port) : (s.requeueSlot d).agent = s.agent := (congrArg State.agent (s.requeueSlot_frame d) :)
@[simp] theorem requeueSlot_flash (s : State) (d : Port) : (s.requeueSlot d).flash = s.flash := (congrArg State.flash (s.requeueSlot_frame d) :)
@[simp] theorem requeueSlot_loader (s : State) (d : Port) : (s.requeueSlot d).loader = s.loader := (congrArg State.loader (s.requeueSlot_frame d) :)
@[simp] theorem requeueSlot_handed (s : State) (d : Port) : (s.requeueSlot d).handed = s.handed := (congrArg State.handed (s.requeueSlot_frame d) :)
@[simp] theorem requeueSlot_engineResetDue (s : State) (d : Port) : (s.requeueSlot d).engineResetDue = s.engineResetDue := (congrArg State.engineResetDue (s.requeueSlot_frame d) :)
@[simp] theorem requeueSlot_segmentResetsDue (s : State) (d : Port) : (s.requeueSlot d).segmentResetsDue = s.segmentResetsDue := (congrArg State.segmentResetsDue (s.requeueSlot_frame d) :)
@[simp] theorem requeueSlot_freeDraws (s : State) (d : Port) : (s.requeueSlot d).freeDraws = s.freeDraws := (congrArg State.freeDraws (s.requeueSlot_frame d) :)
@[simp] theorem requeueSlot_pending (s : State) (d : Port) : (s.requeueSlot d).pending = s.pending := (congrArg State.pending (s.requeueSlot_frame d) :)

@[simp] theorem oweBoardRuns_resetHeld (s : State) (p : Port) (n : Nat) : (s.oweBoardRuns p n).resetHeld = s.resetHeld := (congrArg State.resetHeld (s.oweBoardRuns_frame p n) :)
@[simp] theorem oweBoardRuns_clock (s : State) (p : Port) (n : Nat) : (s.oweBoardRuns p n).clock = s.clock := (congrArg State.clock (s.oweBoardRuns_frame p n) :)
@[simp] theorem oweBoardRuns_park (s : State) (p : Port) (n : Nat) : (s.oweBoardRuns p n).park = s.park := (congrArg State.park (s.oweBoardRuns_frame p n) :)
@[simp] theorem oweBoardRuns_lanes (s : State) (p : Port) (n : Nat) : (s.oweBoardRuns p n).lanes = s.lanes := (congrArg State.lanes (s.oweBoardRuns_frame p n) :)
@[simp] theorem oweBoardRuns_rules (s : State) (p : Port) (n : Nat) : (s.oweBoardRuns p n).rules = s.rules := (congrArg State.rules (s.oweBoardRuns_frame p n) :)
@[simp] theorem oweBoardRuns_segments (s : State) (p : Port) (n : Nat) : (s.oweBoardRuns p n).segments = s.segments := (congrArg State.segments (s.oweBoardRuns_frame p n) :)
@[simp] theorem oweBoardRuns_lines (s : State) (p : Port) (n : Nat) : (s.oweBoardRuns p n).lines = s.lines := (congrArg State.lines (s.oweBoardRuns_frame p n) :)
@[simp] theorem oweBoardRuns_ring (s : State) (p : Port) (n : Nat) : (s.oweBoardRuns p n).ring = s.ring := (congrArg State.ring (s.oweBoardRuns_frame p n) :)
@[simp] theorem oweBoardRuns_register (s : State) (p : Port) (n : Nat) : (s.oweBoardRuns p n).register = s.register := (congrArg State.register (s.oweBoardRuns_frame p n) :)
@[simp] theorem oweBoardRuns_counters (s : State) (p : Port) (n : Nat) : (s.oweBoardRuns p n).counters = s.counters := (congrArg State.counters (s.oweBoardRuns_frame p n) :)
@[simp] theorem oweBoardRuns_attn (s : State) (p : Port) (n : Nat) : (s.oweBoardRuns p n).attn = s.attn := (congrArg State.attn (s.oweBoardRuns_frame p n) :)
@[simp] theorem oweBoardRuns_agent (s : State) (p : Port) (n : Nat) : (s.oweBoardRuns p n).agent = s.agent := (congrArg State.agent (s.oweBoardRuns_frame p n) :)
@[simp] theorem oweBoardRuns_flash (s : State) (p : Port) (n : Nat) : (s.oweBoardRuns p n).flash = s.flash := (congrArg State.flash (s.oweBoardRuns_frame p n) :)
@[simp] theorem oweBoardRuns_loader (s : State) (p : Port) (n : Nat) : (s.oweBoardRuns p n).loader = s.loader := (congrArg State.loader (s.oweBoardRuns_frame p n) :)
@[simp] theorem oweBoardRuns_handed (s : State) (p : Port) (n : Nat) : (s.oweBoardRuns p n).handed = s.handed := (congrArg State.handed (s.oweBoardRuns_frame p n) :)
@[simp] theorem oweBoardRuns_engineResetDue (s : State) (p : Port) (n : Nat) : (s.oweBoardRuns p n).engineResetDue = s.engineResetDue := (congrArg State.engineResetDue (s.oweBoardRuns_frame p n) :)
@[simp] theorem oweBoardRuns_segmentResetsDue (s : State) (p : Port) (n : Nat) : (s.oweBoardRuns p n).segmentResetsDue = s.segmentResetsDue := (congrArg State.segmentResetsDue (s.oweBoardRuns_frame p n) :)
@[simp] theorem oweBoardRuns_freeDraws (s : State) (p : Port) (n : Nat) : (s.oweBoardRuns p n).freeDraws = s.freeDraws := (congrArg State.freeDraws (s.oweBoardRuns_frame p n) :)
@[simp] theorem oweBoardRuns_pending (s : State) (p : Port) (n : Nat) : (s.oweBoardRuns p n).pending = s.pending := (congrArg State.pending (s.oweBoardRuns_frame p n) :)

@[simp] theorem oweRuns_resetHeld (s : State) (f : Port → Nat) : (s.oweRuns f).resetHeld = s.resetHeld := (congrArg State.resetHeld (s.oweRuns_frame f) :)
@[simp] theorem oweRuns_clock (s : State) (f : Port → Nat) : (s.oweRuns f).clock = s.clock := (congrArg State.clock (s.oweRuns_frame f) :)
@[simp] theorem oweRuns_park (s : State) (f : Port → Nat) : (s.oweRuns f).park = s.park := (congrArg State.park (s.oweRuns_frame f) :)
@[simp] theorem oweRuns_lanes (s : State) (f : Port → Nat) : (s.oweRuns f).lanes = s.lanes := (congrArg State.lanes (s.oweRuns_frame f) :)
@[simp] theorem oweRuns_rules (s : State) (f : Port → Nat) : (s.oweRuns f).rules = s.rules := (congrArg State.rules (s.oweRuns_frame f) :)
@[simp] theorem oweRuns_segments (s : State) (f : Port → Nat) : (s.oweRuns f).segments = s.segments := (congrArg State.segments (s.oweRuns_frame f) :)
@[simp] theorem oweRuns_lines (s : State) (f : Port → Nat) : (s.oweRuns f).lines = s.lines := (congrArg State.lines (s.oweRuns_frame f) :)
@[simp] theorem oweRuns_ring (s : State) (f : Port → Nat) : (s.oweRuns f).ring = s.ring := (congrArg State.ring (s.oweRuns_frame f) :)
@[simp] theorem oweRuns_register (s : State) (f : Port → Nat) : (s.oweRuns f).register = s.register := (congrArg State.register (s.oweRuns_frame f) :)
@[simp] theorem oweRuns_counters (s : State) (f : Port → Nat) : (s.oweRuns f).counters = s.counters := (congrArg State.counters (s.oweRuns_frame f) :)
@[simp] theorem oweRuns_attn (s : State) (f : Port → Nat) : (s.oweRuns f).attn = s.attn := (congrArg State.attn (s.oweRuns_frame f) :)
@[simp] theorem oweRuns_agent (s : State) (f : Port → Nat) : (s.oweRuns f).agent = s.agent := (congrArg State.agent (s.oweRuns_frame f) :)
@[simp] theorem oweRuns_flash (s : State) (f : Port → Nat) : (s.oweRuns f).flash = s.flash := (congrArg State.flash (s.oweRuns_frame f) :)
@[simp] theorem oweRuns_loader (s : State) (f : Port → Nat) : (s.oweRuns f).loader = s.loader := (congrArg State.loader (s.oweRuns_frame f) :)
@[simp] theorem oweRuns_handed (s : State) (f : Port → Nat) : (s.oweRuns f).handed = s.handed := (congrArg State.handed (s.oweRuns_frame f) :)
@[simp] theorem oweRuns_engineResetDue (s : State) (f : Port → Nat) : (s.oweRuns f).engineResetDue = s.engineResetDue := (congrArg State.engineResetDue (s.oweRuns_frame f) :)
@[simp] theorem oweRuns_segmentResetsDue (s : State) (f : Port → Nat) : (s.oweRuns f).segmentResetsDue = s.segmentResetsDue := (congrArg State.segmentResetsDue (s.oweRuns_frame f) :)
@[simp] theorem oweRuns_freeDraws (s : State) (f : Port → Nat) : (s.oweRuns f).freeDraws = s.freeDraws := (congrArg State.freeDraws (s.oweRuns_frame f) :)
@[simp] theorem oweRuns_pending (s : State) (f : Port → Nat) : (s.oweRuns f).pending = s.pending := (congrArg State.pending (s.oweRuns_frame f) :)

@[simp] theorem markLines_resetHeld (s : State) (f : BoardLine → Bool) : (s.markLines f).resetHeld = s.resetHeld := (congrArg State.resetHeld (s.markLines_frame f) :)
@[simp] theorem markLines_clock (s : State) (f : BoardLine → Bool) : (s.markLines f).clock = s.clock := (congrArg State.clock (s.markLines_frame f) :)
@[simp] theorem markLines_park (s : State) (f : BoardLine → Bool) : (s.markLines f).park = s.park := (congrArg State.park (s.markLines_frame f) :)
@[simp] theorem markLines_lanes (s : State) (f : BoardLine → Bool) : (s.markLines f).lanes = s.lanes := (congrArg State.lanes (s.markLines_frame f) :)
@[simp] theorem markLines_rules (s : State) (f : BoardLine → Bool) : (s.markLines f).rules = s.rules := (congrArg State.rules (s.markLines_frame f) :)
@[simp] theorem markLines_segments (s : State) (f : BoardLine → Bool) : (s.markLines f).segments = s.segments := (congrArg State.segments (s.markLines_frame f) :)
@[simp] theorem markLines_ring (s : State) (f : BoardLine → Bool) : (s.markLines f).ring = s.ring := (congrArg State.ring (s.markLines_frame f) :)
@[simp] theorem markLines_register (s : State) (f : BoardLine → Bool) : (s.markLines f).register = s.register := (congrArg State.register (s.markLines_frame f) :)
@[simp] theorem markLines_ports (s : State) (f : BoardLine → Bool) : (s.markLines f).ports = s.ports := (congrArg State.ports (s.markLines_frame f) :)
@[simp] theorem markLines_counters (s : State) (f : BoardLine → Bool) : (s.markLines f).counters = s.counters := (congrArg State.counters (s.markLines_frame f) :)
@[simp] theorem markLines_attn (s : State) (f : BoardLine → Bool) : (s.markLines f).attn = s.attn := (congrArg State.attn (s.markLines_frame f) :)
@[simp] theorem markLines_agent (s : State) (f : BoardLine → Bool) : (s.markLines f).agent = s.agent := (congrArg State.agent (s.markLines_frame f) :)
@[simp] theorem markLines_flash (s : State) (f : BoardLine → Bool) : (s.markLines f).flash = s.flash := (congrArg State.flash (s.markLines_frame f) :)
@[simp] theorem markLines_loader (s : State) (f : BoardLine → Bool) : (s.markLines f).loader = s.loader := (congrArg State.loader (s.markLines_frame f) :)
@[simp] theorem markLines_handed (s : State) (f : BoardLine → Bool) : (s.markLines f).handed = s.handed := (congrArg State.handed (s.markLines_frame f) :)
@[simp] theorem markLines_engineResetDue (s : State) (f : BoardLine → Bool) : (s.markLines f).engineResetDue = s.engineResetDue := (congrArg State.engineResetDue (s.markLines_frame f) :)
@[simp] theorem markLines_segmentResetsDue (s : State) (f : BoardLine → Bool) : (s.markLines f).segmentResetsDue = s.segmentResetsDue := (congrArg State.segmentResetsDue (s.markLines_frame f) :)
@[simp] theorem markLines_freeDraws (s : State) (f : BoardLine → Bool) : (s.markLines f).freeDraws = s.freeDraws := (congrArg State.freeDraws (s.markLines_frame f) :)
@[simp] theorem markLines_pending (s : State) (f : BoardLine → Bool) : (s.markLines f).pending = s.pending := (congrArg State.pending (s.markLines_frame f) :)

@[simp] theorem markPublished_resetHeld (s : State) (f : Fin 64 → Bool) : (s.markPublished f).resetHeld = s.resetHeld := (congrArg State.resetHeld (s.markPublished_frame f) :)
@[simp] theorem markPublished_clock (s : State) (f : Fin 64 → Bool) : (s.markPublished f).clock = s.clock := (congrArg State.clock (s.markPublished_frame f) :)
@[simp] theorem markPublished_park (s : State) (f : Fin 64 → Bool) : (s.markPublished f).park = s.park := (congrArg State.park (s.markPublished_frame f) :)
@[simp] theorem markPublished_lanes (s : State) (f : Fin 64 → Bool) : (s.markPublished f).lanes = s.lanes := (congrArg State.lanes (s.markPublished_frame f) :)
@[simp] theorem markPublished_rules (s : State) (f : Fin 64 → Bool) : (s.markPublished f).rules = s.rules := (congrArg State.rules (s.markPublished_frame f) :)
@[simp] theorem markPublished_segments (s : State) (f : Fin 64 → Bool) : (s.markPublished f).segments = s.segments := (congrArg State.segments (s.markPublished_frame f) :)
@[simp] theorem markPublished_ring (s : State) (f : Fin 64 → Bool) : (s.markPublished f).ring = s.ring := (congrArg State.ring (s.markPublished_frame f) :)
@[simp] theorem markPublished_register (s : State) (f : Fin 64 → Bool) : (s.markPublished f).register = s.register := (congrArg State.register (s.markPublished_frame f) :)
@[simp] theorem markPublished_counters (s : State) (f : Fin 64 → Bool) : (s.markPublished f).counters = s.counters := (congrArg State.counters (s.markPublished_frame f) :)
@[simp] theorem markPublished_attn (s : State) (f : Fin 64 → Bool) : (s.markPublished f).attn = s.attn := (congrArg State.attn (s.markPublished_frame f) :)
@[simp] theorem markPublished_agent (s : State) (f : Fin 64 → Bool) : (s.markPublished f).agent = s.agent := (congrArg State.agent (s.markPublished_frame f) :)
@[simp] theorem markPublished_flash (s : State) (f : Fin 64 → Bool) : (s.markPublished f).flash = s.flash := (congrArg State.flash (s.markPublished_frame f) :)
@[simp] theorem markPublished_loader (s : State) (f : Fin 64 → Bool) : (s.markPublished f).loader = s.loader := (congrArg State.loader (s.markPublished_frame f) :)
@[simp] theorem markPublished_handed (s : State) (f : Fin 64 → Bool) : (s.markPublished f).handed = s.handed := (congrArg State.handed (s.markPublished_frame f) :)
@[simp] theorem markPublished_engineResetDue (s : State) (f : Fin 64 → Bool) : (s.markPublished f).engineResetDue = s.engineResetDue := (congrArg State.engineResetDue (s.markPublished_frame f) :)
@[simp] theorem markPublished_segmentResetsDue (s : State) (f : Fin 64 → Bool) : (s.markPublished f).segmentResetsDue = s.segmentResetsDue := (congrArg State.segmentResetsDue (s.markPublished_frame f) :)
@[simp] theorem markPublished_freeDraws (s : State) (f : Fin 64 → Bool) : (s.markPublished f).freeDraws = s.freeDraws := (congrArg State.freeDraws (s.markPublished_frame f) :)
@[simp] theorem markPublished_pending (s : State) (f : Fin 64 → Bool) : (s.markPublished f).pending = s.pending := (congrArg State.pending (s.markPublished_frame f) :)

@[simp] theorem publishLane_resetHeld (s : State) (i : Fin 64) (n : Nat) : (s.publishLane i n).resetHeld = s.resetHeld := (congrArg State.resetHeld (s.publishLane_frame i n) :)
@[simp] theorem publishLane_clock (s : State) (i : Fin 64) (n : Nat) : (s.publishLane i n).clock = s.clock := (congrArg State.clock (s.publishLane_frame i n) :)
@[simp] theorem publishLane_park (s : State) (i : Fin 64) (n : Nat) : (s.publishLane i n).park = s.park := (congrArg State.park (s.publishLane_frame i n) :)
@[simp] theorem publishLane_rules (s : State) (i : Fin 64) (n : Nat) : (s.publishLane i n).rules = s.rules := (congrArg State.rules (s.publishLane_frame i n) :)
@[simp] theorem publishLane_segments (s : State) (i : Fin 64) (n : Nat) : (s.publishLane i n).segments = s.segments := (congrArg State.segments (s.publishLane_frame i n) :)
@[simp] theorem publishLane_ring (s : State) (i : Fin 64) (n : Nat) : (s.publishLane i n).ring = s.ring := (congrArg State.ring (s.publishLane_frame i n) :)
@[simp] theorem publishLane_register (s : State) (i : Fin 64) (n : Nat) : (s.publishLane i n).register = s.register := (congrArg State.register (s.publishLane_frame i n) :)
@[simp] theorem publishLane_counters (s : State) (i : Fin 64) (n : Nat) : (s.publishLane i n).counters = s.counters := (congrArg State.counters (s.publishLane_frame i n) :)
@[simp] theorem publishLane_attn (s : State) (i : Fin 64) (n : Nat) : (s.publishLane i n).attn = s.attn := (congrArg State.attn (s.publishLane_frame i n) :)
@[simp] theorem publishLane_agent (s : State) (i : Fin 64) (n : Nat) : (s.publishLane i n).agent = s.agent := (congrArg State.agent (s.publishLane_frame i n) :)
@[simp] theorem publishLane_flash (s : State) (i : Fin 64) (n : Nat) : (s.publishLane i n).flash = s.flash := (congrArg State.flash (s.publishLane_frame i n) :)
@[simp] theorem publishLane_loader (s : State) (i : Fin 64) (n : Nat) : (s.publishLane i n).loader = s.loader := (congrArg State.loader (s.publishLane_frame i n) :)
@[simp] theorem publishLane_handed (s : State) (i : Fin 64) (n : Nat) : (s.publishLane i n).handed = s.handed := (congrArg State.handed (s.publishLane_frame i n) :)
@[simp] theorem publishLane_engineResetDue (s : State) (i : Fin 64) (n : Nat) : (s.publishLane i n).engineResetDue = s.engineResetDue := (congrArg State.engineResetDue (s.publishLane_frame i n) :)
@[simp] theorem publishLane_segmentResetsDue (s : State) (i : Fin 64) (n : Nat) : (s.publishLane i n).segmentResetsDue = s.segmentResetsDue := (congrArg State.segmentResetsDue (s.publishLane_frame i n) :)
@[simp] theorem publishLane_freeDraws (s : State) (i : Fin 64) (n : Nat) : (s.publishLane i n).freeDraws = s.freeDraws := (congrArg State.freeDraws (s.publishLane_frame i n) :)
@[simp] theorem publishLane_pending (s : State) (i : Fin 64) (n : Nat) : (s.publishLane i n).pending = s.pending := (congrArg State.pending (s.publishLane_frame i n) :)

@[simp] theorem publishAll_resetHeld (s : State) : (s.publishAll).resetHeld = s.resetHeld := (congrArg State.resetHeld (s.publishAll_frame) :)
@[simp] theorem publishAll_clock (s : State) : (s.publishAll).clock = s.clock := (congrArg State.clock (s.publishAll_frame) :)
@[simp] theorem publishAll_park (s : State) : (s.publishAll).park = s.park := (congrArg State.park (s.publishAll_frame) :)
@[simp] theorem publishAll_rules (s : State) : (s.publishAll).rules = s.rules := (congrArg State.rules (s.publishAll_frame) :)
@[simp] theorem publishAll_segments (s : State) : (s.publishAll).segments = s.segments := (congrArg State.segments (s.publishAll_frame) :)
@[simp] theorem publishAll_ring (s : State) : (s.publishAll).ring = s.ring := (congrArg State.ring (s.publishAll_frame) :)
@[simp] theorem publishAll_register (s : State) : (s.publishAll).register = s.register := (congrArg State.register (s.publishAll_frame) :)
@[simp] theorem publishAll_counters (s : State) : (s.publishAll).counters = s.counters := (congrArg State.counters (s.publishAll_frame) :)
@[simp] theorem publishAll_attn (s : State) : (s.publishAll).attn = s.attn := (congrArg State.attn (s.publishAll_frame) :)
@[simp] theorem publishAll_agent (s : State) : (s.publishAll).agent = s.agent := (congrArg State.agent (s.publishAll_frame) :)
@[simp] theorem publishAll_flash (s : State) : (s.publishAll).flash = s.flash := (congrArg State.flash (s.publishAll_frame) :)
@[simp] theorem publishAll_loader (s : State) : (s.publishAll).loader = s.loader := (congrArg State.loader (s.publishAll_frame) :)
@[simp] theorem publishAll_handed (s : State) : (s.publishAll).handed = s.handed := (congrArg State.handed (s.publishAll_frame) :)
@[simp] theorem publishAll_engineResetDue (s : State) : (s.publishAll).engineResetDue = s.engineResetDue := (congrArg State.engineResetDue (s.publishAll_frame) :)
@[simp] theorem publishAll_segmentResetsDue (s : State) : (s.publishAll).segmentResetsDue = s.segmentResetsDue := (congrArg State.segmentResetsDue (s.publishAll_frame) :)
@[simp] theorem publishAll_freeDraws (s : State) : (s.publishAll).freeDraws = s.freeDraws := (congrArg State.freeDraws (s.publishAll_frame) :)
@[simp] theorem publishAll_pending (s : State) : (s.publishAll).pending = s.pending := (congrArg State.pending (s.publishAll_frame) :)

@[simp] theorem linkUpNotice_resetHeld (s : State) (p : Port) : (s.linkUpNotice p).resetHeld = s.resetHeld := (congrArg State.resetHeld (s.linkUpNotice_frame p) :)
@[simp] theorem linkUpNotice_clock (s : State) (p : Port) : (s.linkUpNotice p).clock = s.clock := (congrArg State.clock (s.linkUpNotice_frame p) :)
@[simp] theorem linkUpNotice_park (s : State) (p : Port) : (s.linkUpNotice p).park = s.park := (congrArg State.park (s.linkUpNotice_frame p) :)
@[simp] theorem linkUpNotice_lanes (s : State) (p : Port) : (s.linkUpNotice p).lanes = s.lanes := (congrArg State.lanes (s.linkUpNotice_frame p) :)
@[simp] theorem linkUpNotice_rules (s : State) (p : Port) : (s.linkUpNotice p).rules = s.rules := (congrArg State.rules (s.linkUpNotice_frame p) :)
@[simp] theorem linkUpNotice_segments (s : State) (p : Port) : (s.linkUpNotice p).segments = s.segments := (congrArg State.segments (s.linkUpNotice_frame p) :)
@[simp] theorem linkUpNotice_ring (s : State) (p : Port) : (s.linkUpNotice p).ring = s.ring := (congrArg State.ring (s.linkUpNotice_frame p) :)
@[simp] theorem linkUpNotice_register (s : State) (p : Port) : (s.linkUpNotice p).register = s.register := (congrArg State.register (s.linkUpNotice_frame p) :)
@[simp] theorem linkUpNotice_counters (s : State) (p : Port) : (s.linkUpNotice p).counters = s.counters := (congrArg State.counters (s.linkUpNotice_frame p) :)
@[simp] theorem linkUpNotice_agent (s : State) (p : Port) : (s.linkUpNotice p).agent = s.agent := (congrArg State.agent (s.linkUpNotice_frame p) :)
@[simp] theorem linkUpNotice_flash (s : State) (p : Port) : (s.linkUpNotice p).flash = s.flash := (congrArg State.flash (s.linkUpNotice_frame p) :)
@[simp] theorem linkUpNotice_loader (s : State) (p : Port) : (s.linkUpNotice p).loader = s.loader := (congrArg State.loader (s.linkUpNotice_frame p) :)
@[simp] theorem linkUpNotice_handed (s : State) (p : Port) : (s.linkUpNotice p).handed = s.handed := (congrArg State.handed (s.linkUpNotice_frame p) :)
@[simp] theorem linkUpNotice_engineResetDue (s : State) (p : Port) : (s.linkUpNotice p).engineResetDue = s.engineResetDue := (congrArg State.engineResetDue (s.linkUpNotice_frame p) :)
@[simp] theorem linkUpNotice_segmentResetsDue (s : State) (p : Port) : (s.linkUpNotice p).segmentResetsDue = s.segmentResetsDue := (congrArg State.segmentResetsDue (s.linkUpNotice_frame p) :)
@[simp] theorem linkUpNotice_freeDraws (s : State) (p : Port) : (s.linkUpNotice p).freeDraws = s.freeDraws := (congrArg State.freeDraws (s.linkUpNotice_frame p) :)
@[simp] theorem linkUpNotice_pending (s : State) (p : Port) : (s.linkUpNotice p).pending = s.pending := (congrArg State.pending (s.linkUpNotice_frame p) :)

@[simp] theorem roomNotice_resetHeld (s : State) (p : Port) : (s.roomNotice p).resetHeld = s.resetHeld := (congrArg State.resetHeld (s.roomNotice_frame p) :)
@[simp] theorem roomNotice_clock (s : State) (p : Port) : (s.roomNotice p).clock = s.clock := (congrArg State.clock (s.roomNotice_frame p) :)
@[simp] theorem roomNotice_park (s : State) (p : Port) : (s.roomNotice p).park = s.park := (congrArg State.park (s.roomNotice_frame p) :)
@[simp] theorem roomNotice_lanes (s : State) (p : Port) : (s.roomNotice p).lanes = s.lanes := (congrArg State.lanes (s.roomNotice_frame p) :)
@[simp] theorem roomNotice_rules (s : State) (p : Port) : (s.roomNotice p).rules = s.rules := (congrArg State.rules (s.roomNotice_frame p) :)
@[simp] theorem roomNotice_segments (s : State) (p : Port) : (s.roomNotice p).segments = s.segments := (congrArg State.segments (s.roomNotice_frame p) :)
@[simp] theorem roomNotice_lines (s : State) (p : Port) : (s.roomNotice p).lines = s.lines := (congrArg State.lines (s.roomNotice_frame p) :)
@[simp] theorem roomNotice_ring (s : State) (p : Port) : (s.roomNotice p).ring = s.ring := (congrArg State.ring (s.roomNotice_frame p) :)
@[simp] theorem roomNotice_register (s : State) (p : Port) : (s.roomNotice p).register = s.register := (congrArg State.register (s.roomNotice_frame p) :)
@[simp] theorem roomNotice_counters (s : State) (p : Port) : (s.roomNotice p).counters = s.counters := (congrArg State.counters (s.roomNotice_frame p) :)
@[simp] theorem roomNotice_flash (s : State) (p : Port) : (s.roomNotice p).flash = s.flash := (congrArg State.flash (s.roomNotice_frame p) :)
@[simp] theorem roomNotice_loader (s : State) (p : Port) : (s.roomNotice p).loader = s.loader := (congrArg State.loader (s.roomNotice_frame p) :)
@[simp] theorem roomNotice_handed (s : State) (p : Port) : (s.roomNotice p).handed = s.handed := (congrArg State.handed (s.roomNotice_frame p) :)
@[simp] theorem roomNotice_engineResetDue (s : State) (p : Port) : (s.roomNotice p).engineResetDue = s.engineResetDue := (congrArg State.engineResetDue (s.roomNotice_frame p) :)
@[simp] theorem roomNotice_segmentResetsDue (s : State) (p : Port) : (s.roomNotice p).segmentResetsDue = s.segmentResetsDue := (congrArg State.segmentResetsDue (s.roomNotice_frame p) :)
@[simp] theorem roomNotice_freeDraws (s : State) (p : Port) : (s.roomNotice p).freeDraws = s.freeDraws := (congrArg State.freeDraws (s.roomNotice_frame p) :)
@[simp] theorem roomNotice_pending (s : State) (p : Port) : (s.roomNotice p).pending = s.pending := (congrArg State.pending (s.roomNotice_frame p) :)

@[simp] theorem disablePort_resetHeld (s : State) (k : Fin 6) : (s.disablePort k).resetHeld = s.resetHeld := (congrArg State.resetHeld (s.disablePort_frame k) :)
@[simp] theorem disablePort_clock (s : State) (k : Fin 6) : (s.disablePort k).clock = s.clock := (congrArg State.clock (s.disablePort_frame k) :)
@[simp] theorem disablePort_park (s : State) (k : Fin 6) : (s.disablePort k).park = s.park := (congrArg State.park (s.disablePort_frame k) :)
@[simp] theorem disablePort_lanes (s : State) (k : Fin 6) : (s.disablePort k).lanes = s.lanes := (congrArg State.lanes (s.disablePort_frame k) :)
@[simp] theorem disablePort_rules (s : State) (k : Fin 6) : (s.disablePort k).rules = s.rules := (congrArg State.rules (s.disablePort_frame k) :)
@[simp] theorem disablePort_segments (s : State) (k : Fin 6) : (s.disablePort k).segments = s.segments := (congrArg State.segments (s.disablePort_frame k) :)
@[simp] theorem disablePort_lines (s : State) (k : Fin 6) : (s.disablePort k).lines = s.lines := (congrArg State.lines (s.disablePort_frame k) :)
@[simp] theorem disablePort_ring (s : State) (k : Fin 6) : (s.disablePort k).ring = s.ring := (congrArg State.ring (s.disablePort_frame k) :)
@[simp] theorem disablePort_register (s : State) (k : Fin 6) : (s.disablePort k).register = s.register := (congrArg State.register (s.disablePort_frame k) :)
@[simp] theorem disablePort_counters (s : State) (k : Fin 6) : (s.disablePort k).counters = s.counters := (congrArg State.counters (s.disablePort_frame k) :)
@[simp] theorem disablePort_agent (s : State) (k : Fin 6) : (s.disablePort k).agent = s.agent := (congrArg State.agent (s.disablePort_frame k) :)
@[simp] theorem disablePort_flash (s : State) (k : Fin 6) : (s.disablePort k).flash = s.flash := (congrArg State.flash (s.disablePort_frame k) :)
@[simp] theorem disablePort_loader (s : State) (k : Fin 6) : (s.disablePort k).loader = s.loader := (congrArg State.loader (s.disablePort_frame k) :)
@[simp] theorem disablePort_handed (s : State) (k : Fin 6) : (s.disablePort k).handed = s.handed := (congrArg State.handed (s.disablePort_frame k) :)
@[simp] theorem disablePort_engineResetDue (s : State) (k : Fin 6) : (s.disablePort k).engineResetDue = s.engineResetDue := (congrArg State.engineResetDue (s.disablePort_frame k) :)
@[simp] theorem disablePort_segmentResetsDue (s : State) (k : Fin 6) : (s.disablePort k).segmentResetsDue = s.segmentResetsDue := (congrArg State.segmentResetsDue (s.disablePort_frame k) :)
@[simp] theorem disablePort_freeDraws (s : State) (k : Fin 6) : (s.disablePort k).freeDraws = s.freeDraws := (congrArg State.freeDraws (s.disablePort_frame k) :)
@[simp] theorem disablePort_pending (s : State) (k : Fin 6) : (s.disablePort k).pending = s.pending := (congrArg State.pending (s.disablePort_frame k) :)

@[simp] theorem resetSegmentPort_resetHeld (s : State) (k : Fin 6) : (s.resetSegmentPort k).resetHeld = s.resetHeld := (congrArg State.resetHeld (s.resetSegmentPort_frame k) :)
@[simp] theorem resetSegmentPort_clock (s : State) (k : Fin 6) : (s.resetSegmentPort k).clock = s.clock := (congrArg State.clock (s.resetSegmentPort_frame k) :)
@[simp] theorem resetSegmentPort_park (s : State) (k : Fin 6) : (s.resetSegmentPort k).park = s.park := (congrArg State.park (s.resetSegmentPort_frame k) :)
@[simp] theorem resetSegmentPort_lanes (s : State) (k : Fin 6) : (s.resetSegmentPort k).lanes = s.lanes := (congrArg State.lanes (s.resetSegmentPort_frame k) :)
@[simp] theorem resetSegmentPort_rules (s : State) (k : Fin 6) : (s.resetSegmentPort k).rules = s.rules := (congrArg State.rules (s.resetSegmentPort_frame k) :)
@[simp] theorem resetSegmentPort_segments (s : State) (k : Fin 6) : (s.resetSegmentPort k).segments = s.segments := (congrArg State.segments (s.resetSegmentPort_frame k) :)
@[simp] theorem resetSegmentPort_ring (s : State) (k : Fin 6) : (s.resetSegmentPort k).ring = s.ring := (congrArg State.ring (s.resetSegmentPort_frame k) :)
@[simp] theorem resetSegmentPort_register (s : State) (k : Fin 6) : (s.resetSegmentPort k).register = s.register := (congrArg State.register (s.resetSegmentPort_frame k) :)
@[simp] theorem resetSegmentPort_counters (s : State) (k : Fin 6) : (s.resetSegmentPort k).counters = s.counters := (congrArg State.counters (s.resetSegmentPort_frame k) :)
@[simp] theorem resetSegmentPort_agent (s : State) (k : Fin 6) : (s.resetSegmentPort k).agent = s.agent := (congrArg State.agent (s.resetSegmentPort_frame k) :)
@[simp] theorem resetSegmentPort_flash (s : State) (k : Fin 6) : (s.resetSegmentPort k).flash = s.flash := (congrArg State.flash (s.resetSegmentPort_frame k) :)
@[simp] theorem resetSegmentPort_loader (s : State) (k : Fin 6) : (s.resetSegmentPort k).loader = s.loader := (congrArg State.loader (s.resetSegmentPort_frame k) :)
@[simp] theorem resetSegmentPort_handed (s : State) (k : Fin 6) : (s.resetSegmentPort k).handed = s.handed := (congrArg State.handed (s.resetSegmentPort_frame k) :)
@[simp] theorem resetSegmentPort_engineResetDue (s : State) (k : Fin 6) : (s.resetSegmentPort k).engineResetDue = s.engineResetDue := (congrArg State.engineResetDue (s.resetSegmentPort_frame k) :)
@[simp] theorem resetSegmentPort_segmentResetsDue (s : State) (k : Fin 6) : (s.resetSegmentPort k).segmentResetsDue = s.segmentResetsDue := (congrArg State.segmentResetsDue (s.resetSegmentPort_frame k) :)
@[simp] theorem resetSegmentPort_freeDraws (s : State) (k : Fin 6) : (s.resetSegmentPort k).freeDraws = s.freeDraws := (congrArg State.freeDraws (s.resetSegmentPort_frame k) :)
@[simp] theorem resetSegmentPort_pending (s : State) (k : Fin 6) : (s.resetSegmentPort k).pending = s.pending := (congrArg State.pending (s.resetSegmentPort_frame k) :)

@[simp] theorem forward_resetHeld (s : State) (p : Port) (b : List Byte) : (s.forward p b).resetHeld = s.resetHeld := (congrArg State.resetHeld (s.forward_frame p b) :)
@[simp] theorem forward_clock (s : State) (p : Port) (b : List Byte) : (s.forward p b).clock = s.clock := (congrArg State.clock (s.forward_frame p b) :)
@[simp] theorem forward_park (s : State) (p : Port) (b : List Byte) : (s.forward p b).park = s.park := (congrArg State.park (s.forward_frame p b) :)
@[simp] theorem forward_lanes (s : State) (p : Port) (b : List Byte) : (s.forward p b).lanes = s.lanes := (congrArg State.lanes (s.forward_frame p b) :)
@[simp] theorem forward_rules (s : State) (p : Port) (b : List Byte) : (s.forward p b).rules = s.rules := (congrArg State.rules (s.forward_frame p b) :)
@[simp] theorem forward_segments (s : State) (p : Port) (b : List Byte) : (s.forward p b).segments = s.segments := (congrArg State.segments (s.forward_frame p b) :)
@[simp] theorem forward_lines (s : State) (p : Port) (b : List Byte) : (s.forward p b).lines = s.lines := (congrArg State.lines (s.forward_frame p b) :)
@[simp] theorem forward_ring (s : State) (p : Port) (b : List Byte) : (s.forward p b).ring = s.ring := (congrArg State.ring (s.forward_frame p b) :)
@[simp] theorem forward_register (s : State) (p : Port) (b : List Byte) : (s.forward p b).register = s.register := (congrArg State.register (s.forward_frame p b) :)
@[simp] theorem forward_attn (s : State) (p : Port) (b : List Byte) : (s.forward p b).attn = s.attn := (congrArg State.attn (s.forward_frame p b) :)
@[simp] theorem forward_agent (s : State) (p : Port) (b : List Byte) : (s.forward p b).agent = s.agent := (congrArg State.agent (s.forward_frame p b) :)
@[simp] theorem forward_flash (s : State) (p : Port) (b : List Byte) : (s.forward p b).flash = s.flash := (congrArg State.flash (s.forward_frame p b) :)
@[simp] theorem forward_loader (s : State) (p : Port) (b : List Byte) : (s.forward p b).loader = s.loader := (congrArg State.loader (s.forward_frame p b) :)
@[simp] theorem forward_handed (s : State) (p : Port) (b : List Byte) : (s.forward p b).handed = s.handed := (congrArg State.handed (s.forward_frame p b) :)
@[simp] theorem forward_engineResetDue (s : State) (p : Port) (b : List Byte) : (s.forward p b).engineResetDue = s.engineResetDue := (congrArg State.engineResetDue (s.forward_frame p b) :)
@[simp] theorem forward_segmentResetsDue (s : State) (p : Port) (b : List Byte) : (s.forward p b).segmentResetsDue = s.segmentResetsDue := (congrArg State.segmentResetsDue (s.forward_frame p b) :)
@[simp] theorem forward_freeDraws (s : State) (p : Port) (b : List Byte) : (s.forward p b).freeDraws = s.freeDraws := (congrArg State.freeDraws (s.forward_frame p b) :)
@[simp] theorem forward_pending (s : State) (p : Port) (b : List Byte) : (s.forward p b).pending = s.pending := (congrArg State.pending (s.forward_frame p b) :)

@[simp] theorem sendAnswer_resetHeld (s : State) (o : ScanOrigin) (n : Nat) (a : Answer) : (s.sendAnswer o n a).resetHeld = s.resetHeld := (congrArg State.resetHeld (s.sendAnswer_frame o n a) :)
@[simp] theorem sendAnswer_clock (s : State) (o : ScanOrigin) (n : Nat) (a : Answer) : (s.sendAnswer o n a).clock = s.clock := (congrArg State.clock (s.sendAnswer_frame o n a) :)
@[simp] theorem sendAnswer_park (s : State) (o : ScanOrigin) (n : Nat) (a : Answer) : (s.sendAnswer o n a).park = s.park := (congrArg State.park (s.sendAnswer_frame o n a) :)
@[simp] theorem sendAnswer_lanes (s : State) (o : ScanOrigin) (n : Nat) (a : Answer) : (s.sendAnswer o n a).lanes = s.lanes := (congrArg State.lanes (s.sendAnswer_frame o n a) :)
@[simp] theorem sendAnswer_rules (s : State) (o : ScanOrigin) (n : Nat) (a : Answer) : (s.sendAnswer o n a).rules = s.rules := (congrArg State.rules (s.sendAnswer_frame o n a) :)
@[simp] theorem sendAnswer_segments (s : State) (o : ScanOrigin) (n : Nat) (a : Answer) : (s.sendAnswer o n a).segments = s.segments := (congrArg State.segments (s.sendAnswer_frame o n a) :)
@[simp] theorem sendAnswer_lines (s : State) (o : ScanOrigin) (n : Nat) (a : Answer) : (s.sendAnswer o n a).lines = s.lines := (congrArg State.lines (s.sendAnswer_frame o n a) :)
@[simp] theorem sendAnswer_ring (s : State) (o : ScanOrigin) (n : Nat) (a : Answer) : (s.sendAnswer o n a).ring = s.ring := (congrArg State.ring (s.sendAnswer_frame o n a) :)
@[simp] theorem sendAnswer_register (s : State) (o : ScanOrigin) (n : Nat) (a : Answer) : (s.sendAnswer o n a).register = s.register := (congrArg State.register (s.sendAnswer_frame o n a) :)
@[simp] theorem sendAnswer_attn (s : State) (o : ScanOrigin) (n : Nat) (a : Answer) : (s.sendAnswer o n a).attn = s.attn := (congrArg State.attn (s.sendAnswer_frame o n a) :)
@[simp] theorem sendAnswer_agent (s : State) (o : ScanOrigin) (n : Nat) (a : Answer) : (s.sendAnswer o n a).agent = s.agent := (congrArg State.agent (s.sendAnswer_frame o n a) :)
@[simp] theorem sendAnswer_flash (s : State) (o : ScanOrigin) (n : Nat) (a : Answer) : (s.sendAnswer o n a).flash = s.flash := (congrArg State.flash (s.sendAnswer_frame o n a) :)
@[simp] theorem sendAnswer_loader (s : State) (o : ScanOrigin) (n : Nat) (a : Answer) : (s.sendAnswer o n a).loader = s.loader := (congrArg State.loader (s.sendAnswer_frame o n a) :)
@[simp] theorem sendAnswer_handed (s : State) (o : ScanOrigin) (n : Nat) (a : Answer) : (s.sendAnswer o n a).handed = s.handed := (congrArg State.handed (s.sendAnswer_frame o n a) :)
@[simp] theorem sendAnswer_engineResetDue (s : State) (o : ScanOrigin) (n : Nat) (a : Answer) : (s.sendAnswer o n a).engineResetDue = s.engineResetDue := (congrArg State.engineResetDue (s.sendAnswer_frame o n a) :)
@[simp] theorem sendAnswer_segmentResetsDue (s : State) (o : ScanOrigin) (n : Nat) (a : Answer) : (s.sendAnswer o n a).segmentResetsDue = s.segmentResetsDue := (congrArg State.segmentResetsDue (s.sendAnswer_frame o n a) :)
@[simp] theorem sendAnswer_freeDraws (s : State) (o : ScanOrigin) (n : Nat) (a : Answer) : (s.sendAnswer o n a).freeDraws = s.freeDraws := (congrArg State.freeDraws (s.sendAnswer_frame o n a) :)
@[simp] theorem sendAnswer_pending (s : State) (o : ScanOrigin) (n : Nat) (a : Answer) : (s.sendAnswer o n a).pending = s.pending := (congrArg State.pending (s.sendAnswer_frame o n a) :)

@[simp] theorem offerReply_resetHeld (s : State) (b : List Byte) (e : Bool) : (s.offerReply b e).resetHeld = s.resetHeld := (congrArg State.resetHeld (s.offerReply_frame b e) :)
@[simp] theorem offerReply_clock (s : State) (b : List Byte) (e : Bool) : (s.offerReply b e).clock = s.clock := (congrArg State.clock (s.offerReply_frame b e) :)
@[simp] theorem offerReply_park (s : State) (b : List Byte) (e : Bool) : (s.offerReply b e).park = s.park := (congrArg State.park (s.offerReply_frame b e) :)
@[simp] theorem offerReply_lanes (s : State) (b : List Byte) (e : Bool) : (s.offerReply b e).lanes = s.lanes := (congrArg State.lanes (s.offerReply_frame b e) :)
@[simp] theorem offerReply_rules (s : State) (b : List Byte) (e : Bool) : (s.offerReply b e).rules = s.rules := (congrArg State.rules (s.offerReply_frame b e) :)
@[simp] theorem offerReply_segments (s : State) (b : List Byte) (e : Bool) : (s.offerReply b e).segments = s.segments := (congrArg State.segments (s.offerReply_frame b e) :)
@[simp] theorem offerReply_lines (s : State) (b : List Byte) (e : Bool) : (s.offerReply b e).lines = s.lines := (congrArg State.lines (s.offerReply_frame b e) :)
@[simp] theorem offerReply_ring (s : State) (b : List Byte) (e : Bool) : (s.offerReply b e).ring = s.ring := (congrArg State.ring (s.offerReply_frame b e) :)
@[simp] theorem offerReply_register (s : State) (b : List Byte) (e : Bool) : (s.offerReply b e).register = s.register := (congrArg State.register (s.offerReply_frame b e) :)
@[simp] theorem offerReply_attn (s : State) (b : List Byte) (e : Bool) : (s.offerReply b e).attn = s.attn := (congrArg State.attn (s.offerReply_frame b e) :)
@[simp] theorem offerReply_flash (s : State) (b : List Byte) (e : Bool) : (s.offerReply b e).flash = s.flash := (congrArg State.flash (s.offerReply_frame b e) :)
@[simp] theorem offerReply_loader (s : State) (b : List Byte) (e : Bool) : (s.offerReply b e).loader = s.loader := (congrArg State.loader (s.offerReply_frame b e) :)
@[simp] theorem offerReply_handed (s : State) (b : List Byte) (e : Bool) : (s.offerReply b e).handed = s.handed := (congrArg State.handed (s.offerReply_frame b e) :)
@[simp] theorem offerReply_engineResetDue (s : State) (b : List Byte) (e : Bool) : (s.offerReply b e).engineResetDue = s.engineResetDue := (congrArg State.engineResetDue (s.offerReply_frame b e) :)
@[simp] theorem offerReply_segmentResetsDue (s : State) (b : List Byte) (e : Bool) : (s.offerReply b e).segmentResetsDue = s.segmentResetsDue := (congrArg State.segmentResetsDue (s.offerReply_frame b e) :)
@[simp] theorem offerReply_freeDraws (s : State) (b : List Byte) (e : Bool) : (s.offerReply b e).freeDraws = s.freeDraws := (congrArg State.freeDraws (s.offerReply_frame b e) :)
@[simp] theorem offerReply_pending (s : State) (b : List Byte) (e : Bool) : (s.offerReply b e).pending = s.pending := (congrArg State.pending (s.offerReply_frame b e) :)

@[simp] theorem reply_resetHeld (s : State) (r : MgmtRequest) (st : Status) (c : List Byte) (e : Bool) : (s.reply r st c e).resetHeld = s.resetHeld := (congrArg State.resetHeld (s.reply_frame r st c e) :)
@[simp] theorem reply_clock (s : State) (r : MgmtRequest) (st : Status) (c : List Byte) (e : Bool) : (s.reply r st c e).clock = s.clock := (congrArg State.clock (s.reply_frame r st c e) :)
@[simp] theorem reply_park (s : State) (r : MgmtRequest) (st : Status) (c : List Byte) (e : Bool) : (s.reply r st c e).park = s.park := (congrArg State.park (s.reply_frame r st c e) :)
@[simp] theorem reply_lanes (s : State) (r : MgmtRequest) (st : Status) (c : List Byte) (e : Bool) : (s.reply r st c e).lanes = s.lanes := (congrArg State.lanes (s.reply_frame r st c e) :)
@[simp] theorem reply_rules (s : State) (r : MgmtRequest) (st : Status) (c : List Byte) (e : Bool) : (s.reply r st c e).rules = s.rules := (congrArg State.rules (s.reply_frame r st c e) :)
@[simp] theorem reply_segments (s : State) (r : MgmtRequest) (st : Status) (c : List Byte) (e : Bool) : (s.reply r st c e).segments = s.segments := (congrArg State.segments (s.reply_frame r st c e) :)
@[simp] theorem reply_lines (s : State) (r : MgmtRequest) (st : Status) (c : List Byte) (e : Bool) : (s.reply r st c e).lines = s.lines := (congrArg State.lines (s.reply_frame r st c e) :)
@[simp] theorem reply_ring (s : State) (r : MgmtRequest) (st : Status) (c : List Byte) (e : Bool) : (s.reply r st c e).ring = s.ring := (congrArg State.ring (s.reply_frame r st c e) :)
@[simp] theorem reply_register (s : State) (r : MgmtRequest) (st : Status) (c : List Byte) (e : Bool) : (s.reply r st c e).register = s.register := (congrArg State.register (s.reply_frame r st c e) :)
@[simp] theorem reply_attn (s : State) (r : MgmtRequest) (st : Status) (c : List Byte) (e : Bool) : (s.reply r st c e).attn = s.attn := (congrArg State.attn (s.reply_frame r st c e) :)
@[simp] theorem reply_flash (s : State) (r : MgmtRequest) (st : Status) (c : List Byte) (e : Bool) : (s.reply r st c e).flash = s.flash := (congrArg State.flash (s.reply_frame r st c e) :)
@[simp] theorem reply_loader (s : State) (r : MgmtRequest) (st : Status) (c : List Byte) (e : Bool) : (s.reply r st c e).loader = s.loader := (congrArg State.loader (s.reply_frame r st c e) :)
@[simp] theorem reply_handed (s : State) (r : MgmtRequest) (st : Status) (c : List Byte) (e : Bool) : (s.reply r st c e).handed = s.handed := (congrArg State.handed (s.reply_frame r st c e) :)
@[simp] theorem reply_engineResetDue (s : State) (r : MgmtRequest) (st : Status) (c : List Byte) (e : Bool) : (s.reply r st c e).engineResetDue = s.engineResetDue := (congrArg State.engineResetDue (s.reply_frame r st c e) :)
@[simp] theorem reply_segmentResetsDue (s : State) (r : MgmtRequest) (st : Status) (c : List Byte) (e : Bool) : (s.reply r st c e).segmentResetsDue = s.segmentResetsDue := (congrArg State.segmentResetsDue (s.reply_frame r st c e) :)
@[simp] theorem reply_freeDraws (s : State) (r : MgmtRequest) (st : Status) (c : List Byte) (e : Bool) : (s.reply r st c e).freeDraws = s.freeDraws := (congrArg State.freeDraws (s.reply_frame r st c e) :)
@[simp] theorem reply_pending (s : State) (r : MgmtRequest) (st : Status) (c : List Byte) (e : Bool) : (s.reply r st c e).pending = s.pending := (congrArg State.pending (s.reply_frame r st c e) :)

@[simp] theorem startRun_resetHeld (s : State) : (s.startRun).resetHeld = s.resetHeld := (congrArg State.resetHeld (s.startRun_frame) :)
@[simp] theorem startRun_clock (s : State) : (s.startRun).clock = s.clock := (congrArg State.clock (s.startRun_frame) :)
@[simp] theorem startRun_park (s : State) : (s.startRun).park = s.park := (congrArg State.park (s.startRun_frame) :)
@[simp] theorem startRun_lanes (s : State) : (s.startRun).lanes = s.lanes := (congrArg State.lanes (s.startRun_frame) :)
@[simp] theorem startRun_rules (s : State) : (s.startRun).rules = s.rules := (congrArg State.rules (s.startRun_frame) :)
@[simp] theorem startRun_segments (s : State) : (s.startRun).segments = s.segments := (congrArg State.segments (s.startRun_frame) :)
@[simp] theorem startRun_lines (s : State) : (s.startRun).lines = s.lines := (congrArg State.lines (s.startRun_frame) :)
@[simp] theorem startRun_register (s : State) : (s.startRun).register = s.register := (congrArg State.register (s.startRun_frame) :)
@[simp] theorem startRun_ports (s : State) : (s.startRun).ports = s.ports := (congrArg State.ports (s.startRun_frame) :)
@[simp] theorem startRun_counters (s : State) : (s.startRun).counters = s.counters := (congrArg State.counters (s.startRun_frame) :)
@[simp] theorem startRun_attn (s : State) : (s.startRun).attn = s.attn := (congrArg State.attn (s.startRun_frame) :)
@[simp] theorem startRun_agent (s : State) : (s.startRun).agent = s.agent := (congrArg State.agent (s.startRun_frame) :)
@[simp] theorem startRun_flash (s : State) : (s.startRun).flash = s.flash := (congrArg State.flash (s.startRun_frame) :)
@[simp] theorem startRun_loader (s : State) : (s.startRun).loader = s.loader := (congrArg State.loader (s.startRun_frame) :)
@[simp] theorem startRun_handed (s : State) : (s.startRun).handed = s.handed := (congrArg State.handed (s.startRun_frame) :)
@[simp] theorem startRun_engineResetDue (s : State) : (s.startRun).engineResetDue = s.engineResetDue := (congrArg State.engineResetDue (s.startRun_frame) :)
@[simp] theorem startRun_segmentResetsDue (s : State) : (s.startRun).segmentResetsDue = s.segmentResetsDue := (congrArg State.segmentResetsDue (s.startRun_frame) :)
@[simp] theorem startRun_freeDraws (s : State) : (s.startRun).freeDraws = s.freeDraws := (congrArg State.freeDraws (s.startRun_frame) :)
@[simp] theorem startRun_pending (s : State) : (s.startRun).pending = s.pending := (congrArg State.pending (s.startRun_frame) :)

@[simp] theorem resolveHead_resetHeld (s : State) : (s.resolveHead).resetHeld = s.resetHeld := (congrArg State.resetHeld (s.resolveHead_frame) :)
@[simp] theorem resolveHead_clock (s : State) : (s.resolveHead).clock = s.clock := (congrArg State.clock (s.resolveHead_frame) :)
@[simp] theorem resolveHead_park (s : State) : (s.resolveHead).park = s.park := (congrArg State.park (s.resolveHead_frame) :)
@[simp] theorem resolveHead_rules (s : State) : (s.resolveHead).rules = s.rules := (congrArg State.rules (s.resolveHead_frame) :)
@[simp] theorem resolveHead_segments (s : State) : (s.resolveHead).segments = s.segments := (congrArg State.segments (s.resolveHead_frame) :)
@[simp] theorem resolveHead_lines (s : State) : (s.resolveHead).lines = s.lines := (congrArg State.lines (s.resolveHead_frame) :)
@[simp] theorem resolveHead_register (s : State) : (s.resolveHead).register = s.register := (congrArg State.register (s.resolveHead_frame) :)
@[simp] theorem resolveHead_ports (s : State) : (s.resolveHead).ports = s.ports := (congrArg State.ports (s.resolveHead_frame) :)
@[simp] theorem resolveHead_attn (s : State) : (s.resolveHead).attn = s.attn := (congrArg State.attn (s.resolveHead_frame) :)
@[simp] theorem resolveHead_agent (s : State) : (s.resolveHead).agent = s.agent := (congrArg State.agent (s.resolveHead_frame) :)
@[simp] theorem resolveHead_flash (s : State) : (s.resolveHead).flash = s.flash := (congrArg State.flash (s.resolveHead_frame) :)
@[simp] theorem resolveHead_loader (s : State) : (s.resolveHead).loader = s.loader := (congrArg State.loader (s.resolveHead_frame) :)
@[simp] theorem resolveHead_handed (s : State) : (s.resolveHead).handed = s.handed := (congrArg State.handed (s.resolveHead_frame) :)
@[simp] theorem resolveHead_engineResetDue (s : State) : (s.resolveHead).engineResetDue = s.engineResetDue := (congrArg State.engineResetDue (s.resolveHead_frame) :)
@[simp] theorem resolveHead_segmentResetsDue (s : State) : (s.resolveHead).segmentResetsDue = s.segmentResetsDue := (congrArg State.segmentResetsDue (s.resolveHead_frame) :)
@[simp] theorem resolveHead_freeDraws (s : State) : (s.resolveHead).freeDraws = s.freeDraws := (congrArg State.freeDraws (s.resolveHead_frame) :)
@[simp] theorem resolveHead_pending (s : State) : (s.resolveHead).pending = s.pending := (congrArg State.pending (s.resolveHead_frame) :)

@[simp] theorem consumeRun_resetHeld (s : State) (n : Nat) : (s.consumeRun n).resetHeld = s.resetHeld := (congrArg State.resetHeld (s.consumeRun_frame n) :)
@[simp] theorem consumeRun_clock (s : State) (n : Nat) : (s.consumeRun n).clock = s.clock := (congrArg State.clock (s.consumeRun_frame n) :)
@[simp] theorem consumeRun_park (s : State) (n : Nat) : (s.consumeRun n).park = s.park := (congrArg State.park (s.consumeRun_frame n) :)
@[simp] theorem consumeRun_rules (s : State) (n : Nat) : (s.consumeRun n).rules = s.rules := (congrArg State.rules (s.consumeRun_frame n) :)
@[simp] theorem consumeRun_segments (s : State) (n : Nat) : (s.consumeRun n).segments = s.segments := (congrArg State.segments (s.consumeRun_frame n) :)
@[simp] theorem consumeRun_lines (s : State) (n : Nat) : (s.consumeRun n).lines = s.lines := (congrArg State.lines (s.consumeRun_frame n) :)
@[simp] theorem consumeRun_register (s : State) (n : Nat) : (s.consumeRun n).register = s.register := (congrArg State.register (s.consumeRun_frame n) :)
@[simp] theorem consumeRun_ports (s : State) (n : Nat) : (s.consumeRun n).ports = s.ports := (congrArg State.ports (s.consumeRun_frame n) :)
@[simp] theorem consumeRun_attn (s : State) (n : Nat) : (s.consumeRun n).attn = s.attn := (congrArg State.attn (s.consumeRun_frame n) :)
@[simp] theorem consumeRun_agent (s : State) (n : Nat) : (s.consumeRun n).agent = s.agent := (congrArg State.agent (s.consumeRun_frame n) :)
@[simp] theorem consumeRun_flash (s : State) (n : Nat) : (s.consumeRun n).flash = s.flash := (congrArg State.flash (s.consumeRun_frame n) :)
@[simp] theorem consumeRun_loader (s : State) (n : Nat) : (s.consumeRun n).loader = s.loader := (congrArg State.loader (s.consumeRun_frame n) :)
@[simp] theorem consumeRun_handed (s : State) (n : Nat) : (s.consumeRun n).handed = s.handed := (congrArg State.handed (s.consumeRun_frame n) :)
@[simp] theorem consumeRun_engineResetDue (s : State) (n : Nat) : (s.consumeRun n).engineResetDue = s.engineResetDue := (congrArg State.engineResetDue (s.consumeRun_frame n) :)
@[simp] theorem consumeRun_segmentResetsDue (s : State) (n : Nat) : (s.consumeRun n).segmentResetsDue = s.segmentResetsDue := (congrArg State.segmentResetsDue (s.consumeRun_frame n) :)
@[simp] theorem consumeRun_freeDraws (s : State) (n : Nat) : (s.consumeRun n).freeDraws = s.freeDraws := (congrArg State.freeDraws (s.consumeRun_frame n) :)
@[simp] theorem consumeRun_pending (s : State) (n : Nat) : (s.consumeRun n).pending = s.pending := (congrArg State.pending (s.consumeRun_frame n) :)

@[simp] theorem changeMode_resetHeld (s : State) (i : Fin 64) (m : LaneMode) (e : Bool) : (s.changeMode i m e).resetHeld = s.resetHeld := (congrArg State.resetHeld (s.changeMode_frame i m e) :)
@[simp] theorem changeMode_clock (s : State) (i : Fin 64) (m : LaneMode) (e : Bool) : (s.changeMode i m e).clock = s.clock := (congrArg State.clock (s.changeMode_frame i m e) :)
@[simp] theorem changeMode_park (s : State) (i : Fin 64) (m : LaneMode) (e : Bool) : (s.changeMode i m e).park = s.park := (congrArg State.park (s.changeMode_frame i m e) :)
@[simp] theorem changeMode_rules (s : State) (i : Fin 64) (m : LaneMode) (e : Bool) : (s.changeMode i m e).rules = s.rules := (congrArg State.rules (s.changeMode_frame i m e) :)
@[simp] theorem changeMode_segments (s : State) (i : Fin 64) (m : LaneMode) (e : Bool) : (s.changeMode i m e).segments = s.segments := (congrArg State.segments (s.changeMode_frame i m e) :)
@[simp] theorem changeMode_ring (s : State) (i : Fin 64) (m : LaneMode) (e : Bool) : (s.changeMode i m e).ring = s.ring := (congrArg State.ring (s.changeMode_frame i m e) :)
@[simp] theorem changeMode_register (s : State) (i : Fin 64) (m : LaneMode) (e : Bool) : (s.changeMode i m e).register = s.register := (congrArg State.register (s.changeMode_frame i m e) :)
@[simp] theorem changeMode_counters (s : State) (i : Fin 64) (m : LaneMode) (e : Bool) : (s.changeMode i m e).counters = s.counters := (congrArg State.counters (s.changeMode_frame i m e) :)
@[simp] theorem changeMode_agent (s : State) (i : Fin 64) (m : LaneMode) (e : Bool) : (s.changeMode i m e).agent = s.agent := (congrArg State.agent (s.changeMode_frame i m e) :)
@[simp] theorem changeMode_flash (s : State) (i : Fin 64) (m : LaneMode) (e : Bool) : (s.changeMode i m e).flash = s.flash := (congrArg State.flash (s.changeMode_frame i m e) :)
@[simp] theorem changeMode_loader (s : State) (i : Fin 64) (m : LaneMode) (e : Bool) : (s.changeMode i m e).loader = s.loader := (congrArg State.loader (s.changeMode_frame i m e) :)
@[simp] theorem changeMode_handed (s : State) (i : Fin 64) (m : LaneMode) (e : Bool) : (s.changeMode i m e).handed = s.handed := (congrArg State.handed (s.changeMode_frame i m e) :)
@[simp] theorem changeMode_engineResetDue (s : State) (i : Fin 64) (m : LaneMode) (e : Bool) : (s.changeMode i m e).engineResetDue = s.engineResetDue := (congrArg State.engineResetDue (s.changeMode_frame i m e) :)
@[simp] theorem changeMode_segmentResetsDue (s : State) (i : Fin 64) (m : LaneMode) (e : Bool) : (s.changeMode i m e).segmentResetsDue = s.segmentResetsDue := (congrArg State.segmentResetsDue (s.changeMode_frame i m e) :)
@[simp] theorem changeMode_freeDraws (s : State) (i : Fin 64) (m : LaneMode) (e : Bool) : (s.changeMode i m e).freeDraws = s.freeDraws := (congrArg State.freeDraws (s.changeMode_frame i m e) :)
@[simp] theorem changeMode_pending (s : State) (i : Fin 64) (m : LaneMode) (e : Bool) : (s.changeMode i m e).pending = s.pending := (congrArg State.pending (s.changeMode_frame i m e) :)

@[simp] theorem loaderReady_resetHeld (s : State) (o : LoaderOutcome) : (s.loaderReady o).resetHeld = s.resetHeld := (congrArg State.resetHeld (s.loaderReady_frame o) :)
@[simp] theorem loaderReady_clock (s : State) (o : LoaderOutcome) : (s.loaderReady o).clock = s.clock := (congrArg State.clock (s.loaderReady_frame o) :)
@[simp] theorem loaderReady_park (s : State) (o : LoaderOutcome) : (s.loaderReady o).park = s.park := (congrArg State.park (s.loaderReady_frame o) :)
@[simp] theorem loaderReady_lanes (s : State) (o : LoaderOutcome) : (s.loaderReady o).lanes = s.lanes := (congrArg State.lanes (s.loaderReady_frame o) :)
@[simp] theorem loaderReady_rules (s : State) (o : LoaderOutcome) : (s.loaderReady o).rules = s.rules := (congrArg State.rules (s.loaderReady_frame o) :)
@[simp] theorem loaderReady_segments (s : State) (o : LoaderOutcome) : (s.loaderReady o).segments = s.segments := (congrArg State.segments (s.loaderReady_frame o) :)
@[simp] theorem loaderReady_ring (s : State) (o : LoaderOutcome) : (s.loaderReady o).ring = s.ring := (congrArg State.ring (s.loaderReady_frame o) :)
@[simp] theorem loaderReady_register (s : State) (o : LoaderOutcome) : (s.loaderReady o).register = s.register := (congrArg State.register (s.loaderReady_frame o) :)
@[simp] theorem loaderReady_agent (s : State) (o : LoaderOutcome) : (s.loaderReady o).agent = s.agent := (congrArg State.agent (s.loaderReady_frame o) :)
@[simp] theorem loaderReady_flash (s : State) (o : LoaderOutcome) : (s.loaderReady o).flash = s.flash := (congrArg State.flash (s.loaderReady_frame o) :)
@[simp] theorem loaderReady_handed (s : State) (o : LoaderOutcome) : (s.loaderReady o).handed = s.handed := (congrArg State.handed (s.loaderReady_frame o) :)
@[simp] theorem loaderReady_engineResetDue (s : State) (o : LoaderOutcome) : (s.loaderReady o).engineResetDue = s.engineResetDue := (congrArg State.engineResetDue (s.loaderReady_frame o) :)
@[simp] theorem loaderReady_segmentResetsDue (s : State) (o : LoaderOutcome) : (s.loaderReady o).segmentResetsDue = s.segmentResetsDue := (congrArg State.segmentResetsDue (s.loaderReady_frame o) :)
@[simp] theorem loaderReady_freeDraws (s : State) (o : LoaderOutcome) : (s.loaderReady o).freeDraws = s.freeDraws := (congrArg State.freeDraws (s.loaderReady_frame o) :)
@[simp] theorem loaderReady_pending (s : State) (o : LoaderOutcome) : (s.loaderReady o).pending = s.pending := (congrArg State.pending (s.loaderReady_frame o) :)

@[simp] theorem abandonWrite_resetHeld (s : State) : (s.abandonWrite).resetHeld = s.resetHeld := (congrArg State.resetHeld (s.abandonWrite_frame) :)
@[simp] theorem abandonWrite_clock (s : State) : (s.abandonWrite).clock = s.clock := (congrArg State.clock (s.abandonWrite_frame) :)
@[simp] theorem abandonWrite_park (s : State) : (s.abandonWrite).park = s.park := (congrArg State.park (s.abandonWrite_frame) :)
@[simp] theorem abandonWrite_lanes (s : State) : (s.abandonWrite).lanes = s.lanes := (congrArg State.lanes (s.abandonWrite_frame) :)
@[simp] theorem abandonWrite_rules (s : State) : (s.abandonWrite).rules = s.rules := (congrArg State.rules (s.abandonWrite_frame) :)
@[simp] theorem abandonWrite_segments (s : State) : (s.abandonWrite).segments = s.segments := (congrArg State.segments (s.abandonWrite_frame) :)
@[simp] theorem abandonWrite_lines (s : State) : (s.abandonWrite).lines = s.lines := (congrArg State.lines (s.abandonWrite_frame) :)
@[simp] theorem abandonWrite_ring (s : State) : (s.abandonWrite).ring = s.ring := (congrArg State.ring (s.abandonWrite_frame) :)
@[simp] theorem abandonWrite_register (s : State) : (s.abandonWrite).register = s.register := (congrArg State.register (s.abandonWrite_frame) :)
@[simp] theorem abandonWrite_ports (s : State) : (s.abandonWrite).ports = s.ports := (congrArg State.ports (s.abandonWrite_frame) :)
@[simp] theorem abandonWrite_counters (s : State) : (s.abandonWrite).counters = s.counters := (congrArg State.counters (s.abandonWrite_frame) :)
@[simp] theorem abandonWrite_attn (s : State) : (s.abandonWrite).attn = s.attn := (congrArg State.attn (s.abandonWrite_frame) :)
@[simp] theorem abandonWrite_agent (s : State) : (s.abandonWrite).agent = s.agent := (congrArg State.agent (s.abandonWrite_frame) :)
@[simp] theorem abandonWrite_loader (s : State) : (s.abandonWrite).loader = s.loader := (congrArg State.loader (s.abandonWrite_frame) :)
@[simp] theorem abandonWrite_handed (s : State) : (s.abandonWrite).handed = s.handed := (congrArg State.handed (s.abandonWrite_frame) :)
@[simp] theorem abandonWrite_engineResetDue (s : State) : (s.abandonWrite).engineResetDue = s.engineResetDue := (congrArg State.engineResetDue (s.abandonWrite_frame) :)
@[simp] theorem abandonWrite_segmentResetsDue (s : State) : (s.abandonWrite).segmentResetsDue = s.segmentResetsDue := (congrArg State.segmentResetsDue (s.abandonWrite_frame) :)
@[simp] theorem abandonWrite_pending (s : State) : (s.abandonWrite).pending = s.pending := (congrArg State.pending (s.abandonWrite_frame) :)

end Sys2Proof.Machine
end

