-- ==== Sys2Proof/Laws/Memory.lean ====
section
/-! SUPPORT. The flash memory: every operation keeps its canonical form, and what a read gives after a write. -/

namespace Sys2Proof.Machine

/-! ## The canonical form -/

theorem Memory.wfFrom_mono {low high : Nat} (hl : low ≤ high) {m : Memory} (h : Memory.wfFrom high m = true) :
    Memory.wfFrom low m = true := by
  cases m with
  | nil => rfl
  | cons c m =>
    simp only [Memory.wfFrom, Bool.and_eq_true, decide_eq_true_eq] at h ⊢
    exact ⟨⟨⟨by omega, h.1.1.2⟩, h.1.2⟩, h.2⟩

theorem Memory.write_wfFrom {b : Byte} {a : Nat} (ha : a < Config.flashSize) :
    ∀ {m : Memory} {low : Nat}, Memory.wfFrom low m = true → low ≤ a → Memory.wfFrom low (m.write a b) = true
  | [], low, _, hl => by
    unfold Memory.write
    split
    · rfl
    · simp [Memory.wfFrom, *]
  | (x, y) :: m, low, h, hl => by
    simp only [Memory.wfFrom, Bool.and_eq_true, decide_eq_true_eq, bne_iff_ne, ne_eq] at h
    obtain ⟨⟨⟨hx, hxs⟩, hy⟩, hm⟩ := h
    unfold Memory.write
    split
    · split <;> simp [Memory.wfFrom, *]
    · split
      · subst a
        split
        · exact Memory.wfFrom_mono (by omega) hm
        · simp [Memory.wfFrom, *]
      · have := Memory.write_wfFrom (b := b) ha hm (by omega)
        simp [Memory.wfFrom, *]

/-- A write in the image space keeps the canonical form. -/
theorem Memory.write_wf {m : Memory} {a : Nat} {b : Byte} (h : m.wf = true) (ha : a < Config.flashSize) :
    (m.write a b).wf = true :=
  Memory.write_wfFrom ha h (Nat.zero_le _)

/-- A write of several bytes in the image space keeps the canonical form. -/
theorem Memory.writeAll_wf : ∀ {bs : List Byte} {m : Memory} {a : Nat}, m.wf = true → a + bs.length ≤ Config.flashSize →
    (m.writeAll a bs).wf = true
  | [], _, _, h, _ => h
  | b :: bs, m, a, h, hl => by
    simp only [List.length_cons] at hl
    exact Memory.writeAll_wf (m := m.write a b) (Memory.write_wf h (by omega)) (by omega)

/-- The flash memory right after a POWER reset is in its canonical form. -/
theorem reset_memory_wf : State.reset.flash.mem.wf = true := rfl

@[simp] theorem undefinedBytes_length (s : State) : s.undefinedBytes.length = s.flash.length := by simp [State.undefinedBytes]

/-- Free values in the range of a write keep the canonical form, when that range lies in the image space. -/
theorem undefineRange_wf {s : State} (h : s.flash.mem.wf = true) (hr : s.flash.offset + s.flash.length ≤ Config.flashSize) :
    s.undefineRange.flash.mem.wf = true :=
  Memory.writeAll_wf h (by simpa using hr)

/-- Abandoning a write in progress keeps the canonical form, when that write lies in the image space. -/
theorem abandonWrite_wf {s : State} (h : s.flash.mem.wf = true)
    (hr : s.flash.access = .busy → s.flash.offset + s.flash.length ≤ Config.flashSize) :
    s.abandonWrite.flash.mem.wf = true := by
  unfold State.abandonWrite
  split
  · exact undefineRange_wf h (hr ‹_›)
  · exact h

/-- Completing a write in progress keeps the canonical form, when that write lies in the image space. -/
theorem completeWrite_wf {s : State} (verified : Bool) (h : s.flash.mem.wf = true)
    (hr : s.flash.access = .busy →
      s.flash.offset + s.flash.data.length ≤ Config.flashSize ∧ s.flash.offset + s.flash.length ≤ Config.flashSize) :
    (s.completeWrite verified).flash.mem.wf = true := by
  unfold State.completeWrite
  split
  · cases verified
    · exact undefineRange_wf h (hr ‹_›).2
    · exact Memory.writeAll_wf h (hr ‹_›).1
  · exact h

/-! ## Reading after writing -/

theorem Memory.read_cons (x : Nat) (y : Byte) (m : Memory) (a : Nat) :
    Memory.read ((x, y) :: m) a = if x = a then y else m.read a := by
  unfold Memory.read
  by_cases h : x = a <;> simp [h]

/-- An address below the first listed one reads as an erased byte. -/
theorem Memory.read_below : ∀ {m : Memory} {low a : Nat}, Memory.wfFrom low m = true → a < low → m.read a = erasedByte
  | [], _, _, _, _ => rfl
  | (x, y) :: m, low, a, h, ha => by
    simp only [Memory.wfFrom, Bool.and_eq_true, decide_eq_true_eq] at h
    rw [Memory.read_cons, if_neg (by omega)]
    exact Memory.read_below h.2 (by omega)

theorem Memory.read_write_other {a c : Nat} (b : Byte) (hc : c ≠ a) : ∀ m : Memory, (m.write a b).read c = m.read c
  | [] => by
    unfold Memory.write
    split
    · rfl
    · rw [Memory.read_cons, if_neg (Ne.symm hc)]
  | (x, y) :: m => by
    unfold Memory.write
    split
    · split
      · rfl
      · rw [Memory.read_cons, if_neg (Ne.symm hc)]
    · split
      · subst a
        split
        · rw [Memory.read_cons, if_neg (Ne.symm hc)]
        · simp [Memory.read_cons, Ne.symm hc]
      · simp only [Memory.read_cons]
        rw [Memory.read_write_other b hc m]

theorem Memory.read_write_same_from {a : Nat} (b : Byte) :
    ∀ {m : Memory} {low : Nat}, Memory.wfFrom low m = true → (m.write a b).read a = b
  | [], _, _ => by
    unfold Memory.write
    split
    · rename_i h; rw [h]; rfl
    · rw [Memory.read_cons, if_pos rfl]
  | (x, y) :: m, low, h => by
    simp only [Memory.wfFrom, Bool.and_eq_true, decide_eq_true_eq] at h
    unfold Memory.write
    split
    · rename_i hax
      split
      · rename_i hb
        rw [Memory.read_cons, if_neg (by omega), Memory.read_below h.2 (by omega), hb]
      · rw [Memory.read_cons, if_pos rfl]
    · split
      · subst a
        split
        · rename_i hb
          rw [Memory.read_below h.2 (by omega), hb]
        · rw [Memory.read_cons, if_pos rfl]
      · rename_i hx
        rw [Memory.read_cons, if_neg (Ne.symm hx)]
        exact Memory.read_write_same_from b h.2

/-- The byte written is the byte read. -/
theorem Memory.read_write_same {m : Memory} (h : m.wf = true) (a : Nat) (b : Byte) : (m.write a b).read a = b :=
  Memory.read_write_same_from b h

/-- What a read gives after a write of several bytes in the image space. -/
theorem Memory.read_writeAll : ∀ {bs : List Byte} {m : Memory} {a : Nat} (c : Nat), m.wf = true →
    a + bs.length ≤ Config.flashSize →
    (m.writeAll a bs).read c = if a ≤ c ∧ c < a + bs.length then bs.getD (c - a) 0 else m.read c
  | [], m, a, c, _, _ => by
    rw [Memory.writeAll, if_neg (by simp)]
  | b :: bs, m, a, c, h, hl => by
    simp only [List.length_cons] at hl
    rw [Memory.writeAll, Memory.read_writeAll c (Memory.write_wf h (by omega)) (by omega)]
    rcases Nat.lt_trichotomy c a with hc | hc | hc
    · rw [if_neg (by omega), if_neg (by simp; omega), Memory.read_write_other b (by omega)]
    · subst c
      rw [if_neg (by omega), if_pos (by simp), Memory.read_write_same h]
      simp
    · obtain ⟨k, rfl⟩ : ∃ k, c = a + 1 + k := ⟨c - (a + 1), by omega⟩
      by_cases hk : k < bs.length
      · rw [if_pos (by omega), if_pos (by simp; omega)]
        have : a + 1 + k - a = k + 1 := by omega
        rw [this, Nat.add_sub_cancel_left]
        simp
      · rw [if_neg (by omega), if_neg (by simp; omega), Memory.read_write_other b (by omega)]

/-- The bytes written are the bytes read. -/
theorem Memory.readAll_writeAll {m : Memory} {bs : List Byte} {a : Nat} (h : m.wf = true)
    (hl : a + bs.length ≤ Config.flashSize) : (m.writeAll a bs).readAll a bs.length = bs := by
  apply List.ext_getElem
  · simp [Memory.readAll]
  · intro j h1 h2
    simp only [Memory.readAll, List.getElem_map, List.getElem_range]
    rw [Memory.read_writeAll _ h hl, if_pos (by omega)]
    simp [h2]

/-- A write of several bytes leaves every byte outside its range alone. -/
theorem Memory.read_writeAll_outside {a : Nat} : ∀ (bs : List Byte) (m : Memory) (o : Nat), ¬ (o ≤ a ∧ a < o + bs.length) →
    (m.writeAll o bs).read a = m.read a
  | [], _, _, _ => rfl
  | b :: bs, m, o, ho => by
    simp only [List.length_cons] at ho
    rw [Memory.writeAll, Memory.read_writeAll_outside bs _ _ (by omega), Memory.read_write_other b (by omega)]

/-- No byte outside the range changes when free values take it. -/
theorem undefineRange_read {s : State} {a : Nat} (ha : ¬ (s.flash.offset ≤ a ∧ a < s.flash.offset + s.flash.length)) :
    s.undefineRange.flash.mem.read a = s.flash.mem.read a :=
  Memory.read_writeAll_outside _ _ _ (by simpa using ha)

/-- No byte outside the range of a write in progress changes when that write is abandoned. -/
theorem abandonWrite_read {s : State} {a : Nat}
    (ha : ¬ (s.flash.access = .busy ∧ s.flash.offset ≤ a ∧ a < s.flash.offset + s.flash.length)) :
    s.abandonWrite.flash.mem.read a = s.flash.mem.read a := by
  unfold State.abandonWrite
  split
  · exact undefineRange_read (by simpa [‹s.flash.access = .busy›] using ha)
  · rfl

/-- The bytes of a run as the flash port gives them: the device's own as far as it answers, and 0xFF behind. -/
theorem flashBytes_eq (s : State) (given offset length : Nat) :
    s.flashBytes given offset length =
      (List.range length).map fun j => if j < given then s.flash.mem.read (offset + j) else erasedByte := by
  unfold State.flashBytes Memory.readAll
  refine List.ext_getElem (by simp; omega) fun j h1 h2 => ?_
  simp only [List.length_map, List.length_range] at h2
  by_cases hj : j < given
  · rw [List.getElem_append_left (by simp; omega)]
    simp [hj]
  · rw [List.getElem_append_right (by simp; omega)]
    simp [hj]

end Sys2Proof.Machine
end

