-- ==== Sys2Proof/Laws/Passes.lean ====
section
/-! SUPPORT. The Pass Register's operations: keys, finding, inserting, removing, restating. -/

namespace Sys2Proof.Machine

/-- Two keys are the same only for the same ticket and lane. -/
theorem passKey_inj {t u : Nat} {i j : Fin 64} : passKey t i = passKey u j ↔ t = u ∧ i = j := by
  unfold passKey
  constructor
  · intro h
    have hi := i.isLt
    have hj := j.isLt
    exact ⟨by omega, Fin.ext (by omega)⟩
  · rintro ⟨rfl, rfl⟩; rfl

theorem PassRecord.key_eq {r : PassRecord} {t : Nat} {i : Fin 64} : r.key = passKey t i ↔ r.ticket = t ∧ r.lane = i := passKey_inj

/-- A record found has the key asked for, and stands in the register. -/
theorem findRecord_some {register : List PassRecord} {t : Nat} {i : Fin 64} {r : PassRecord}
    (h : findRecord register t i = some r) : r ∈ register ∧ r.ticket = t ∧ r.lane = i :=
  ⟨List.mem_of_find?_eq_some h, PassRecord.key_eq.mp (by simpa using List.find?_some h)⟩

/-- No record found means no record of that key. -/
theorem findRecord_none {register : List PassRecord} {t : Nat} {i : Fin 64} (h : findRecord register t i = none) :
    ∀ r ∈ register, r.key ≠ passKey t i := by
  simpa [findRecord] using h

theorem insertRecord_perm (register : List PassRecord) (r : PassRecord) : (insertRecord register r).Perm (r :: register) := by
  induction register with
  | nil => exact .refl _
  | cons x rest ih =>
    unfold insertRecord
    split
    · exact .refl _
    · exact (ih.cons x).trans (.swap ..)

theorem insertRecord_length (register : List PassRecord) (r : PassRecord) :
    (insertRecord register r).length = register.length + 1 := by
  simpa using (insertRecord_perm register r).length_eq

theorem mem_insertRecord {register : List PassRecord} {r x : PassRecord} :
    x ∈ insertRecord register r ↔ x = r ∨ x ∈ register := by
  simpa using (insertRecord_perm register r).mem_iff (a := x)

/-- The register stays in the order of its keys when a record of a new key is put in. -/
theorem insertRecord_sorted {register : List PassRecord} {r : PassRecord}
    (h : register.Pairwise fun a b => a.key < b.key) (hr : ∀ x ∈ register, x.key ≠ r.key) :
    (insertRecord register r).Pairwise fun a b => a.key < b.key := by
  induction register with
  | nil => exact List.pairwise_singleton ..
  | cons x rest ih =>
    rw [List.pairwise_cons] at h
    unfold insertRecord
    split
    · rename_i hlt
      refine List.pairwise_cons.mpr ⟨fun y hy => ?_, List.pairwise_cons.mpr h⟩
      rcases List.mem_cons.mp hy with rfl | hy
      · exact hlt
      · exact hlt.trans (h.1 y hy)
    · rename_i hle
      refine List.pairwise_cons.mpr ⟨fun y hy => ?_, ih h.2 fun y hy => hr y (List.mem_cons_of_mem _ hy)⟩
      rcases mem_insertRecord.mp hy with rfl | hy
      · have := hr x List.mem_cons_self
        omega
      · exact h.1 y hy

theorem removeRecord_sublist (register : List PassRecord) (t : Nat) (i : Fin 64) :
    (removeRecord register t i).Sublist register := List.filter_sublist

theorem mem_removeRecord {register : List PassRecord} {t : Nat} {i : Fin 64} {r : PassRecord} :
    r ∈ removeRecord register t i ↔ r ∈ register ∧ ¬ (r.ticket = t ∧ r.lane = i) := by
  simp [removeRecord, ← PassRecord.key_eq]

theorem removeRecord_eq (register : List PassRecord) (t : Nat) (i : Fin 64) :
    removeRecord register t i = register.filter fun q => decide (¬ (q.ticket = t ∧ q.lane = i)) := by
  unfold removeRecord
  congr 1
  funext q
  rw [Bool.eq_iff_iff, bne_iff_ne, decide_eq_true_iff, ne_eq, PassRecord.key_eq]

theorem restateRecord_eq (register : List PassRecord) (t : Nat) (i : Fin 64) (st : PassState) :
    restateRecord register t i st = register.map fun q => if q.ticket = t ∧ q.lane = i then { q with state := st } else q := by
  unfold restateRecord
  congr 1
  funext q
  simp only [PassRecord.key_eq]

/-- A restated register has the keys it had, in their order. -/
theorem restateRecord_keys (register : List PassRecord) (t : Nat) (i : Fin 64) (st : PassState) :
    (restateRecord register t i st).map PassRecord.key = register.map PassRecord.key := by
  simp only [restateRecord, List.map_map]
  congr 1
  funext q
  simp only [Function.comp_apply]
  split <;> rfl

/-- What the sweep keeps of a record has the record's key, party and issue time (R50, R83). -/
theorem sweepRecord_some {gone : List Window} {n : Nat} {r q : PassRecord} (h : sweepRecord gone n r = some q) :
    q.key = r.key ∧ q.party = r.party ∧ q.lane = r.lane ∧ (q = r ∨ q.state = .carried n) := by
  unfold sweepRecord at h
  split at h
  · cases h; simp
  · split at h
    · cases h
    · cases h; simp
  · split at h
    · cases h; simp
    · split at h
      · cases h; exact ⟨rfl, rfl, rfl, .inr rfl⟩
      · cases h

/-- A register in the order of its keys holds one record of a key. -/
theorem eq_of_key_eq {register : List PassRecord} (h : register.Pairwise fun a b => a.key < b.key) {r q : PassRecord}
    (hr : r ∈ register) (hq : q ∈ register) (hk : r.key = q.key) : r = q := by
  induction register with
  | nil => cases hr
  | cons x rest ih =>
    rw [List.pairwise_cons] at h
    rcases List.mem_cons.mp hr with rfl | hr' <;> rcases List.mem_cons.mp hq with rfl | hq'
    · rfl
    · have := h.1 q hq'; omega
    · have := h.1 r hr'; omega
    · exact ih h.2 hr' hq'

end Sys2Proof.Machine
end

