-- ==== Sys2Proof/WellFormed.lean ====
section
/-! DEFINITION. Which commands are well formed: each operand within the width its frame field gives it. -/

namespace Sys2Proof

/-- A station address has 14 bits (R194). -/
def addressOk (a : Nat) : Bool := a < 16384

/-- The header of a request frame: a 14-bit source (R194) and a 16-bit tag (R175). -/
def MgmtHeader.wf (h : MgmtHeader) : Bool := addressOk h.source && h.tag < 65536

/-- The arguments of a request stand behind tag and code in a payload of at most 96 bytes (R194, R197). -/
def argsOk (args : List Byte) : Bool := args.length ≤ 93

/-- A scan's origin: a 14-bit source, and the ride number 1 to 250 that classification asks for (R92). -/
def ScanOrigin.wf (o : ScanOrigin) : Bool := addressOk o.source && 1 ≤ o.ride && o.ride ≤ 250

/-- A field one byte wide (R197). -/
def byteOk (v : Nat) : Bool := v < 256

/-- A field four bytes wide (R197). -/
def wordOk (v : Nat) : Bool := v < 4294967296

/-- Well-formed commands. `exec` is total on the others too. -/
def Instr.wf : Instr → Bool
  | .powerReset => true
  | .engineReset => true
  | .segmentReset _ => true
  | .secondArrival => true
  | .minuteBoundary => true
  | .periodBoundary => true
  | .clockEndLatch => true
  | .frameReceive _ _ => true
  | .routeFrame _ => true
  | .countEntry _ c => byteOk c
  | .countBoarding _ c c2 => byteOk c && byteOk c2
  | .passRequest o _ t p => o.wf && wordOk t && byteOk p
  | .passReturn o _ t st rc => o.wf && wordOk t && wordOk st && rc ≤ 172799
  | .rideStatus _ st => byteOk st
  | .setMode h args => h.wf && argsOk args
  | .readTable h args => h.wf && argsOk args
  | .writeTable h args => h.wf && argsOk args
  | .openDay h args => h.wf && argsOk args
  | .closeDay h args => h.wf && argsOk args
  | .postGrants h args => h.wf && argsOk args
  | .grantResolve => true
  | .voidPass h args => h.wf && argsOk args
  | .queryPass h args => h.wf && argsOk args
  | .clearAttention h args => h.wf && argsOk args
  | .injectNotice h args => h.wf && argsOk args
  | .resetEngine h _ => h.wf
  | .resetSegment h _ => h.wf
  | .readStatus h args => h.wf && argsOk args
  | .flashRead h args _ => h.wf && argsOk args
  | .flashWrite h args => h.wf && argsOk args
  | .flashStatus h args => h.wf && argsOk args
  | .flashWriteComplete _ => true
  | .mgmtReplyOffer => true
  | .boardFrameOffer _ => true
  | .attnFrameOffer _ => true
  | .transmitStart _ => true
  | .transmitComplete _ => true
  | .loaderProbe _ => true
  | .loaderEntry _ => true
  | .resetInputAsserted => true

end Sys2Proof
end

