-- ==== Sys2Proof/Laws/PerInstr.lean ====
section
/-! SUPPORT. What holds of every command as syntax, one lemma per command: a well-formed command fits the frames it comes in. -/

namespace Sys2Proof.Laws

/-- The argument bytes a management request carries behind its tag and code. -/
def argumentsOf : Instr → List Byte
  | .powerReset => []
  | .engineReset => []
  | .segmentReset _ => []
  | .secondArrival => []
  | .minuteBoundary => []
  | .periodBoundary => []
  | .clockEndLatch => []
  | .frameReceive _ _ => []
  | .routeFrame _ => []
  | .countEntry _ _ => []
  | .countBoarding _ _ _ => []
  | .passRequest _ _ _ _ => []
  | .passReturn _ _ _ _ _ => []
  | .rideStatus _ _ => []
  | .setMode _ args => args
  | .readTable _ args => args
  | .writeTable _ args => args
  | .openDay _ args => args
  | .closeDay _ args => args
  | .postGrants _ args => args
  | .grantResolve => []
  | .voidPass _ args => args
  | .queryPass _ args => args
  | .clearAttention _ args => args
  | .injectNotice _ args => args
  | .resetEngine _ segment => [0, segment]
  | .resetSegment _ segment => [0, segment]
  | .readStatus _ args => args
  | .flashRead _ args _ => args
  | .flashWrite _ args => args
  | .flashStatus _ args => args
  | .flashWriteComplete _ => []
  | .mgmtReplyOffer => []
  | .boardFrameOffer _ => []
  | .attnFrameOffer _ => []
  | .transmitStart _ => []
  | .transmitComplete _ => []
  | .loaderProbe _ => []
  | .loaderEntry _ => []
  | .resetInputAsserted => []

/-- The station that a reply or an answer to a command is sent to. -/
def stationOf : Instr → Option Nat
  | .powerReset => none
  | .engineReset => none
  | .segmentReset _ => none
  | .secondArrival => none
  | .minuteBoundary => none
  | .periodBoundary => none
  | .clockEndLatch => none
  | .frameReceive _ _ => none
  | .routeFrame _ => none
  | .countEntry _ _ => none
  | .countBoarding _ _ _ => none
  | .passRequest origin _ _ _ => some origin.source
  | .passReturn origin _ _ _ _ => some origin.source
  | .rideStatus _ _ => none
  | .setMode header _ => some header.source
  | .readTable header _ => some header.source
  | .writeTable header _ => some header.source
  | .openDay header _ => some header.source
  | .closeDay header _ => some header.source
  | .postGrants header _ => some header.source
  | .grantResolve => none
  | .voidPass header _ => some header.source
  | .queryPass header _ => some header.source
  | .clearAttention header _ => some header.source
  | .injectNotice header _ => some header.source
  | .resetEngine header _ => some header.source
  | .resetSegment header _ => some header.source
  | .readStatus header _ => some header.source
  | .flashRead header _ _ => some header.source
  | .flashWrite header _ => some header.source
  | .flashStatus header _ => some header.source
  | .flashWriteComplete _ => none
  | .mgmtReplyOffer => none
  | .boardFrameOffer _ => none
  | .attnFrameOffer _ => none
  | .transmitStart _ => none
  | .transmitComplete _ => none
  | .loaderProbe _ => none
  | .loaderEntry _ => none
  | .resetInputAsserted => none

/-- A well-formed command fits the frames it comes in: its request, tag and code with the arguments, fits a payload of 96 bytes, and
the station that it is answered to has a 14-bit address (R194, R197). -/
def FitsFrame.Statement (i : Instr) : Prop :=
  i.wf = true → 3 + (argumentsOf i).length ≤ 96 ∧ ∀ a, stationOf i = some a → a < 16384

/-- A request whose header and arguments are well formed fits. -/
theorem FitsFrame.of_request {h : MgmtHeader} {args : List Byte} (hw : h.wf = true) (ha : args.length ≤ 93) :
    3 + args.length ≤ 96 ∧ ∀ a, some h.source = some a → a < 16384 := by
  refine ⟨by omega, fun a e => ?_⟩
  cases e
  simp only [MgmtHeader.wf, addressOk, Bool.and_eq_true, decide_eq_true_eq] at hw
  exact hw.1

/-- A scan's origin answers to a 14-bit address. -/
theorem FitsFrame.of_origin {o : ScanOrigin} (hw : o.wf = true) : ∀ a, some o.source = some a → a < 16384 := by
  intro a e
  cases e
  simp only [ScanOrigin.wf, addressOk, Bool.and_eq_true, decide_eq_true_eq] at hw
  exact hw.1.1

theorem FitsFrame.powerReset : FitsFrame.Statement .powerReset := fun _ => by
  simp [argumentsOf, stationOf]

theorem FitsFrame.engineReset : FitsFrame.Statement .engineReset := fun _ => by
  simp [argumentsOf, stationOf]

theorem FitsFrame.segmentReset (k : Fin 6) : FitsFrame.Statement (.segmentReset k) := fun _ => by
  simp [argumentsOf, stationOf]

theorem FitsFrame.secondArrival : FitsFrame.Statement .secondArrival := fun _ => by
  simp [argumentsOf, stationOf]

theorem FitsFrame.minuteBoundary : FitsFrame.Statement .minuteBoundary := fun _ => by
  simp [argumentsOf, stationOf]

theorem FitsFrame.periodBoundary : FitsFrame.Statement .periodBoundary := fun _ => by
  simp [argumentsOf, stationOf]

theorem FitsFrame.clockEndLatch : FitsFrame.Statement .clockEndLatch := fun _ => by
  simp [argumentsOf, stationOf]

theorem FitsFrame.frameReceive (port : Port) (bytes : List Byte) : FitsFrame.Statement (.frameReceive port bytes) := fun _ => by
  simp [argumentsOf, stationOf]

theorem FitsFrame.routeFrame (port : Port) : FitsFrame.Statement (.routeFrame port) := fun _ => by
  simp [argumentsOf, stationOf]

theorem FitsFrame.countEntry (lane : Fin 64) (count : Nat) : FitsFrame.Statement (.countEntry lane count) := fun _ => by
  simp [argumentsOf, stationOf]

theorem FitsFrame.countBoarding (lane : Fin 64) (count count2 : Nat) :
    FitsFrame.Statement (.countBoarding lane count count2) := fun _ => by
  simp [argumentsOf, stationOf]

theorem FitsFrame.passRequest (origin : ScanOrigin) (lane : Fin 64) (ticket party : Nat) :
    FitsFrame.Statement (.passRequest origin lane ticket party) := fun h => by
  simp only [Instr.wf, Bool.and_eq_true] at h
  exact ⟨by simp [argumentsOf], FitsFrame.of_origin h.1.1⟩

theorem FitsFrame.passReturn (origin : ScanOrigin) (lane : Fin 64) (ticket stamp receipt : Nat) :
    FitsFrame.Statement (.passReturn origin lane ticket stamp receipt) := fun h => by
  simp only [Instr.wf, Bool.and_eq_true] at h
  exact ⟨by simp [argumentsOf], FitsFrame.of_origin h.1.1.1⟩

theorem FitsFrame.rideStatus (lane : Fin 64) (status : Nat) : FitsFrame.Statement (.rideStatus lane status) := fun _ => by
  simp [argumentsOf, stationOf]

theorem FitsFrame.setMode (header : MgmtHeader) (args : List Byte) : FitsFrame.Statement (.setMode header args) := fun h => by
  simp only [Instr.wf, argsOk, Bool.and_eq_true, decide_eq_true_eq] at h
  exact FitsFrame.of_request h.1 h.2

theorem FitsFrame.readTable (header : MgmtHeader) (args : List Byte) : FitsFrame.Statement (.readTable header args) := fun h => by
  simp only [Instr.wf, argsOk, Bool.and_eq_true, decide_eq_true_eq] at h
  exact FitsFrame.of_request h.1 h.2

theorem FitsFrame.writeTable (header : MgmtHeader) (args : List Byte) :
    FitsFrame.Statement (.writeTable header args) := fun h => by
  simp only [Instr.wf, argsOk, Bool.and_eq_true, decide_eq_true_eq] at h
  exact FitsFrame.of_request h.1 h.2

theorem FitsFrame.openDay (header : MgmtHeader) (args : List Byte) : FitsFrame.Statement (.openDay header args) := fun h => by
  simp only [Instr.wf, argsOk, Bool.and_eq_true, decide_eq_true_eq] at h
  exact FitsFrame.of_request h.1 h.2

theorem FitsFrame.closeDay (header : MgmtHeader) (args : List Byte) : FitsFrame.Statement (.closeDay header args) := fun h => by
  simp only [Instr.wf, argsOk, Bool.and_eq_true, decide_eq_true_eq] at h
  exact FitsFrame.of_request h.1 h.2

theorem FitsFrame.postGrants (header : MgmtHeader) (args : List Byte) :
    FitsFrame.Statement (.postGrants header args) := fun h => by
  simp only [Instr.wf, argsOk, Bool.and_eq_true, decide_eq_true_eq] at h
  exact FitsFrame.of_request h.1 h.2

theorem FitsFrame.grantResolve : FitsFrame.Statement .grantResolve := fun _ => by
  simp [argumentsOf, stationOf]

theorem FitsFrame.voidPass (header : MgmtHeader) (args : List Byte) : FitsFrame.Statement (.voidPass header args) := fun h => by
  simp only [Instr.wf, argsOk, Bool.and_eq_true, decide_eq_true_eq] at h
  exact FitsFrame.of_request h.1 h.2

theorem FitsFrame.queryPass (header : MgmtHeader) (args : List Byte) : FitsFrame.Statement (.queryPass header args) := fun h => by
  simp only [Instr.wf, argsOk, Bool.and_eq_true, decide_eq_true_eq] at h
  exact FitsFrame.of_request h.1 h.2

theorem FitsFrame.clearAttention (header : MgmtHeader) (args : List Byte) :
    FitsFrame.Statement (.clearAttention header args) := fun h => by
  simp only [Instr.wf, argsOk, Bool.and_eq_true, decide_eq_true_eq] at h
  exact FitsFrame.of_request h.1 h.2

theorem FitsFrame.injectNotice (header : MgmtHeader) (args : List Byte) :
    FitsFrame.Statement (.injectNotice header args) := fun h => by
  simp only [Instr.wf, argsOk, Bool.and_eq_true, decide_eq_true_eq] at h
  exact FitsFrame.of_request h.1 h.2

theorem FitsFrame.resetEngine (header : MgmtHeader) (segment : Byte) :
    FitsFrame.Statement (.resetEngine header segment) := fun h => by
  exact FitsFrame.of_request (args := [0, segment]) h (by simp)

theorem FitsFrame.resetSegment (header : MgmtHeader) (segment : Byte) :
    FitsFrame.Statement (.resetSegment header segment) := fun h => by
  exact FitsFrame.of_request (args := [0, segment]) h (by simp)

theorem FitsFrame.readStatus (header : MgmtHeader) (args : List Byte) :
    FitsFrame.Statement (.readStatus header args) := fun h => by
  simp only [Instr.wf, argsOk, Bool.and_eq_true, decide_eq_true_eq] at h
  exact FitsFrame.of_request h.1 h.2

theorem FitsFrame.flashRead (header : MgmtHeader) (args : List Byte) (given : Nat) :
    FitsFrame.Statement (.flashRead header args given) := fun h => by
  simp only [Instr.wf, argsOk, Bool.and_eq_true, decide_eq_true_eq] at h
  exact FitsFrame.of_request h.1 h.2

theorem FitsFrame.flashWrite (header : MgmtHeader) (args : List Byte) :
    FitsFrame.Statement (.flashWrite header args) := fun h => by
  simp only [Instr.wf, argsOk, Bool.and_eq_true, decide_eq_true_eq] at h
  exact FitsFrame.of_request h.1 h.2

theorem FitsFrame.flashStatus (header : MgmtHeader) (args : List Byte) :
    FitsFrame.Statement (.flashStatus header args) := fun h => by
  simp only [Instr.wf, argsOk, Bool.and_eq_true, decide_eq_true_eq] at h
  exact FitsFrame.of_request h.1 h.2

theorem FitsFrame.flashWriteComplete (verified : Bool) : FitsFrame.Statement (.flashWriteComplete verified) := fun _ => by
  simp [argumentsOf, stationOf]

theorem FitsFrame.mgmtReplyOffer : FitsFrame.Statement .mgmtReplyOffer := fun _ => by
  simp [argumentsOf, stationOf]

theorem FitsFrame.boardFrameOffer (port : Port) : FitsFrame.Statement (.boardFrameOffer port) := fun _ => by
  simp [argumentsOf, stationOf]

theorem FitsFrame.attnFrameOffer (destination : Port) : FitsFrame.Statement (.attnFrameOffer destination) := fun _ => by
  simp [argumentsOf, stationOf]

theorem FitsFrame.transmitStart (port : Port) : FitsFrame.Statement (.transmitStart port) := fun _ => by
  simp [argumentsOf, stationOf]

theorem FitsFrame.transmitComplete (port : Port) : FitsFrame.Statement (.transmitComplete port) := fun _ => by
  simp [argumentsOf, stationOf]

theorem FitsFrame.loaderProbe (header : Option Nat) : FitsFrame.Statement (.loaderProbe header) := fun _ => by
  simp [argumentsOf, stationOf]

theorem FitsFrame.loaderEntry (given : Nat) : FitsFrame.Statement (.loaderEntry given) := fun _ => by
  simp [argumentsOf, stationOf]

theorem FitsFrame.resetInputAsserted : FitsFrame.Statement .resetInputAsserted := fun _ => by
  simp [argumentsOf, stationOf]

end Sys2Proof.Laws
end

