-- ==== Sys2Proof/Laws/Ports.lean ====
section
/-! SUPPORT. What the shared operations do at the ports: which leave queues and counters alone, and what the others put where. -/

namespace Sys2Proof.Machine

/-! ## Queues and counters kept -/

theorem PortState.Kept.refl (q : PortState) : q.Kept q := ⟨rfl, rfl, rfl, rfl, fun _ _ h _ => h⟩

theorem PortState.Kept.trans {q r u : PortState} (h : q.Kept r) (k : r.Kept u) : q.Kept u :=
  ⟨k.1.trans h.1, k.2.1.trans h.2.1, k.2.2.1.trans h.2.2.1, k.2.2.2.1.trans h.2.2.2.1, fun n f hf hk =>
    k.2.2.2.2 n f (h.2.2.2.2 n f hf hk) (h.2.1 ▸ hk)⟩

/-- A kept port's transmit queue keeps its length. -/
theorem PortState.Kept.length {q r : PortState} (h : q.Kept r) : r.tx.length = q.tx.length := by
  simpa using congrArg List.length h.2.2.2.1

theorem State.PortsKept.refl (s : State) : s.PortsKept s := fun _ => .refl _

theorem State.PortsKept.trans {s t u : State} (h : s.PortsKept t) (k : t.PortsKept u) : s.PortsKept u := fun p =>
  (h p).trans (k p)

/-- States with the same ports. -/
theorem State.PortsKept.of_ports {s t : State} (h : t.ports = s.ports) : s.PortsKept t := fun p => by
  rw [State.port, State.port, h]; exact .refl _

theorem setPort_portsKept {s : State} {p : Port} {q : PortState} (h : (s.port p).Kept q) : s.PortsKept (s.setPort p q) :=
  fun r => by
    by_cases e : r = p
    · subst e; simpa using h
    · rw [setPort_port_other s q e]; exact .refl _

/-- One frame of a rewritten queue: an attention frame has the new bytes, and any other is as it was. -/
theorem rewriteFrame_spec (bytes : List Byte) (f : TxFrame) :
    (if f.producer = .attention then { f with bytes := bytes } else f : TxFrame).producer = f.producer ∧
      (f.producer ≠ .attention → (if f.producer = .attention then { f with bytes := bytes } else f : TxFrame) = f) := by
  split <;> simp_all

/-- A waiting ATTN frame rewritten in place keeps the port (R121, R165). -/
theorem rewriteWaiting_kept (q : PortState) (bytes : List Byte) :
    q.Kept { q with tx := rewriteWaiting q.sending q.tx bytes } := by
  refine ⟨rfl, rfl, rfl, ?_, ?_⟩
  · show (rewriteWaiting q.sending q.tx bytes).map TxFrame.producer = _
    unfold rewriteWaiting
    split
    · rename_i ht
      rw [ht]
      simp [Function.comp_def, rewriteFrame_spec]
    · simp [Function.comp_def, rewriteFrame_spec]
  · intro n f hf hk
    show (rewriteWaiting q.sending q.tx bytes)[n]? = some f
    unfold rewriteWaiting
    split
    · rename_i hs ht
      rw [ht] at hf
      cases n with
      | zero => exact hf
      | succ n =>
        have hp : f.producer ≠ .attention := hk.resolve_right fun h => absurd h.1 (Nat.succ_ne_zero n)
        simp only [List.getElem?_cons_succ, List.getElem?_map] at hf ⊢
        rw [hf, Option.map_some, (rewriteFrame_spec bytes f).2 hp]
    · rename_i hs
      rw [List.getElem?_map, hf, Option.map_some]
      by_cases hp : f.producer = .attention
      · obtain ⟨rfl, hsend⟩ := hk.resolve_left (fun h => h hp)
        cases htx : q.tx with
        | nil => rw [htx] at hf; cases hf
        | cons a l => exact absurd htx (hs a l hsend)
      · rw [(rewriteFrame_spec bytes f).2 hp]

theorem produceQuietly_portsKept (s : State) (d : Port) : s.PortsKept (s.produceQuietly d) := by
  unfold State.produceQuietly
  dsimp only
  split
  · exact State.PortsKept.trans (setPort_portsKept (rewriteWaiting_kept (s.port d) (s.attnFrame d (s.report d)))) (.of_ports rfl)
  · exact .of_ports rfl

theorem produce_portsKept (s : State) (d : Port) : s.PortsKept (s.produce d) := by
  unfold State.produce
  split
  · dsimp only
    split
    · exact (produceQuietly_portsKept s d).trans (.of_ports (by simp))
    · exact produceQuietly_portsKept s d
  · exact produceQuietly_portsKept s d

theorem evaluate_portsKept (s : State) (d : Port) : s.PortsKept (s.evaluate d) := by
  unfold State.evaluate
  split
  · exact .refl s
  · exact produce_portsKept s d

/-- A fold keeps the ports when each of its steps does. -/
theorem foldl_portsKept {f : State → Port → State} (h : ∀ (s : State) (p : Port), s.PortsKept (f s p)) (ps : List Port) (s : State) :
    s.PortsKept (ps.foldl f s) := by
  induction ps generalizing s with
  | nil => exact .refl s
  | cons p ps ih => exact (h s p).trans (ih _)

theorem evaluateEach_portsKept (s : State) (ds : List Port) : s.PortsKept (s.evaluateEach ds) :=
  foldl_portsKept evaluate_portsKept ds s

theorem requeueSlot_portsKept (s : State) (d : Port) : s.PortsKept (s.requeueSlot d) := by
  unfold State.requeueSlot
  split
  · exact State.PortsKept.trans (t := s.setAttnPort d { s.attnPort d with slot := .empty }) (.of_ports rfl)
      (produceQuietly_portsKept _ d)
  · exact .refl s

theorem oweBoardRuns_portsKept (s : State) (p : Port) (n : Nat) : s.PortsKept (s.oweBoardRuns p n) := by
  unfold State.oweBoardRuns
  split
  · exact setPort_portsKept ⟨rfl, rfl, rfl, rfl, fun _ _ h _ => h⟩
  · exact .refl s

theorem oweRuns_portsKept (s : State) (runs : Port → Nat) : s.PortsKept (s.oweRuns runs) := by
  unfold State.oweRuns
  generalize allPorts = ps
  induction ps generalizing s with
  | nil => exact .refl s
  | cons p ps ih => exact (oweBoardRuns_portsKept s p _).trans (ih _)

theorem markPublished_portsKept (s : State) (select : Fin 64 → Bool) : s.PortsKept (s.markPublished select) :=
  State.PortsKept.trans (t := s.markLines fun b => select b.lane) (.of_ports (by simp)) (oweRuns_portsKept _ _)

theorem publishLane_portsKept (s : State) (i : Fin 64) (n : Nat) : s.PortsKept (s.publishLane i n) :=
  State.PortsKept.trans (t := s.setLane i _) (.of_ports rfl) (markPublished_portsKept _ _)

theorem publishAll_portsKept (s : State) : s.PortsKept s.publishAll := by
  unfold State.publishAll
  dsimp only
  refine State.PortsKept.trans (.of_ports ?_) (oweRuns_portsKept _ _)
  simp

theorem resend_portsKept (s : State) (p : Port) : s.PortsKept (s.resend p) := by
  unfold State.resend
  refine State.PortsKept.trans ?_ (produceQuietly_portsKept _ p)
  exact State.PortsKept.trans (t := s.markLines fun b => b.port == p) (.of_ports (by simp)) (oweBoardRuns_portsKept _ _ _)

theorem linkUpNotice_portsKept (s : State) (p : Port) : s.PortsKept (s.linkUpNotice p) :=
  (resend_portsKept s p).trans (.of_ports (by simp [State.linkUpNotice]))

/-- What refusing the offers still owed does: none is owed any more, and those of a PREPARED frame are counted. -/
theorem refuseOwed_eq (s : State) (d : Port) :
    s.refuseOwed d = { s with
      attn := { s.attn with ports := put s.attn.ports (portIndex d) { s.attnPort d with offersDue := 0 } }
      counters := { s.counters with attnRefused :=
        match (s.attnPort d).slot with
        | .prepared _ => min 65535 (s.counters.attnRefused + (s.attnPort d).offersDue)
        | _ => s.counters.attnRefused } } := by
  unfold State.refuseOwed
  split <;> simp_all <;> rfl

theorem refuseOwed_portsKept (s : State) (d : Port) : s.PortsKept (s.refuseOwed d) :=
  .of_ports (congrArg State.ports (s.refuseOwed_frame d) :)

theorem loaderReady_portsKept (s : State) (outcome : LoaderOutcome) : s.PortsKept (s.loaderReady outcome) :=
  State.PortsKept.trans (t := { s with loader := { s.loader with state := .ready, outcome := outcome } }) (.of_ports rfl)
    ((foldl_portsKept refuseOwed_portsKept _ _).trans (foldl_portsKept linkUpNotice_portsKept _ _))

theorem giveGrantHeld_portsKept {u s t : State} (h : u.PortsKept t) : u.PortsKept (s.giveGrantHeld t) := by
  unfold State.giveGrantHeld
  split
  · exact h
  · exact h.trans (evaluate_portsKept t .tp)

theorem changeMode_portsKept (s : State) (i : Fin 64) (m : LaneMode) (e : Bool) : s.PortsKept (s.changeMode i m e) := by
  unfold State.changeMode
  split
  · exact .refl s
  · dsimp only
    split
    · exact State.PortsKept.trans (State.PortsKept.trans (t := s.setLane i _) (.of_ports rfl) (publishLane_portsKept _ _ _))
        (evaluateEach_portsKept _ _)
    · exact State.PortsKept.trans (t := s.setLane i _) (.of_ports rfl) (evaluateEach_portsKept _ _)

/-! ## Runs of board offers -/

/-- The links are decided by the reset input, the loader's state and the segment records. -/
theorem linkUp_congr {s t : State} (h1 : t.resetHeld = s.resetHeld) (h2 : t.loader.state = s.loader.state)
    (h3 : t.segments = s.segments) (p : Port) : t.linkUp p = s.linkUp p := by
  cases p <;> simp [State.linkUp, State.inService, State.portEnabled, State.segment, h1, h2, h3]

@[simp] theorem produceQuietly_boardRuns (s : State) (d p : Port) :
    ((s.produceQuietly d).port p).boardRuns = (s.port p).boardRuns := by
  unfold State.produceQuietly
  dsimp only
  split
  · by_cases e : p = d
    · subst e; simp
    · simp [setPort_port_other _ _ e]
  · rfl

@[simp] theorem produce_boardRuns (s : State) (d p : Port) : ((s.produce d).port p).boardRuns = (s.port p).boardRuns := by
  rw [← produceQuietly_boardRuns s d p]
  unfold State.produce State.oweOffer
  dsimp only
  repeat' (first | rfl | split)

@[simp] theorem evaluate_boardRuns (s : State) (d p : Port) : ((s.evaluate d).port p).boardRuns = (s.port p).boardRuns := by
  unfold State.evaluate
  split
  · rfl
  · exact produce_boardRuns s d p

@[simp] theorem evaluateEach_boardRuns (s : State) (ds : List Port) (p : Port) :
    ((s.evaluateEach ds).port p).boardRuns = (s.port p).boardRuns := by
  unfold State.evaluateEach
  induction ds generalizing s with
  | nil => rfl
  | cons d ds ih => exact (ih _).trans (evaluate_boardRuns s d p)

/-- All the owing of runs to one port does (R138). -/
theorem oweBoardRuns_boardRuns (s : State) (q : Port) (n : Nat) (p : Port) :
    ((s.oweBoardRuns q n).port p).boardRuns =
      (s.port p).boardRuns + if p = q ∧ s.linkUp p = true then n else 0 := by
  unfold State.oweBoardRuns
  by_cases e : p = q
  · subst e
    by_cases h : s.linkUp p = true <;> simp [h]
  · split
    · rw [setPort_port_other _ _ e, if_neg fun h => e h.1, Nat.add_zero]
    · rw [if_neg fun h => e h.1, Nat.add_zero]

/-- The owing of runs to several ports, one after another. -/
theorem foldl_oweBoardRuns_boardRuns (runs : Port → Nat) (ps : List Port) (s : State) (p : Port) :
    ((ps.foldl (fun t q => t.oweBoardRuns q (runs q)) s).port p).boardRuns =
      (s.port p).boardRuns + if s.linkUp p = true then ps.count p * runs p else 0 := by
  induction ps generalizing s with
  | nil => simp
  | cons q ps ih =>
    rw [List.foldl_cons, ih, oweBoardRuns_boardRuns, List.count_cons,
      linkUp_congr (s := s) (t := s.oweBoardRuns q (runs q)) (by simp) (by simp) (by simp) p]
    by_cases e : p = q
    · subst e
      by_cases h : s.linkUp p = true
      · simp [h, Nat.add_mul]
        omega
      · simp [h]
    · simp [e, Ne.symm e]

theorem allPorts_count (p : Port) : allPorts.count p = 1 := by
  cases p with
  | tp => decide
  | sp z => revert z; decide

/-- All the owing of runs does: each UP port is owed its own number more (R138). -/
theorem oweRuns_runsOwed (s : State) (runs : Port → Nat) : s.RunsOwed (s.oweRuns runs) runs := fun p => by
  rw [State.oweRuns, foldl_oweBoardRuns_boardRuns, allPorts_count, Nat.one_mul]

/-- The runs of offers of a publish: one for each lane of the selection with an enabled line on the port (R138). -/
theorem publishRuns_eq (s : State) (select : Fin 64 → Bool) (p : Port) :
    s.publishRuns select p = ((List.finRange 64).filter fun i => select i && s.hasLine i p).length := by
  have (i : Fin 64) : (s.lines.toList.any fun b => b.enable && b.lane == i && b.port == p) = s.hasLine i p := by
    rw [Bool.eq_iff_iff, State.hasLine, List.any_eq_true, List.any_eq_true]
    constructor
    · rintro ⟨b, hb, h⟩
      obtain ⟨j, hj, rfl⟩ := List.mem_iff_getElem.1 hb
      exact ⟨⟨j, by simpa using hj⟩, List.mem_finRange _, h⟩
    · rintro ⟨j, -, h⟩
      exact ⟨s.lines.get j, by simp [Vector.get], h⟩
  simp only [State.publishRuns, this]

/-- All a publish of a selection of lanes does to the runs owed (R135, R138). -/
theorem markPublished_runsOwed (s : State) (select : Fin 64 → Bool) :
    s.RunsOwed (s.markPublished select) fun p => ((List.finRange 64).filter fun i => select i && s.hasLine i p).length := fun p => by
  have h := oweRuns_runsOwed (s.markLines fun b => select b.lane) (s.publishRuns select) p
  rw [linkUp_congr (s := s) (by simp) (by simp) (by simp) p, publishRuns_eq] at h
  exact h

/-! ## Reports alone -/

theorem State.RunsOwed.of_boardRuns {s t : State} (h : ∀ p, (t.port p).boardRuns = (s.port p).boardRuns) :
    s.RunsOwed t fun _ => 0 := fun p => by
  simp [h p]

theorem evaluate_onlyReports (s : State) (d : Port) : s.OnlyReports (s.evaluate d) :=
  ⟨s.evaluate_frame d, evaluate_portsKept s d, .of_boardRuns (evaluate_boardRuns s d)⟩

theorem evaluateEach_onlyReports (s : State) (ds : List Port) : s.OnlyReports (s.evaluateEach ds) :=
  ⟨s.evaluateEach_frame ds, evaluateEach_portsKept s ds, .of_boardRuns (evaluateEach_boardRuns s ds)⟩

theorem State.OnlyReports.refl (s : State) : s.OnlyReports s := ⟨rfl, .refl s, .of_boardRuns fun _ => rfl⟩

/-! ## Links -/

@[simp] theorem evaluate_linkUp (s : State) (d p : Port) : (s.evaluate d).linkUp p = s.linkUp p :=
  linkUp_congr (by simp) (by simp) (by simp) p

@[simp] theorem evaluateEach_linkUp (s : State) (ds : List Port) (p : Port) : (s.evaluateEach ds).linkUp p = s.linkUp p :=
  linkUp_congr (by simp) (by simp) (by simp) p

@[simp] theorem produceQuietly_linkUp (s : State) (d p : Port) : (s.produceQuietly d).linkUp p = s.linkUp p :=
  linkUp_congr (by simp) (by simp) (by simp) p

@[simp] theorem produce_linkUp (s : State) (d p : Port) : (s.produce d).linkUp p = s.linkUp p :=
  linkUp_congr (by simp) (by simp) (by simp) p

@[simp] theorem markLines_linkUp (s : State) (f : BoardLine → Bool) (p : Port) : (s.markLines f).linkUp p = s.linkUp p :=
  linkUp_congr (by simp) (by simp) (by simp) p

@[simp] theorem oweBoardRuns_linkUp (s : State) (q : Port) (n : Nat) (p : Port) : (s.oweBoardRuns q n).linkUp p = s.linkUp p :=
  linkUp_congr (by simp) (by simp) (by simp) p

@[simp] theorem oweRuns_linkUp (s : State) (runs : Port → Nat) (p : Port) : (s.oweRuns runs).linkUp p = s.linkUp p :=
  linkUp_congr (by simp) (by simp) (by simp) p

@[simp] theorem enqueue_linkUp (s : State) (q : Port) (f : TxFrame) (p : Port) : (s.enqueue q f).linkUp p = s.linkUp p :=
  setPort_linkUp ..

@[simp] theorem flush_linkUp (s : State) (q p : Port) : (s.flush q).linkUp p = s.linkUp p := setPort_linkUp ..

@[simp] theorem countPort_linkUp (s : State) (q : Port) (f : PortCounters → PortCounters) (p : Port) :
    (s.countPort q f).linkUp p = s.linkUp p := setPort_linkUp ..

/-! ## Frames put into queues -/

theorem setPort_port (s : State) (p r : Port) (q : PortState) : (s.setPort p q).port r = if r = p then q else s.port r := by
  split
  · subst r; simp
  · exact setPort_port_other s q ‹_›

theorem enqueue_port (s : State) (p r : Port) (f : TxFrame) :
    (s.enqueue p f).port r = if r = p then { s.port p with tx := (s.port p).tx ++ [f] } else s.port r := setPort_port ..

theorem flush_port (s : State) (p r : Port) :
    (s.flush p).port r =
      if r = p then { s.port p with rx := [], tx := [], sending := false, boardRuns := 0 } else s.port r := setPort_port ..

theorem countPort_port (s : State) (p r : Port) (f : PortCounters → PortCounters) :
    (s.countPort p f).port r = if r = p then { s.port p with counters := f (s.port p).counters } else s.port r := setPort_port ..

/-- A port admits a generated frame on an UP link with fewer than 48 frames waiting (R120). -/
theorem admits_generated {s : State} {p : Port} {k : Producer} (hk : k ≠ .forwarded) :
    s.admits p k = true ↔ s.linkUp p = true ∧ (s.port p).tx.length < 48 := by
  have : admitLimit k = 48 := by cases k <;> first | rfl | exact absurd rfl hk
  simp [State.admits, this]

/-- A port admits a forwarded frame on an UP link with fewer than 40 frames waiting (R120). -/
theorem admits_forwarded {s : State} {p : Port} :
    s.admits p .forwarded = true ↔ s.linkUp p = true ∧ (s.port p).tx.length < 40 := by
  have : admitLimit .forwarded = 40 := rfl
  simp [State.admits, this]

/-- An admitted frame leaves the queue within its size. -/
theorem admits_length {s : State} {p : Port} {k : Producer} (h : s.admits p k = true) : (s.port p).tx.length < 48 := by
  simp only [State.admits, Bool.and_eq_true, decide_eq_true_eq] at h
  have : admitLimit k ≤ 48 := by cases k <;> decide
  omega

/-- All a forwarded frame can do (R119, R120). -/
theorem forward_cases (s : State) (p : Port) (bytes : List Byte) :
    (s.admits p .forwarded = true ∧ s.forward p bytes =
      (s.enqueue p ⟨bytes, .forwarded⟩).count fun c => { c with forwarded := inc c.forwarded }) ∨
    (s.admits p .forwarded = false ∧ s.forward p bytes =
      s.countPort p fun c => { c with forwardDropped := inc c.forwardDropped }) := by
  unfold State.forward
  cases h : s.admits p .forwarded <;> simp

/-- All an answer can do (R105). -/
theorem sendAnswer_cases (s : State) (o : ScanOrigin) (ticket : Nat) (a : Answer) :
    (s.admits (.sp o.segment) .answer = true ∧ ∃ frame, s.sendAnswer o ticket a = s.enqueue (.sp o.segment) ⟨frame, .answer⟩) ∨
    (s.admits (.sp o.segment) .answer = false ∧ s.sendAnswer o ticket a =
      s.count fun c => { c with answerDropped := inc c.answerDropped }) := by
  unfold State.sendAnswer
  cases h : s.admits (.sp o.segment) .answer
  · exact .inr ⟨rfl, if_neg (by simpa using h)⟩
  · exact .inl ⟨rfl, _, if_pos (by simpa using h)⟩

/-- All the offer of a reply can do (R174, R176, R182). -/
theorem offerReply_cases (s : State) (frame : List Byte) (engine : Bool) :
    let producer := if engine then Producer.engineReply else Producer.reply
    (s.admits .tp producer = true ∧ s.offerReply frame engine =
      { s.enqueue .tp ⟨frame, producer⟩ with
        agent := ⟨if engine then .resetting else .idle, s.agent.request, none, 0⟩ }) ∨
    (s.admits .tp producer = false ∧ s.offerReply frame engine =
      { s with
        agent := ⟨.holding, s.agent.request, some ⟨frame, engine⟩, s.agent.offersDue⟩
        counters := { s.counters with replyRefused := inc s.counters.replyRefused } }) := by
  intro producer
  unfold State.offerReply
  cases h : s.admits .tp producer
  · exact .inr ⟨rfl, if_neg (by simpa [producer] using h)⟩
  · exact .inl ⟨rfl, if_pos (by simpa [producer] using h)⟩

end Sys2Proof.Machine
end

