-- ==== Sys2Proof/Laws/Reports.lean ====
section
/-! SUPPORT. What a re-evaluation of reports does: at its own destination, at the others, and for several destinations in turn. -/

namespace Sys2Proof.Machine

/-! ## What a report and its frame depend on -/

/-- Neither ports nor slots take part in a report. -/
theorem State.OnlyReports.report {s t : State} (h : s.OnlyReports t) (d : Port) : t.report d = s.report d :=
  (congrArg (State.report · d) h.1).trans rfl

theorem State.OnlyReports.attnFrame {s t : State} (h : s.OnlyReports t) (d : Port) (r : Report) :
    t.attnFrame d r = s.attnFrame d r :=
  (congrArg (State.attnFrame · d r) h.1).trans rfl

@[simp] theorem evaluate_report (s : State) (d e : Port) : (s.evaluate d).report e = s.report e :=
  (evaluate_onlyReports s d).report e

@[simp] theorem evaluate_attnFrame (s : State) (d e : Port) (r : Report) : (s.evaluate d).attnFrame e r = s.attnFrame e r :=
  (evaluate_onlyReports s d).attnFrame e r

@[simp] theorem evaluateEach_report (s : State) (ds : List Port) (e : Port) : (s.evaluateEach ds).report e = s.report e :=
  (evaluateEach_onlyReports s ds).report e

@[simp] theorem evaluateEach_attnFrame (s : State) (ds : List Port) (e : Port) (r : Report) :
    (s.evaluateEach ds).attnFrame e r = s.attnFrame e r :=
  (evaluateEach_onlyReports s ds).attnFrame e r

theorem mem_allPorts (d : Port) : d ∈ allPorts := by
  cases d with
  | tp => decide
  | sp z => revert z; decide

/-- Routes depend on the segment records and the ride numbers (R122, R162). -/
theorem laneRoute_congr {s t : State} (hs : t.segments = s.segments)
    (hr : ∀ i, (t.lane i).config.ride = (s.lane i).config.ride) (k : AttnKind) (i : Fin 64) : t.laneRoute k i = s.laneRoute k i := by
  have hh : t.homeSegment i = s.homeSegment i := by simp [State.homeSegment, Lane.inUse, State.segment, hs, hr i]
  simp only [State.laneRoute, hh, State.segment, hs]
  rfl

/-- Conditions and latches given for lanes can touch no report but those of their destinations: where nothing else has changed that a
report shows, every other report is as it was (R162, R164). -/
theorem report_of_not_touched {s t : State} {given : Fin 64 → List AttnKind} {d : Port} (hd : d ∉ t.touched given)
    (hp : ∀ (i : Fin 64), ∀ k ∈ laneKinds, k ∉ given i → t.laneKindPending k i = s.laneKindPending k i)
    (hs : t.segments = s.segments) (hk : t.park = s.park) (hr : ∀ i, (t.lane i).config.ride = (s.lane i).config.ride)
    (hh : t.ring.headHeld = s.ring.headHeld) (ha : t.attn = { s.attn with ports := t.attn.ports }) : t.report d = s.report d := by
  have lanes : ∀ k ∈ laneKinds, t.pendingLanes k d = s.pendingLanes k d := by
    intro k hkind
    unfold State.pendingLanes
    congr 1
    refine List.filter_congr fun i _ => ?_
    rw [laneRoute_congr hs hr]
    by_cases hg : k ∈ given i
    · have : s.laneRoute k i ≠ d := fun e => hd (by
        simp only [State.touched, List.mem_filter, List.any_eq_true, List.mem_finRange, true_and, beq_iff_eq]
        exact ⟨mem_allPorts d, i, k, hg, by rw [laneRoute_congr hs hr, e]⟩)
      simp [this]
    · rw [hp i k hkind hg]
  have sources : ∀ k, t.pendingSources d k = s.pendingSources d k := by
    intro k
    cases k <;> simp only [State.pendingSources, hh, congrArg Attention.imageFault ha, congrArg Attention.registerFull ha,
      congrArg Attention.clockEnd ha, congrArg Attention.overruns ha, congrArg Attention.notices ha] <;>
      rw [lanes _ (by decide)]
  have enables : t.enableSet d = s.enableSet d := by cases d <;> simp [State.enableSet, State.segment, hs, hk]
  have notice : t.reportNotice d = s.reportNotice d := by
    cases d <;> simp only [State.reportNotice, State.segment, hs, congrArg Attention.notices ha]; rfl
  have kinds : t.kindReport d = s.kindReport d := funext fun k => by simp only [State.kindReport, enables, sources]
  simp only [State.report, kinds, notice]

/-! ## One destination -/

/-- Every waiting ATTN frame of a rewritten queue has the new bytes (R165). -/
theorem rewriteWaiting_bytes {sending : Bool} {tx : List TxFrame} {bytes : List Byte} {n : Nat} {f : TxFrame}
    (h : (rewriteWaiting sending tx bytes)[n]? = some f) (hp : f.producer = .attention) (hn : ¬ (n = 0 ∧ sending = true)) :
    f.bytes = bytes := by
  have rewritten : ∀ {l : List TxFrame} {m : Nat},
      (l.map fun f => if f.producer = .attention then { f with bytes := bytes } else f)[m]? = some f → f.bytes = bytes := by
    intro l m hm
    rw [List.getElem?_map, Option.map_eq_some_iff] at hm
    obtain ⟨g, -, rfl⟩ := hm
    by_cases hg : g.producer = .attention <;> simp_all
  unfold rewriteWaiting at h
  split at h
  · cases n with
    | zero => exact absurd ⟨rfl, rfl⟩ hn
    | succ n => exact rewritten (by simpa using h)
  · exact rewritten h

/-- A report that is the last one produced is left alone (R164). -/
theorem evaluate_of_last {s : State} {d : Port} (h : (s.attnPort d).last = s.report d) : s.evaluate d = s := if_pos h.symm

/-- What a re-evaluation leaves in the slot of its destination (R164, R165, R166). -/
theorem evaluate_attnPort (s : State) (d : Port) :
    (s.evaluate d).attnPort d =
      let a := s.attnPort d
      if s.report d = a.last then a
      else
        match a.slot with
        | .queued => { a with last := s.report d }
        | .prepared _ => { a with last := s.report d, slot := .prepared (s.attnFrame d (s.report d)) }
        | .empty => ⟨s.report d, .prepared (s.attnFrame d (s.report d)),
            a.offersDue + if s.linkUp d || s.loader.state != .ready then 1 else 0⟩ := by
  simp only [State.evaluate]
  split
  · rfl
  · simp only [State.produce, State.produceQuietly, State.oweOffer]
    cases h : (s.attnPort d).slot <;> simp only [setAttnPort_attnPort_same]
    split <;> simp

/-- What a re-evaluation leaves at the port of its destination (R165). -/
theorem evaluate_port (s : State) (d : Port) :
    (s.evaluate d).port d =
      if s.report d ≠ (s.attnPort d).last ∧ (s.attnPort d).slot = .queued then
        { s.port d with tx := rewriteWaiting (s.port d).sending (s.port d).tx (s.attnFrame d (s.report d)) }
      else s.port d := by
  simp only [State.evaluate]
  split
  · simp_all
  · simp only [State.produce, State.produceQuietly, State.oweOffer]
    cases h : (s.attnPort d).slot <;> simp_all
    split <;> simp

/-- A re-evaluation leaves the other destinations alone. -/
theorem evaluate_other (s : State) {d e : Port} (h : e ≠ d) :
    (s.evaluate d).attnPort e = s.attnPort e ∧ (s.evaluate d).port e = s.port e := by
  simp only [State.evaluate]
  split
  · exact ⟨rfl, rfl⟩
  · simp only [State.produce, State.produceQuietly, State.oweOffer]
    cases hs : (s.attnPort d).slot <;>
      simp only [setAttnPort_attnPort_same, setAttnPort_attnPort_other _ _ h, setPort_attnPort, setAttnPort_port,
        setPort_port_other _ _ h, and_self]
    split <;> simp only [setAttnPort_attnPort_other _ _ h, setAttnPort_port, and_self]

/-- After a re-evaluation the last report is the report (R164). -/
@[simp] theorem evaluate_last (s : State) (d : Port) : ((s.evaluate d).attnPort d).last = s.report d := by
  rw [evaluate_attnPort]
  dsimp only
  split
  · simp_all
  · split <;> rfl

/-- A re-evaluation after changes that left the destination's slot and queue alone (R164, R165). -/
theorem evaluate_reportFollows {s u : State} {d : Port} (ha : u.attnPort d = s.attnPort d) (ht : (u.port d).tx = (s.port d).tx) :
    s.ReportFollows (u.evaluate d) d := by
  by_cases hr : u.report d = (s.attnPort d).last
  · have e : u.evaluate d = u := evaluate_of_last (by rw [ha, hr])
    exact .inl (by rw [e]; exact ⟨ha, ht, .inr hr⟩)
  · refine .inr ⟨by simp, ?_⟩
    cases hs : (s.attnPort d).slot with
    | queued =>
      refine ⟨by rw [evaluate_attnPort]; simp [ha, hs, hr], fun n f hf hp hn => ?_⟩
      rw [evaluate_port, if_pos ⟨by rwa [ha], by rw [ha, hs]⟩] at hf hn
      simpa using rewriteWaiting_bytes hf hp hn
    | empty => exact ⟨by rw [evaluate_attnPort]; simp [ha, hs, hr], by rw [evaluate_port, ha, hs]; simpa using ht⟩
    | prepared frame => exact ⟨by rw [evaluate_attnPort]; simp [ha, hs, hr], by rw [evaluate_port, ha, hs]; simpa using ht⟩

/-! ## Several destinations -/

/-- Destinations that are not re-evaluated are left alone. -/
theorem evaluateEach_other (s : State) {ds : List Port} {e : Port} (h : e ∉ ds) :
    (s.evaluateEach ds).attnPort e = s.attnPort e ∧ (s.evaluateEach ds).port e = s.port e := by
  induction ds generalizing s with
  | nil => exact ⟨rfl, rfl⟩
  | cons d ds ih =>
    obtain ⟨hd, hds⟩ := not_or.1 (mt List.mem_cons.2 h)
    have := ih (s.evaluate d) hds
    exact ⟨this.1.trans (evaluate_other s hd).1, this.2.trans (evaluate_other s hd).2⟩

/-- What becomes of one of several destinations re-evaluated in turn is what its own re-evaluation leaves. -/
theorem evaluateEach_mem (s : State) {ds : List Port} {e : Port} (h : e ∈ ds) :
    (s.evaluateEach ds).attnPort e = (s.evaluate e).attnPort e ∧ (s.evaluateEach ds).port e = (s.evaluate e).port e := by
  induction ds generalizing s with
  | nil => cases h
  | cons d ds ih =>
    show ((s.evaluate d).evaluateEach ds).attnPort e = _ ∧ ((s.evaluate d).evaluateEach ds).port e = _
    by_cases hm : e ∈ ds
    · obtain ⟨h1, h2⟩ := ih (s.evaluate d) hm
      rw [h1, h2]
      by_cases he : e = d
      · subst he
        rw [evaluate_of_last (s := s.evaluate e) (by simp)]
        exact ⟨rfl, rfl⟩
      · have o := evaluate_other s he
        constructor
        · rw [evaluate_attnPort, evaluate_attnPort, o.1]; simp
        · rw [evaluate_port, evaluate_port, o.1, o.2]; simp
    · obtain rfl : e = d := (List.mem_cons.1 h).resolve_right hm
      exact evaluateEach_other (s.evaluate e) hm

/-- After several re-evaluations the last report of each of their destinations is its report (R164). -/
theorem evaluateEach_last (s : State) {ds : List Port} {e : Port} (h : e ∈ ds) :
    ((s.evaluateEach ds).attnPort e).last = s.report e := by
  rw [(evaluateEach_mem s h).1, evaluate_last]

/-- A change that leaves slots and queues alone, and then the re-evaluation of every destination whose report it has changed: the
reports follow (R164). -/
theorem evaluateEach_reportsFollow {s u : State} {ds : List Port} (ha : ∀ d, u.attnPort d = s.attnPort d)
    (ht : ∀ d, (u.port d).tx = (s.port d).tx) (hr : ∀ d, d ∉ ds → u.report d = s.report d) : s.ReportsFollow (u.evaluateEach ds) := by
  intro d
  by_cases h : d ∈ ds
  · obtain ⟨h1, h2⟩ := evaluateEach_mem u h
    have := evaluate_reportFollows (ha d) (ht d)
    unfold State.ReportFollows at this ⊢
    rw [h1, h2]
    simpa using this
  · obtain ⟨h1, h2⟩ := evaluateEach_other u h
    exact .inl ⟨h1.trans (ha d), by rw [h2]; exact ht d, .inl (by simpa using hr d h)⟩

/-- Changes that leave slots, queues and reports alone let the reports follow. -/
theorem State.ReportsFollow.of_same {s t : State} (ha : ∀ d, t.attnPort d = s.attnPort d) (ht : ∀ d, (t.port d).tx = (s.port d).tx)
    (hr : ∀ d, t.report d = s.report d) : s.ReportsFollow t := fun d => .inl ⟨ha d, ht d, .inl (hr d)⟩

end Sys2Proof.Machine
end

