-- ==== Sys2Proof/Laws/Tables.lean ====
section
/-! SUPPORT. Table writes: all a write can do, what each table's write leaves alone, and the ranges legalized values lie in. -/

namespace Sys2Proof.Machine

/-! ## All a write can do (R179, R180) -/

/-- An accepted write passed every check, and gives the entry's write and the legalized mark. -/
theorem writeTable_accepted {s t : State} {code index : Nat} {pairs : List (Nat × Nat)} {lg : Bool}
    (h : s.writeTable code index pairs = .accepted t lg) :
    ∃ table, tableOfCode code = some table ∧ index < table.entries ∧
      (∀ p ∈ pairs, table.badField pairs p = false ∧ (s.dayOpen && table.shutOnly p.1) = false ∧
        s.duplicateRide table index p = false) ∧
      t = s.writeEntry table index (table.legalPairs pairs) ∧ lg = pairs.any fun p => table.legalizes p.1 p.2 := by
  unfold State.writeTable at h
  split at h
  · cases h
  · rename_i table ht
    split at h
    · cases h
    · rename_i hi
      split at h
      · cases h
      · rename_i h4
        split at h
        · cases h
        · rename_i h5
          split at h
          · cases h
          · rename_i h6
            cases h
            refine ⟨table, ht, by omega, fun p hp => ⟨?_, ?_, ?_⟩, rfl, rfl⟩
            · exact Bool.eq_false_iff.mpr fun e => by
                have := List.findIdx?_eq_none_iff.mp (Option.map_eq_none_iff.mp h4) p hp; simp_all
            · exact Bool.eq_false_iff.mpr fun e => by
                have := List.findIdx?_eq_none_iff.mp (Option.map_eq_none_iff.mp h5) p hp; simp_all
            · exact Bool.eq_false_iff.mpr fun e => by
                have := List.findIdx?_eq_none_iff.mp (Option.map_eq_none_iff.mp h6) p hp; simp_all

/-- What a write changes, by table. -/
theorem writePark_frame (s : State) (pairs : List (Nat × Nat)) :
    s.writePark pairs = { s with
      park := pairs.foldl (fun k p => k.write p.1 p.2) s.park, ports := (s.writePark pairs).ports,
      attn := { s.attn with ports := (s.writePark pairs).attn.ports } } := by
  unfold State.writePark
  dsimp only
  split <;> split
  · rw [State.evaluate_frame, State.produce_frame]
  · rw [State.evaluate_frame]
  · rw [State.produce_frame]
  · rfl

theorem writeLane_frame (s : State) (i : Fin 64) (pairs : List (Nat × Nat)) :
    s.writeLane i pairs = { s with
      lanes := put s.lanes i { s.lane i with config := pairs.foldl (fun c p => c.write p.1 p.2) (s.lane i).config },
      ports := (s.writeLane i pairs).ports, attn := { s.attn with ports := (s.writeLane i pairs).attn.ports } } := by
  unfold State.writeLane
  dsimp only
  generalize s.moved _ = ds
  split
  · rfl
  · rw [State.evaluateEach_frame]; rfl

theorem followEnable_frame (s : State) (k : Fin 6) (old new : Bool) :
    s.followEnable k old new = { s with
      counters := { s.counters with attnRefused := (s.followEnable k old new).counters.attnRefused }
      lines := (s.followEnable k old new).lines, ports := (s.followEnable k old new).ports,
      attn := { s.attn with ports := (s.followEnable k old new).attn.ports } } := by
  unfold State.followEnable
  split
  · rw [State.disablePort_frame]
  · split
    · rw [State.linkUpNotice_frame, State.refuseOwed_frame]
    · rfl

theorem writeSegment_frame (s : State) (k : Fin 6) (pairs : List (Nat × Nat)) :
    s.writeSegment k pairs = { s with
      segments := put s.segments k (pairs.foldl (fun g p => g.write p.1 p.2) (s.segment k)),
      counters := { s.counters with attnRefused := (s.writeSegment k pairs).counters.attnRefused }
      lines := (s.writeSegment k pairs).lines, ports := (s.writeSegment k pairs).ports,
      attn := { s.attn with ports := (s.writeSegment k pairs).attn.ports } } := by
  unfold State.writeSegment
  dsimp only
  generalize s.moved _ = ds
  rw [State.evaluateEach_frame]
  generalize pairs.foldl (fun g p => g.write p.1 p.2) (s.segment k) = new
  split <;> split <;> (try rw [State.evaluate_frame]) <;> (try rw [State.produce_frame]) <;> rw [followEnable_frame] <;> rfl

theorem writeLine_frame (s : State) (j : Fin 192) (pairs : List (Nat × Nat)) :
    s.writeLine j pairs = { s with lines := (s.writeLine j pairs).lines, ports := (s.writeLine j pairs).ports } := by
  unfold State.writeLine
  dsimp only
  split
  · rw [State.oweBoardRuns_frame]
  · rfl

/-- A table write reaches the tables, the lines' updates, the ports, the slots of attention frames, and the attention-refused counter (a
port enabled with offers still owed), and nothing else. -/
theorem writeEntry_frame (s : State) (table : TableId) (index : Nat) (pairs : List (Nat × Nat)) :
    s.writeEntry table index pairs = { s with
      park := (s.writeEntry table index pairs).park, lanes := (s.writeEntry table index pairs).lanes,
      rules := (s.writeEntry table index pairs).rules, segments := (s.writeEntry table index pairs).segments,
      lines := (s.writeEntry table index pairs).lines, ports := (s.writeEntry table index pairs).ports,
      counters := { s.counters with attnRefused := (s.writeEntry table index pairs).counters.attnRefused }
      attn := { s.attn with ports := (s.writeEntry table index pairs).attn.ports } } := by
  unfold State.writeEntry
  split
  · rw [writePark_frame]
  · split
    · rw [writeLane_frame]
    · rfl
  · split <;> rfl
  · split
    · rw [writeSegment_frame]
    · rfl
  · split
    · rw [writeLine_frame]
    · rfl
  · rfl

/-- A write changes the configuration of the lane it names alone, and nothing else of any lane. -/
theorem writeEntry_lane (s : State) (table : TableId) (index : Nat) (pairs : List (Nat × Nat)) (i : Fin 64) :
    (s.writeEntry table index pairs).lane i =
      if table = .lane ∧ i.val = index then
        { s.lane i with config := pairs.foldl (fun c p => c.write p.1 p.2) (s.lane i).config }
      else s.lane i := by
  unfold State.writeEntry
  split
  · rw [writePark_frame]; simp [State.lane]
  · split
    · rename_i hi
      rw [writeLane_frame]
      simp only [State.lane, get_put]
      by_cases h : i = ⟨index, hi⟩
      · subst h; simp
      · rw [if_neg h, if_neg]
        rintro ⟨-, e⟩; exact h (Fin.ext e)
    · rename_i hi
      rw [if_neg]; rintro ⟨-, e⟩; exact hi (e ▸ i.isLt)
  · split <;> simp [State.writeRule, State.lane]
  · split
    · rw [writeSegment_frame]; simp [State.lane]
    · simp
  · split
    · rw [writeLine_frame]; simp [State.lane]
    · simp
  · rename_i h1 h2 h3 h4 h5
    rw [if_neg]; rintro ⟨rfl, -⟩; exact h2 rfl

/-! ## Ranges (R2, R3) -/

theorem legalWindowLength_range (v : Nat) :
    5 ≤ legalWindowLength v ∧ legalWindowLength v ≤ 60 ∧ legalWindowLength v % 5 = 0 := by
  unfold legalWindowLength clamp
  dsimp only
  split <;> omega

/-- A legalized value written to a lane record keeps it in its ranges. -/
theorem LaneConfig.write_inRange {c : LaneConfig} (h : c.InRange) (field v : Nat) :
    (c.write field (legalLane field v)).InRange := by
  obtain ⟨h1, h2, h3, h4, h5, h6, h7, h8, h9, h10, h11, h12, h13, h14, h15, h16, h17⟩ := h
  have hw := legalWindowLength_range v
  unfold LaneConfig.write
  split <;> refine ⟨?_, ?_, ?_, ?_, ?_, ?_, ?_, ?_, ?_, ?_, ?_, ?_, ?_, ?_, ?_, ?_, ?_⟩ <;>
    first
    | assumption
    | (simp only [legalLane, clamp]; omega)
    | (simp only [legalLane]; split <;> omega)

/-- So does a whole list of legalized pairs. -/
theorem LaneConfig.writes_inRange {c : LaneConfig} (h : c.InRange) (pairs : List (Nat × Nat)) :
    ((TableId.lane.legalPairs pairs).foldl (fun c p => c.write p.1 p.2) c).InRange := by
  induction pairs generalizing c with
  | nil => exact h
  | cons p rest ih => exact ih (LaneConfig.write_inRange h p.1 p.2)

end Sys2Proof.Machine
end

