-- ==== Sys2Proof/Laws/Windows.lean ====
section
/-! SUPPORT. Window lists: what building, appending, marking and adjusting do to the starts, and when a window is FUTURE. -/

namespace Sys2Proof.Machine

theorem Window.state_future {w : Window} {n len : Nat} : w.state n len = .future ↔ n < w.start := by
  unfold Window.state
  split
  · simp [*]
  · split <;> simp [*]

theorem Window.state_current {w : Window} {n len : Nat} : w.state n len = .current ↔ w.start ≤ n ∧ n < w.start + len := by
  unfold Window.state
  split
  · simp; omega
  · split <;> simp <;> omega

/-- Entry `k` of a list being built (R46). -/
theorem buildWindows_get (count start len k : Nat) :
    (buildWindows count start len)[k]? =
      if k < count ∧ start + k * len ≤ Config.lastMinute then some (newWindow (start + k * len)) else none := by
  induction count generalizing start k with
  | zero => simp [buildWindows]
  | succ count ih =>
    unfold buildWindows
    split
    · cases k with
      | zero => simp [*]
      | succ k =>
        rw [List.getElem?_cons_succ, ih]
        have : start + len + k * len = start + (k + 1) * len := by ring
        rw [this]
        simp only [Nat.add_lt_add_iff_right]
    · rw [List.getElem?_nil, if_neg]
      rintro ⟨-, h⟩
      have : 0 ≤ k * len := Nat.zero_le _
      omega

theorem buildWindows_length (count start len : Nat) : (buildWindows count start len).length ≤ count := by
  induction count generalizing start with
  | zero => simp [buildWindows]
  | succ count ih =>
    unfold buildWindows
    split
    · simpa using ih _
    · simp

theorem mem_buildWindows {count start len : Nat} {w : Window} (h : w ∈ buildWindows count start len) :
    w = newWindow w.start ∧ start ≤ w.start ∧ w.start ≤ Config.lastMinute := by
  induction count generalizing start with
  | zero => simp [buildWindows] at h
  | succ count ih =>
    unfold buildWindows at h
    split at h
    · rcases List.mem_cons.mp h with rfl | h
      · exact ⟨rfl, Nat.le_refl _, ‹_›⟩
      · obtain ⟨h1, h2, h3⟩ := ih h
        exact ⟨h1, by omega, h3⟩
    · cases h

theorem buildWindows_sorted {len : Nat} (hl : 0 < len) (count start : Nat) :
    (buildWindows count start len).Pairwise fun a b => a.start < b.start := by
  induction count generalizing start with
  | zero => simp [buildWindows]
  | succ count ih =>
    unfold buildWindows
    split
    · refine List.pairwise_cons.mpr ⟨fun w hw => ?_, ih _⟩
      have := (mem_buildWindows hw).2.1
      simp only [newWindow]
      omega
    · exact .nil

/-- What is appended after retirements is what a building from past the newest window gives (R52). -/
theorem appendedWindows_eq (count newest len : Nat) : appendedWindows count newest len = buildWindows count (newest + len) len := by
  induction count generalizing newest with
  | zero => rfl
  | succ count ih => simp only [appendedWindows, buildWindows, ih]

/-- Everything that fits before the last minute is appended. -/
theorem appendedWindows_length {count newest len : Nat} (h : newest + len * count ≤ Config.lastMinute) :
    (appendedWindows count newest len).length = count := by
  induction count generalizing newest with
  | zero => rfl
  | succ count ih =>
    have hm : len * (count + 1) = len * count + len := by ring
    rw [hm] at h
    unfold appendedWindows
    rw [if_pos (by omega), List.length_cons, ih (by omega)]

/-- Adjusting windows by a change that keeps their starts keeps every start. -/
theorem adjustWindow_starts (l : Lane) (start : Nat) {f : Window → Window} (hf : ∀ w, (f w).start = w.start) :
    (l.adjustWindow start f).windows.map Window.start = l.windows.map Window.start := by
  simp only [Lane.adjustWindow, List.map_map]
  congr 1
  funext w
  simp only [Function.comp_apply]
  split
  · exact hf w
  · rfl

theorem protectAt_starts (l : Lane) (n : Nat) : (l.protectAt n).map Window.start = l.windows.map Window.start := by
  unfold Lane.protectAt
  split
  · rw [List.map_map]
    congr 1
    funext w
    simp only [Function.comp_apply]
    split <;> rfl
  · rfl

theorem protectRunning_starts (l : Lane) (n : Nat) : (l.protectRunning n).map Window.start = l.windows.map Window.start := by
  simp only [Lane.protectRunning, List.map_map]
  congr 1
  funext w
  simp only [Function.comp_apply]
  split <;> rfl

/-- Starts in strictly increasing order: one window of the list has a start. -/
theorem window_eq_of_start {ws : List Window} (h : ws.Pairwise fun a b => a.start < b.start) {w x : Window}
    (hw : w ∈ ws) (hx : x ∈ ws) (hs : w.start = x.start) : w = x := by
  induction ws with
  | nil => cases hw
  | cons y rest ih =>
    rw [List.pairwise_cons] at h
    rcases List.mem_cons.mp hw with rfl | hw' <;> rcases List.mem_cons.mp hx with rfl | hx'
    · rfl
    · have := h.1 x hx'; omega
    · have := h.1 w hw'; omega
    · exact ih h.2 hw' hx'

/-- The order of starts is a matter of the starts alone. -/
theorem sorted_of_starts {ws vs : List Window} (hs : vs.map Window.start = ws.map Window.start)
    (h : ws.Pairwise fun a b => a.start < b.start) : vs.Pairwise fun a b => a.start < b.start := by
  have h' : (ws.map Window.start).Pairwise (· < ·) := List.pairwise_map.mpr h
  rw [← hs] at h'
  exact List.pairwise_map.mp h'

/-- A window the search finds stands in the list, is FUTURE and has room for the party (R75). -/
theorem findWindow_some {l : Lane} {n party : Nat} {w : Window} (h : l.findWindow n party = some w) :
    w ∈ l.windows ∧ n < w.start ∧ w.issued + party ≤ w.capacity := by
  unfold Lane.findWindow at h
  have hm := List.mem_of_find?_eq_some h
  have hp := List.find?_some h
  simp only [Bool.and_eq_true, beq_iff_eq, decide_eq_true_eq, Window.state_future] at hp
  refine ⟨?_, hp⟩
  have hm := List.mem_of_mem_take hm
  unfold Lane.searchFrom at hm
  split at hm
  · split at hm
    · cases hm
    · split at hm
      · exact hm
      · split at hm
        · cases hm
        · rename_i x after hd
          have hsub : (x :: after).Sublist l.windows := hd ▸ List.dropWhile_sublist _
          split at hm
          · exact hsub.subset hm
          · exact hsub.subset (List.mem_cons_of_mem _ hm)
  · cases hm

end Sys2Proof.Machine
end

