-- ==== Sys2Proof/Tests/Slice0.lean ====
section
/-! SUPPORT. Tests on the manual's own worked examples, the smoke test of well-formedness, and a witness for every statement
that has hypotheses. -/

namespace Sys2Proof.Tests

open Sys2Proof.Machine

/-! ## Builders -/

/-- A part in service on an OPEN day. -/
def opened (ops dayOffset : Nat) : State :=
  { State.reset with
    loader := { State.reset.loader with state := .ready }
    clock := { State.reset.clock with day := .opened, ops := ops, dayOffset := dayOffset } }

/-- A part in service while the day is SHUT. -/
def idle : State := { State.reset with loader := { State.reset.loader with state := .ready } }

def withLane (s : State) (i : Fin 64) (l : Lane) : State := { s with lanes := put s.lanes i l }

def withSegment (s : State) (k : Fin 6) (g : Segment) : State := { s with segments := put s.segments k g }

def withPort (s : State) (p : Port) (q : PortState) : State := { s with ports := put s.ports (portIndex p) q }

/-- A lane that serves ride `ride` in mode `m`. -/
def serving (ride : Nat) (m : LaneMode) : Lane :=
  { Lane.default with config := { LaneConfig.default with ride := ride }, live := { LaneLive.default with mode := m } }

/-- An enabled segment with one enabled address window. -/
def segmentOf (base limit : Nat) : Segment := { Segment.default with enable := true, window1 := ⟨base, limit, true⟩ }

/-- The state that a command leaves. -/
def after (c : Instr) (s : State) : State :=
  match exec c s with
  | .next t => t
  | _ => s

/-- A transmit queue of `n` forwarded frames. -/
def queue (n : Nat) : List TxFrame := List.replicate n ⟨[], .forwarded⟩

def header : MgmtHeader := ⟨256, 7⟩

/-- The payload of the last frame of TP's transmit queue, behind the tag: code, status and content of a reply. -/
def lastReply (s : State) : List Byte :=
  match (s.port .tp).tx.getLast? with
  | some f => (framePayload f.bytes).drop 2
  | none => []

/-! ## Well-formedness -/

theorem test_wf_accepts : Instr.wf (.passReturn ⟨0, 16383, 250⟩ 63 4294967295 4294967295 172799) = true := by decide
theorem test_wf_refuses_source : Instr.wf (.setMode ⟨16384, 0⟩ []) = false := by decide
theorem test_wf_refuses_tag : Instr.wf (.openDay ⟨256, 65536⟩ []) = false := by decide
theorem test_wf_refuses_long_args : Instr.wf (.flashWrite ⟨256, 0⟩ (List.replicate 94 0)) = false := by decide
theorem test_wf_refuses_origin : Instr.wf (.passRequest ⟨0, 16384, 1⟩ 0 0 1) = false := by decide
theorem test_wf_refuses_ride_zero : Instr.wf (.passRequest ⟨0, 256, 0⟩ 0 0 1) = false := by decide
theorem test_wf_refuses_ride_high : Instr.wf (.passRequest ⟨0, 256, 251⟩ 0 0 1) = false := by decide
theorem test_wf_refuses_ticket : Instr.wf (.passRequest ⟨0, 256, 1⟩ 0 4294967296 1) = false := by decide
theorem test_wf_refuses_party : Instr.wf (.passRequest ⟨0, 256, 1⟩ 0 0 256) = false := by decide
theorem test_wf_refuses_stamp : Instr.wf (.passReturn ⟨0, 256, 1⟩ 0 0 4294967296 0) = false := by decide
theorem test_wf_refuses_receipt : Instr.wf (.passReturn ⟨0, 256, 1⟩ 0 0 0 172800) = false := by decide
theorem test_wf_refuses_count : Instr.wf (.countEntry 0 256) = false := by decide
theorem test_wf_refuses_counts : Instr.wf (.countBoarding 0 0 256) = false := by decide
theorem test_wf_refuses_status : Instr.wf (.rideStatus 0 256) = false := by decide

/-! ## Lanes: section 1.12 -/

/-- Lane 12 of section 1.12, before its opening. -/
def ride37 : Lane :=
  { Lane.default with
    config := { LaneConfig.default with ride := 37, walkTime := 3, autoRestart := .run }
    live := { LaneLive.default with q := 14 } }

/-- The same lane at event 3, with the windows of its list from 180 on. -/
def ride37Running : Lane :=
  { ride37 with
    live := { LaneLive.default with
      mode := .run, q := 600, r16 := 468, warm := 5, wRaw := 24, posted := 25, lastStatus := some .up }
    windows := [⟨180, 0, 0, 0, false⟩, ⟨195, 0, 0, 0, false⟩, ⟨210, 0, 0, 0, false⟩] }

/-- Section 1.12, event 1: SET_MODE of lane 12 to RUN. -/
theorem test_setMode_opens :
    let t := after (.setMode header [12, 1, 0]) (withLane (opened 0 0) 12 ride37)
    let v := (t.lane 12).live
    (v.mode, v.q, v.r16, v.warm, v.wRaw, v.posted) = (.run, 0, 480, 0, 3, 5) ∧
      lastReply t = [3, 0, 12, 1] := by decide

/-- Section 1.12, event 3: a FAULT at operating minute 192. -/
theorem test_rideStatus_fault :
    let t := after (.rideStatus 12 2) (withLane (opened (192 * 60) 0) 12 ride37Running)
    (t.lane 12).live.mode = .down ∧ (t.lane 12).windows.map Window.marked = [true, false, false] ∧
      (t.lane 12).publish.kind = .down := by decide

/-- Section 1.12, event 6: an UP while DOWN, with Q = 640. -/
theorem test_rideStatus_up :
    let l := { ride37Running with live := { ride37Running.live with mode := .down, q := 640 } }
    let v := ((after (.rideStatus 12 1) (withLane (opened (201 * 60) 0) 12 l)).lane 12).live
    (v.mode, v.warm, v.q, v.wRaw, v.posted) = (.run, 0, 640, 25, 25) := by decide

/-! ## The estimator: sections 2.7 to 2.10 -/

/-- Section 2.8: one period of lane 5. -/
theorem test_periodBoundary_warm :
    let l := { serving 40 .run with
      config := { LaneConfig.default with ride := 40, walkTime := 3 }
      live := { LaneLive.default with mode := .run, q := 1240, bs := 27, bp := 9, r16 := 468, warm := 7 } }
    let s := withLane (opened 60 0) 5 l
    let t := after .periodBoundary { s with clock := { s.clock with periodsDue := [⟨60, 60⟩] } }
    let v := (t.lane 5).live
    (v.r16, v.warm, v.wRaw, v.posted, v.bs, v.bp) = (459, 8, 47, 50, 0, 0) ∧ t.clock.periodsDue = [] := by decide

/-- Section 2.9, boundary 2: the change −87.75 truncates to −87; boundary 5: −1.5 to −1. -/
theorem test_smoothing_truncates : smoothedRate 351 0 4 = 264 ∧ smoothedRate 198 192 4 = 197 := by decide

/-- Section 2.9, boundary 4: the lane becomes stale and its estimate is held. -/
theorem test_periodBoundary_stale :
    let l := { serving 40 .run with
      live := { LaneLive.default with mode := .run, q := 300, r16 := 198, warm := 7, stalePeriods := 3, wRaw := 28, posted := 30 } }
    let v := (l.periodBoundary 60).live
    (v.stale, v.stalePeriods, v.r16, v.wRaw, v.posted) = (true, 4, 198, 28, 30) := by decide

/-- Section 2.10: a boarding of 12 standby and 3 pass riders at Q = 5. -/
theorem test_countBoarding_skew :
    let l := { serving 30 .run with live := { LaneLive.default with mode := .run, q := 5, bs := 40, bp := 6 } }
    let v := ((after (.countBoarding 8 12 3) (withLane (opened 60 0) 8 l)).lane 8).live
    (v.q, v.skew, v.bs, v.bp) = (0, 7, 52, 9) := by decide

/-- Section 2.10: the edges of the arithmetic. -/
theorem test_wait_limits :
    rateSample 65535 15 = 65535 ∧ smoothedRate 480 475 1 = 480 ∧ smoothedRate 100 65535 16 = 65535 ∧
      postedWait 999 5 = 240 ∧ postedWait 236 10 = 240 ∧ postedWait 0 5 = 0 := by decide

/-- Section 2.7, the entries of period 1, and R24: Q stops at 65,535. -/
theorem test_countEntry :
    let s := withLane (opened 30 0) 20 (serving 40 .run)
    ((after (.countEntry 20 120) s).lane 20).live.q = 120 ∧
      satAdd 65535 65500 255 = 65535 := by decide

/-- R23: a count while the day is SHUT is dropped and counted. -/
theorem test_countEntry_shut :
    let t := after (.countEntry 20 9) (withLane idle 20 (serving 40 .closed))
    (t.lane 20).live.q = 0 ∧ t.counters.offDay = 1 := by decide

/-! ## The calendar and the grants: chapter 3 -/

/-- Chapter 3, lane 9 at minute 70: window 0 retires and 1920 is appended behind the 32 of the day. -/
theorem test_minuteBoundary_appends :
    let l := { serving 9 .run with
      config := { LaneConfig.default with ride := 9, windowLength := 60 }
      windows := buildWindows 32 0 60 }
    (l.windowsAfter 70).length = 32 ∧ (l.windowsAfter 70).head?.map Window.start = some 60 ∧
      (l.windowsAfter 70).getLast?.map Window.start = some 1920 := by decide

/-- Chapter 3, lane 9 at minute 1030: 2880 would exceed 2879, so nothing is appended. -/
theorem test_minuteBoundary_end_of_day :
    let l := { serving 9 .run with
      config := { LaneConfig.default with ride := 9, windowLength := 60 }
      windows := buildWindows 32 960 60 }
    (l.windowsAfter 1030).length = 31 ∧ (l.windowsAfter 1030).head?.map Window.start = some 1020 ∧
      (l.windowsAfter 1030).getLast?.map Window.start = some 2820 := by decide

/-- Lane 7 of chapter 3, with the first windows and the last of its list. -/
def lane7 : Lane :=
  { serving 12 .run with
    config := { LaneConfig.default with ride := 12, firstStart := 60, grace := 5, grantLowMark := 20 }
    windows := buildWindows 32 60 15 }

/-- Chapter 3, event 1: g1 is applied to window 60. -/
theorem test_grantResolve_applies :
    let s := { withLane (opened 120 0) 7 lane7 with ring := ⟨[⟨7, 62, 40⟩, ⟨7, 545, 30⟩], false, true⟩ }
    let t := after .grantResolve s
    (t.lane 7).windows.head?.map Window.capacity = some 40 ∧ t.ring = ⟨[⟨7, 545, 30⟩], false, true⟩ := by decide

/-- Chapter 3, event 1: g3 at minute 545, past the horizon 540, is held and the run ends. -/
theorem test_grantResolve_holds :
    let s := { withLane (opened 120 0) 7 lane7 with ring := ⟨[⟨7, 545, 30⟩, ⟨4, 100, 10⟩], false, true⟩ }
    (after .grantResolve s).ring = ⟨[⟨7, 545, 30⟩, ⟨4, 100, 10⟩], true, false⟩ := by decide

/-- Chapter 3, event 2: one grant of −20 joins the ring; reply OK, accepted 1, occupancy 1. -/
theorem test_postGrants :
    let t := after (.postGrants header [1, 7, 79, 0, 0xEC]) (withLane (opened 4200 0) 7 lane7)
    t.ring.grants = [⟨7, 79, -20⟩] ∧ t.ring.running = true ∧ lastReply t = [6, 0, 1, 1, 0] := by decide

/-! ## Passes: section 4.9 -/

/-- Lane 15 of section 4.9 at minute 100. -/
def lane15 : Lane :=
  { serving 52 .run with
    config := { LaneConfig.default with ride := 52, autoRestart := .run }
    live := { LaneLive.default with mode := .run, wRaw := 12 }
    windows := [⟨90, 25, 25, 22, false⟩, ⟨105, 20, 18, 0, false⟩, ⟨120, 30, 10, 0, false⟩, ⟨135, 30, 0, 0, false⟩,
      ⟨150, 30, 2, 0, false⟩] }

def ticketC : PassRecord := ⟨61003, 15, 3, .issued 90, 58⟩
def ticketD : PassRecord := ⟨70441, 15, 2, .issued 150, 80⟩

/-- The part of section 4.9 at operating minute `m`. -/
def atMinute (m : Nat) : State := { withLane (opened (m * 60) 32400) 15 lane15 with register := [ticketC, ticketD] }

/-- Section 4.9, event 1: ticket A's request for 4 is issued into window 120. -/
theorem test_passRequest_issues :
    let r := (atMinute 100).passRequest 15 40117 4
    findRecord r.1.register 40117 15 = some ⟨40117, 15, 4, .issued 120, 100⟩ ∧
      ((r.1.lane 15).windowAt 120).map Window.issued = some 14 ∧ r.2 = ⟨.issued, some (660, 675), some 4, none⟩ := by decide

/-- Section 4.9, event 3: A asks again while holding the pass. -/
theorem test_passRequest_held :
    let s := { atMinute 103 with register := [⟨40117, 15, 4, .issued 120, 100⟩] }
    s.passRequest 15 40117 4 = (s, ⟨.alreadyHeld, some (660, 675), some 4, none⟩) := by decide +kernel

/-- Section 4.9, event 6: the boundary at minute 115 retires the protected window 90 and makes C's record PROTECTED. -/
theorem test_minuteBoundary_protects :
    let l := { lane15 with
      live := { lane15.live with mode := .down }
      windows := lane15.windows.map fun w => if w.start ≤ 105 then { w with marked := true } else w }
    let s := withLane (atMinute 115) 15 l
    let t := after .minuteBoundary { s with clock := { s.clock with minutesDue := [115] } }
    t.register = [{ ticketC with state := .carried 115 }, ticketD] ∧ (t.lane 15).live.noShow = 0 ∧
      (t.lane 15).oldestStart = some 105 := by decide

/-- Section 4.9, event 11: C's PROTECTED pass is redeemed. -/
theorem test_passReturn_protected :
    let s := { atMinute 128 with register := [{ ticketC with state := .carried 115 }] }
    let r := s.passReturn 15 61003 7680
    r.1.register = [] ∧ (r.1.lane 15).live.protectedRedeemed = 3 ∧ r.2 = ⟨.redeemed, none, some 3, none⟩ := by decide

/-- Section 4.9, event 15: D at 8,410 s is EARLY for window 150. -/
theorem test_passReturn_early :
    ((atMinute 140).passReturn 15 70441 8410).2 = ⟨.early, some (690, 705), some 2, none⟩ ∧
      ((atMinute 140).passReturn 15 70441 8410).1.register = [ticketC, ticketD] := by decide

/-- Section 4.10: a FUTURE window gives its seats back. -/
theorem test_voidPass_future :
    let t := after (.voidPass header (le32 70441 ++ [15])) (atMinute 131)
    t.register = [ticketC] ∧ ((t.lane 15).windowAt 150).map Window.issued = some 0 ∧
      lastReply t = [7, 0] ++ le32 70441 ++ [15, 1, 2, 150, 0] := by decide

/-- Section 4.10: at minute 152 window 150 is CURRENT and keeps its issued. -/
theorem test_voidPass_current :
    let t := after (.voidPass header (le32 70441 ++ [15])) (atMinute 152)
    ((t.lane 15).windowAt 150).map Window.issued = some 2 ∧ (t.lane 15).live.voidedInWindow = 2 := by decide

/-- R86: one record, and an unknown ticket. -/
theorem test_queryPass :
    lastReply (after (.queryPass header (le32 61003 ++ [0])) (atMinute 100)) = [8, 0, 1, 0xFF, 15, 1, 3, 58, 0, 90, 0] ∧
      lastReply (after (.queryPass header (le32 61004 ++ [0])) (atMinute 100)) = [8, 8, 0, 0xFF] := by decide

/-! ## Stamps: chapter 8 -/

theorem test_stamp_normal : eventTime 12345 32400 44600 10 20 = (12220, .inTime) := by decide
theorem test_stamp_late : eventTime 8000 79200 86300 10 0 = (7400, .clamped) := by decide
theorem test_stamp_trim_back : eventTime 7210 79200 5 10 (-20) = (7185, .inTime) := by decide
theorem test_stamp_ahead : eventTime 12345 32400 44760 10 20 = (12345, .ahead) := by decide
theorem test_stamp_early_day : eventTime 30 32400 32300 10 0 = (0, .inTime) := by decide
theorem test_stamp_second_day : eventTime 90000 32400 35940 10 0 = (89940, .inTime) := by decide
theorem test_stamp_wide_lateness : eventTime 8000 79200 86300 30 0 = (7100, .inTime) := by decide

/-- Chapter 8: OPS stops at 172,799, where CLOCK_END is owed; 2879 shows as 08:59. -/
theorem test_secondArrival_last :
    let t := after .secondArrival (opened 172798 32400)
    t.clock.ops = 172799 ∧ t.clock.clockEndDue = true ∧ t.clock.minutesDue = [] ∧ t.clock.periodsDue = [] ∧
      after .secondArrival t = t ∧ displayMinute 32400 2879 = 539 := by decide +kernel

/-- R151: both boundaries fall at second 60. -/
theorem test_secondArrival_boundaries :
    let t := after .secondArrival (opened 59 0)
    t.clock.minutesDue = [1] ∧ t.clock.periodsDue = [⟨60, 60⟩] := by decide

theorem test_clockEndLatch :
    let s := opened 172799 0
    (after .clockEndLatch { s with clock := { s.clock with clockEndDue := true } }).attn.clockEnd = true := by decide

/-- R146: 32,459 is stored as the whole minute 32,400, and 90,000 as 86,340. -/
theorem test_openDay :
    let t := after (.openDay header (le32 32459)) (withLane idle 7 { lane7 with windows := [] })
    t.clock.day = .opened ∧ t.clock.dayOffset = 32400 ∧ (t.lane 7).windows.length = 32 ∧
      lastReply t = [4, 1] ++ le32 32400 ∧ storedOffset 90000 = 86340 := by decide

theorem test_closeDay :
    let t := after (.closeDay header []) { opened 6000 32400 with register := [ticketC] }
    t.clock.day = .shut ∧ t.register = [] ∧ t.clock.ops = 6000 ∧ lastReply t = [5, 0, 0xFF, 1, 0, 0, 0, 0, 0] := by decide

/-! ## Frames and scans: sections 5.10, 6.9 and 6.10 -/

/-- The check value of CRC-16/CCITT-FALSE over "123456789", outside the manual (log entry 5). -/
theorem test_crc : crc16 [0x31, 0x32, 0x33, 0x34, 0x35, 0x36, 0x37, 0x38, 0x39] = 0x29B1 := by decide +kernel

/-- A scan frame with a ride, a class, a role hint and two counts. -/
def scanFrame (source ride ticketClass hint count count2 : Nat) : List Byte :=
  buildFrame kindScan ride source
    ([1, 0, 0, 0, byteOf ride, byteOf hint, byteOf count, byteOf count2, 1, byteOf ticketClass, 0, 0, 0, 0, 0, 0])

/-- The rules of section 5.10. -/
def rules510 : Vector Rule 24 :=
  put (put (put (put (put (Vector.replicate 24 Rule.default)
    0 ⟨true, true, .ticketClass, .eq, 255, 200, .refuseClass, none, 0⟩)
    1 ⟨true, false, .roleHint, .eq, 65535, 3, .passThrough, none, 0⟩)
    2 ⟨false, true, .port, .eq, 65535, 2, .countBoarding, some 40, 0⟩)
    3 ⟨true, false, .source, .eq, 16383, 1204, .passThrough, none, 0⟩)
    4 ⟨true, false, .source, .eq, 16383, 2050, .discard, none, 0⟩

def park510 : State :=
  { withLane (withLane (opened 60 0) 12 (serving 37 .run)) 40 (serving 41 .run) with
    rules := rules510, segments := Vector.replicate 6 { Segment.default with enable := true } }

/-- Section 5.10, S1: refused by class, and the hits of rules 0 and 1 grow. -/
theorem test_scan_refused :
    let t := park510.classify 1 ⟨scanFrame 1100 37 200 3 0 0, 60⟩
    t.counters.classRefused = 1 ∧ (t.rules.get 0).hits = 1 ∧ (t.rules.get 1).hits = 1 ∧
      (t.port (.sp 1)).tx.map (fun f => frameDestination f.bytes) = [1100] := by decide

/-- Section 5.10, S3: the boardings go to lane 40 by the disabled rule's override. -/
theorem test_scan_overridden :
    let t := park510.classify 2 ⟨scanFrame 1204 41 0 2 14 3, 60⟩
    t.handed = [.countBoarding 40 14 3] ∧ (t.rules.get 2).hits = 1 ∧ (t.rules.get 3).hits = 1 := by decide

/-- Section 5.10, S5: no lane holds ride 99. -/
theorem test_scan_unmapped :
    let t := park510.classify 4 ⟨scanFrame 1500 99 0 1 5 0, 60⟩
    t.counters.unmapped = 1 ∧ t.counters.defaultTaken = 1 ∧ t.handed = [] := by decide

/-- The segments of section 6.9. -/
def ports69 : State :=
  let segs := put (put (put (put (put (put (Vector.replicate 6 Segment.default)
    0 { segmentOf 256 511 with window2 := ⟨1, 20, true⟩ })
    1 { segmentOf 512 767 with window2 := ⟨21, 40, true⟩ })
    2 { segmentOf 768 1023 with window2 := ⟨41, 60, false⟩ })
    3 { segmentOf 1024 1279 with enable := false })
    4 (segmentOf 600 700))
    5 { Segment.default with enable := true }
  { idle with segments := segs }

/-- A frame at the head of a receive queue. -/
def received (s : State) (p : Port) (bytes : List Byte) : State := withPort s p { s.port p with rx := [⟨bytes, 0⟩] }

/-- Section 6.9, F3 and F4: row 9 leaves the arrival port out. -/
theorem test_route_windows :
    ((after (.routeFrame .tp) (received ports69 .tp (buildFrame kindBoard 650 256 []))).port (.sp 1)).tx.length = 1 ∧
      ((after (.routeFrame (.sp 1)) (received ports69 (.sp 1) (buildFrame kindBoard 650 900 []))).port (.sp 4)).tx.length = 1 := by
  decide

/-- Section 6.9, F2, F5, F7 and F10: misdirected, hairpin, and no route twice. -/
theorem test_route_drops :
    (after (.routeFrame (.sp 1)) (received ports69 (.sp 1) (buildFrame kindMgmtReq 257 900 []))).counters.misdirected = 1 ∧
      (after (.routeFrame (.sp 0)) (received ports69 (.sp 0) (buildFrame 0x40 300 900 []))).counters.hairpin = 1 ∧
      (after (.routeFrame .tp) (received ports69 .tp (buildFrame kindScan 45 900 []))).counters.noRoute = 1 ∧
      (after (.routeFrame (.sp 4)) (received ports69 (.sp 4) (buildFrame 0x40 252 900 []))).counters.noRoute = 1 := by decide

/-- Section 6.9, F9: a broadcast from SP0 gives five copies. -/
theorem test_route_broadcast :
    let t := after (.routeFrame (.sp 0)) (received ports69 (.sp 0) (buildFrame 0x40 16383 900 []))
    t.counters.forwarded = 5 ∧ (t.port (.sp 3)).tx = [] ∧ (t.port (.sp 5)).tx.length = 1 := by decide

/-- Section 6.10: a forwarded frame finds 39 frames and is admitted, finds 40 and is refused. -/
theorem test_forward_admission :
    let s := ports69
    ((withPort s (.sp 4) { s.port (.sp 4) with tx := queue 39 }).forward (.sp 4) []).counters.forwarded = 1 ∧
      (((withPort s (.sp 4) { s.port (.sp 4) with tx := queue 40 }).forward (.sp 4) []).port (.sp 4)).counters.forwardDropped = 1 := by
  decide

/-- Section 6.10: the completion that takes SP4 from 48 frames to 47 gives the room notice. -/
theorem test_transmitComplete_room :
    let s := withPort ports69 (.sp 4) { ports69.port (.sp 4) with tx := queue 48, sending := true }
    let q := (after (.transmitComplete (.sp 4)) s).port (.sp 4)
    (q.tx.length, q.counters.transmitted, q.boardRuns, q.sending) = (47, 1, 1, false) := by decide

theorem test_transmitStart :
    let s := withPort ports69 (.sp 4) { ports69.port (.sp 4) with tx := queue 2 }
    ((after (.transmitStart (.sp 4)) s).port (.sp 4)).sending = true ∧
      (after (.transmitStart (.sp 3)) s).port (.sp 3) = s.port (.sp 3) := by decide

/-- R114: a good frame is received, one with a wrong last byte fails the CRC, and a short one the size. -/
theorem test_frameReceive :
    let f := buildFrame 0x40 650 900 [1, 2, 3]
    let q := fun bytes => (after (.frameReceive .tp bytes) idle).port .tp
    (q f).rx = [⟨f, 0⟩] ∧ (q (f.dropLast ++ [0])).counters.crcError = 1 ∧ (q f.dropLast).counters.lengthError = 1 := by decide +kernel

/-! ## Boards: section 7.7 -/

/-- Lane 12 of section 7.7 at its period boundary, and line 10 on SP1. -/
def board77 : State :=
  let l : Lane :=
    { ride37 with
      live := { LaneLive.default with mode := .run, q := 600, r16 := 480, warm := 5, bs := 30, wRaw := 24, posted := 25 }
      publish := ⟨.wait, 20, .minute 675, 2⟩
      windows := [⟨120, 30, 30, 0, false⟩, ⟨135, 30, 12, 0, false⟩] }
  let s := withSegment (withLane (opened 6000 32400) 12 l) 1 { Segment.default with enable := true }
  { s with lines := put s.lines 10 ⟨true, 900, 3, 12, .sp 1, none⟩ }

/-- Section 7.7, event 1: 25 is 5 above the 20 last published, so the lane is published and line 10 marked. -/
theorem test_publishCheck :
    let r := (board77.lane 12).publishCheck true 32400 100
    r = ({ board77.lane 12 with publish := ⟨.wait, 25, .minute 675, 0⟩ }, true) := by decide

/-- Section 7.7: the pending update of line 10 leaves in a BOARD frame for board 900 when SP1 has room, and is refused at 48. -/
theorem test_boardFrameOffer :
    let s := board77.markPublished fun i => i == 12
    let t := after (.boardFrameOffer (.sp 1)) s
    let full := after (.boardFrameOffer (.sp 1)) (withPort s (.sp 1) { s.port (.sp 1) with tx := queue 48 })
    ((t.lines.get 10).pending, t.counters.boardsQueued, full.counters.boardsRefused, (full.lines.get 10).pending.isSome) =
      (none, 1, 1, true) ∧
      (t.port (.sp 1)).tx = [⟨buildFrame kindBoard 900 257 [1, 3, 4, 20, 0xA3, 0x02], .board⟩] := by decide +kernel

/-! ## Attention: chapter 9 -/

/-- Lane 8 of chapter 9, home segment SP1, with COUNT_SKEW delegated. -/
def delegated : State :=
  let s := withLane (opened 6000 0) 8 { serving 30 .run with countSkew := true }
  { withSegment s 1 { segmentOf 512 767 with window2 := ⟨21, 40, true⟩, delegation := 0x0022, zoneEnables := 0x0222 } with
    park := { Park.default with trunkEnables := 0x01FF } }

/-- Chapter 9, event 1: the source is zone 1's, and its frame is PREPARED. -/
theorem test_attention_delegated :
    delegated.laneRoute .countSkew 8 = .sp 1 ∧
      (delegated.report (.sp 1)).kinds = [⟨.countSkew, [8], false⟩] ∧ (delegated.report .tp).kinds = [] := by decide

/-- Chapter 9, event 4: the trunk clears nothing of zone 1's. -/
theorem test_clearAttention_delegated :
    let t := after (.clearAttention header [0x20, 0, 8, 0xFF]) delegated
    (t.lane 8).countSkew = true ∧ lastReply t = [9, 0, 0] := by decide

/-- Chapter 9, event 7: a notice for zone 1. -/
theorem test_injectNotice :
    let t := after (.injectNotice header [1, 14]) delegated
    t.attn.notices.get 1 = some 14 ∧ (t.report (.sp 1)).notice = 14 ∧ lastReply t = [10, 0, 1, 14] := by decide

/-- R166: a PREPARED frame owed an offer is queued. -/
theorem test_attnFrameOffer :
    let s := delegated.evaluate (.sp 1)
    let t := after (.attnFrameOffer (.sp 1)) s
    (t.attnPort (.sp 1)).slot = .queued ∧ (t.port (.sp 1)).tx.length = 1 ∧ t.counters.attnQueued = 1 := by decide

/-! ## Management: chapter 10 -/

/-- Chapter 10, with lane 21 on an OPEN day. -/
def lane21 : State := withLane (withLane (opened 60 0) 21 (serving 64 .run)) 22 (serving 65 .run)

/-- Chapter 10, request 1: the ride number, pair 2, is SHUT only. -/
theorem test_writeTable_refused :
    let t := after (.writeTable header [2, 21, 0, 2, 11, 40, 0, 1, 65, 0]) lane21
    (t.lane 21).config.grace = 10 ∧ lastReply t = [2, 6, 2, 21, 0, 0, 2] := by decide

/-- Chapter 10, request 2: grace 40 is legalized to 30. -/
theorem test_writeTable_legalized :
    let t := after (.writeTable header [2, 21, 0, 2, 11, 40, 0, 13, 15, 0]) lane21
    ((t.lane 21).config.grace, (t.lane 21).config.leadMinimum) = (30, 15) ∧ lastReply t = [2, 1, 2, 21, 0, 2, 0xFF] := by decide

/-- R178: two entries of RULE are 18 values, read whole from field 1. -/
theorem test_readTable :
    let t := after (.readTable header [3, 0, 0, 2, 0, 1]) park510
    (lastReply t).take 9 = [1, 0, 3, 0, 0, 1, 18, 0xFF, 0xFF] := by decide

/-- R176: a reply refused at 48 frames is held, and the offer at the room notice queues it. -/
theorem test_reply_held :
    let s := withPort lane21 .tp { lane21.port .tp with tx := queue 48 }
    let t := after (.flashStatus header []) s
    t.agent.mode = .holding ∧ t.counters.replyRefused = 1 := by decide

theorem test_mgmtReplyOffer :
    let s := { lane21 with agent := ⟨.holding, none, some ⟨[1], false⟩, 1⟩ }
    let t := after .mgmtReplyOffer s
    t.agent = ⟨.idle, none, none, 0⟩ ∧ (t.port .tp).tx = [⟨[1], .reply⟩] := by decide

/-- Chapter 10, request 3: a write of four bytes at offset 8 is taken as BUSY, and its completion stores them. -/
theorem test_flashWrite :
    let t := after (.flashWrite header ([8, 0, 4] ++ [1, 2, 3, 4])) lane21
    let u := after (.flashWriteComplete true) t
    (t.flash.access, t.flash.offset, t.flash.length) = (.busy, 8, 4) ∧ u.flash.mem.readAll 7 6 = [0xFF, 1, 2, 3, 4, 0xFF] ∧
      u.flash.lastWriteOk = true := by decide

theorem test_flashRead :
    let s := { idle with flash := { idle.flash with mem := [(9, 5)] } }
    lastReply (after (.flashRead header [8, 0, 3] 3) s) = [12, 0, 0xFF, 5, 0xFF] ∧
      lastReply (after (.flashRead header [8, 0, 3] 1) s) = [12, 0, 0xFF, 0xFF, 0xFF] ∧
      lastReply (after (.flashRead header [0xFF, 0xFF, 2] 2) s) = [12, 4] := by decide

theorem test_readStatus :
    lastReply (after (.readStatus header [8]) idle) = [15, 4] ∧
      (lastReply (after (.readStatus header [0]) (opened 258 32400))).take 14 =
        [15, 0, 1, 0, 2, 1, 0, 0, 0x90, 0x7E, 0, 0, 2, 0] := by decide

theorem test_resetSegment :
    let t := after (.resetSegment header 5) ports69
    t.segmentResetsDue.get 5 = 1 ∧ lastReply t = [11, 0, 2, 5] ∧
      ((after (.segmentReset 5) t).port (.sp 5)).tx.map TxFrame.producer = [.linkReset] := by decide

theorem test_resetEngine :
    let t := after (.resetEngine header 9) idle
    t.agent.mode = .resetting ∧ (t.port .tp).tx.map TxFrame.producer = [.engineReply] ∧ t.engineResetDue = false := by decide

/-! ## Start-up: chapter 11 -/

/-- A part loading the image of section 11's example at entry `position`, of nine, whose six bytes are `entry`. -/
def loadingAt (position : Nat) (entry : List Byte) (s : State) : State :=
  { s with
    loader := { s.loader with state := .loading, position := position, count := 9 }
    flash := { s.flash with mem := Memory.writeAll [] (8 + 6 * position) entry } }

/-- Chapter 11, entry 2: window length 13 is legalized to 15 and counted. -/
theorem test_loaderEntry_legalized :
    let t := after (.loaderEntry 6) (loadingAt 2 [2, 3, 0, 9, 13, 0] State.reset)
    (t.lane 3).config.windowLength = 15 ∧ t.loader.legalized = 1 ∧ t.loader.position = 3 := by decide

/-- Chapter 11, entry 3: ride 12 is lane 3's, so the entry is skipped. -/
theorem test_loaderEntry_duplicate :
    let t := after (.loaderEntry 6) (loadingAt 3 [2, 5, 0, 1, 12, 0] (withLane State.reset 3 (serving 12 .closed)))
    (t.lane 5).config.ride = 0 ∧ t.loader.skipped = 1 := by decide

/-- R191: a flash that stops answering inside an entry gives 0xFF from then on, so grace reads 0xFF05 and is stored as 30. -/
theorem test_loaderEntry_stops_answering :
    let t := after (.loaderEntry 5) (loadingAt 2 [2, 3, 0, 11, 5, 0] State.reset)
    (t.lane 3).config.grace = 30 ∧ t.loader.silent = true ∧ t.loader.legalized = 1 := by decide

/-- R189: a header of an image, a header that the flash does not give, a blank flash, and no identification. -/
theorem test_loaderProbe :
    let image := { State.reset with flash := { State.reset.flash with mem := [(0, 0xC7), (1, 0x3A), (2, 1), (3, 9), (4, 0)] } }
    ((after (.loaderProbe (some 5)) image).loader.state, (after (.loaderProbe (some 5)) image).loader.count) = (.loading, 9) ∧
      (after (.loaderProbe (some 2)) image).loader.outcome = .blank ∧
      (after (.loaderProbe (some 5)) State.reset).loader.outcome = .blank ∧
      (after (.loaderProbe none) image).loader.outcome = .absent := by decide

/-- R187: an ENGINE reset keeps the lanes and clears the counters; a POWER reset empties the register. -/
theorem test_engineReset :
    let t := after .engineReset { atMinute 100 with engineResetDue := true, counters := { Counters.zero with noRoute := 4 } }
    t.register = [ticketC, ticketD] ∧ t.counters.noRoute = 0 ∧ t.loader.state = .probing ∧ t.clock.ops = 6000 := by decide

theorem test_powerReset :
    let t := after .powerReset (atMinute 100)
    t.register = [] ∧ t.clock.day = .shut ∧ t.loader.state = .probing ∧ (t.lane 15).config.ride = 0 := by decide

theorem test_resetInputAsserted :
    let t := after .resetInputAsserted (atMinute 100)
    t.resetHeld = true ∧ t.linkUp .tp = false ∧ after .secondArrival t = t := by decide +kernel

/-! ## Witnesses: for every statement with hypotheses, states and operands that meet them -/

/-- A running part with a command waiting: section 4.9 at minute 100, a second about to arrive. -/
def lawful : State := { atMinute 100 with pending := [.secondArrival] }

theorem lawful_steps : ∃ t, step lawful = .next t := ⟨_, rfl⟩

theorem witness_StepKeepsQueueLaw : lawful.QueueLaw ∧ ∃ t, step lawful = .next t := by
  refine ⟨⟨fun p => ?_, by decide⟩, lawful_steps⟩
  rcases p with _ | k
  · decide
  · revert k; decide

theorem witness_StepKeepsShutLaw : idle.ShutLaw ∧ ∃ t, step idle = .next t := by
  refine ⟨fun _ => ⟨?_, by decide⟩, _, rfl⟩
  decide

theorem witness_StepKeepsClockLaw :
    let s := { lawful with clock := { lawful.clock with minutesDue := [1, 100], periodsDue := [⟨6000, 60⟩] } }
    s.ClockLaw ∧ ∃ t, step s = .next t := by
  refine ⟨?_, _, rfl⟩
  unfold State.ClockLaw
  decide

theorem witness_StepKeepsRegisterLaw : lawful.RegisterLaw ∧ ∃ t, step lawful = .next t := by
  refine ⟨?_, lawful_steps⟩
  unfold State.RegisterLaw
  decide

theorem lawful_record : lawful.RecordLaw := by
  intro r hr w hw
  have h : r = ticketC ∨ r = ticketD := by simpa [lawful, atMinute] using hr
  rcases h with rfl | rfl <;> cases hw
  · exact ⟨⟨90, 25, 25, 22, false⟩, by decide, rfl⟩
  · exact ⟨⟨150, 30, 2, 0, false⟩, by decide, rfl⟩

theorem witness_StepKeepsRecordLaw : (lawful.ShutLaw ∧ lawful.RecordLaw) ∧ ∃ t, step lawful = .next t :=
  ⟨⟨fun h => absurd h (by decide), lawful_record⟩, lawful_steps⟩

theorem lawful_calendar : lawful.CalendarLaw := by
  unfold State.CalendarLaw Lane.CalendarLaw
  decide +kernel

theorem lawful_spacing : lawful.SpacingLaw := by
  unfold State.SpacingLaw Lane.SpacingLaw
  decide +kernel

/-- The part of section 4.9 with every record that its windows' counts stand for. -/
def promised : State :=
  { lawful with
    register := [⟨1, 15, 8, .redeemed 90, 50⟩, ⟨2, 15, 8, .redeemed 90, 51⟩, ⟨3, 15, 6, .redeemed 90, 52⟩, ticketC, ticketD] }

theorem promised_promise : promised.PromiseLaw := by
  unfold State.PromiseLaw
  decide +kernel

theorem promised_record : promised.RecordLaw := by
  have h90 : ∃ x ∈ (promised.lane 15).windows, x.start = 90 := ⟨⟨90, 25, 25, 22, false⟩, by decide, rfl⟩
  have h150 : ∃ x ∈ (promised.lane 15).windows, x.start = 150 := ⟨⟨150, 30, 2, 0, false⟩, by decide, rfl⟩
  intro r hr w hw
  simp only [promised, List.mem_cons, List.not_mem_nil, or_false] at hr
  rcases hr with rfl | rfl | rfl | rfl | rfl <;> cases hw <;> assumption

/-- An OPEN day, and a SHUT one; and a register whose records the windows count. -/
theorem witness_StepKeepsCalendarLaw :
    (lawful.CalendarLaw ∧ ∃ t, step lawful = .next t) ∧
    ((lawful.ShutLaw ∧ lawful.SpacingLaw) ∧ lawful.lane 15 = lane15) ∧
    ((idle.ShutLaw ∧ idle.SpacingLaw) ∧ ∃ t, step idle = .next t) ∧
    ((promised.ShutLaw ∧ promised.RegisterLaw ∧ promised.RecordLaw ∧ promised.CalendarLaw ∧ promised.PromiseLaw) ∧
      ∃ t, step promised = .next t) := by
  refine ⟨⟨lawful_calendar, lawful_steps⟩, ⟨⟨fun h => absurd h (by decide), lawful_spacing⟩, by decide⟩,
    ⟨⟨witness_StepKeepsShutLaw.1, ?_⟩, witness_StepKeepsShutLaw.2⟩,
    ⟨fun h => absurd h (by decide), ?_, promised_record, lawful_calendar, promised_promise⟩, _, rfl⟩
  · unfold State.SpacingLaw Lane.SpacingLaw
    decide +kernel
  · unfold State.RegisterLaw
    decide

theorem witness_StepKeepsLaneRecordLaw : lawful.LaneRecordLaw ∧ ∃ t, step lawful = .next t := by
  refine ⟨?_, lawful_steps⟩
  unfold State.LaneRecordLaw LaneConfig.InRange
  decide +kernel

/-- A write of two bytes at the end of the image space in progress. -/
def writing : State :=
  { lawful with flash := { Flash.idle with access := .busy, offset := 65534, length := 2, data := [1, 2], mem := [(3, 9)] } }

theorem writing_flash : writing.FlashLaw := by
  unfold State.FlashLaw
  decide

theorem witness_StepKeepsFlashLaw : writing.FlashLaw ∧ ∃ t, step writing = .next t := ⟨writing_flash, _, rfl⟩

/-- Addresses on either side of the range that a POWER reset abandons, and one in a part that writes nothing. -/
theorem witness_PowerResetRestoresDefaults :
    (∀ a ∈ [65533, 65536], ¬ (writing.flash.access = .busy ∧ writing.flash.offset ≤ a ∧
      a < writing.flash.offset + writing.flash.length)) ∧
    ¬ (lawful.flash.access = .busy ∧ lawful.flash.offset ≤ 0 ∧ 0 < lawful.flash.offset + lawful.flash.length) := by decide

/-- A READY part that writes nothing, and one that writes the last two bytes, with an address on either side of them; a part that loads;
and a part whose reset input is asserted. -/
theorem witness_ResetInputHoldsThePart :
    (lawful.resetHeld = false ∧ lawful.flash.access ≠ .busy ∧ lawful.loader.state = .ready) ∧
    (writing.resetHeld = false ∧ writing.flash.access = .busy ∧ ∀ a ∈ [65533, 65536],
      ¬ (writing.flash.access = .busy ∧ writing.flash.offset ≤ a ∧ a < writing.flash.offset + writing.flash.length)) ∧
    (State.reset.resetHeld = false ∧ State.reset.loader.state ≠ .ready) ∧
    (after .resetInputAsserted lawful).resetHeld = true ∧ Instr.secondArrival ≠ .powerReset := by decide

/-- A running part to which every reset has been handed. -/
def resetting : State := { writing with engineResetDue := true, segmentResetsDue := Vector.replicate 6 1 }

/-- With reload ON, as the park record has it at reset, and with reload OFF; a write of the last two bytes under way, with an address on
either side of them, and none under way. -/
theorem witness_EngineResetKeepsAndClears :
    (resetting.resetHeld = false ∧ resetting.engineResetDue = true ∧ resetting.park.reload = true) ∧
    (resetting.flash.access = .busy ∧ ∀ a ∈ [65533, 65536], ¬ (resetting.flash.access = .busy ∧ resetting.flash.offset ≤ a ∧
      a < resetting.flash.offset + resetting.flash.length)) ∧
    (let s := { resetting with park := { resetting.park with reload := false }, flash := .idle };
      s.resetHeld = false ∧ s.engineResetDue = true ∧ s.park.reload = false ∧ s.flash.access ≠ .busy) := by decide

/-- A reset owed to every segment, on an UP link and on a HELD one. -/
theorem witness_SegmentResetActsOnOnePort :
    (resetting.resetHeld = false ∧ ∀ k : Fin 6, 0 < resetting.segmentResetsDue.get k) ∧
    (withSegment resetting 5 (segmentOf 1 20)).linkUp (.sp 5) = true ∧ resetting.linkUp (.sp 5) = false := by decide

theorem witness_SecondsAdvanceAndStop :
    (let s := opened 172798 32400; s.resetHeld = false ∧ s.clock.day = .opened ∧ s.clock.ops < 172799) ∧
    idle.clock.day = .shut ∧ 172799 ≤ (opened 172799 32400).clock.ops := by decide

/-- Section 4.9 at the boundary of minute 115 while the lane is DOWN, with a record in every state. -/
def sweeping : State :=
  let l := { lane15 with
    live := { lane15.live with mode := .down }
    windows := [⟨90, 25, 25, 22, true⟩, ⟨105, 20, 18, 0, false⟩, ⟨115, 9, 0, 0, false⟩] }
  { withLane (atMinute 115) 15 l with
    clock := { (atMinute 115).clock with minutesDue := [115] }
    register := [⟨1, 15, 2, .redeemed 90, 5⟩, ⟨2, 15, 2, .redeemed 105, 5⟩, ⟨3, 15, 2, .carried 40, 5⟩, ⟨4, 15, 2, .issued 105, 5⟩,
      ticketC] }

/-- A window that retires, one that stays, and one that becomes CURRENT while the lane is DOWN. -/
theorem witness_MinuteBoundaryMovesTheCalendars :
    sweeping.resetHeld = false ∧ sweeping.clock.minutesDue = 115 :: [] ∧
    (sweeping.lane 15).retired 115 = [⟨90, 25, 25, 22, true⟩] ∧
    (⟨115, 9, 0, 0, false⟩ : Window) ∈ (sweeping.lane 15).windows ∧ (sweeping.lane 15).live.mode = .down := by
  refine ⟨rfl, rfl, ?_⟩
  decide

/-- A retiring window with its mark, and the same without it, under an ISSUED and a REDEEMED record. -/
theorem witness_MinuteBoundarySweepsRecords :
    (sweeping.resetHeld = false ∧ sweeping.CalendarLaw ∧ sweeping.RegisterLaw ∧ sweeping.clock.minutesDue = 115 :: [] ∧
      (∃ t, exec .minuteBoundary sweeping = .next t) ∧ ⟨90, 25, 25, 22, true⟩ ∈ (sweeping.lane 15).windows ∧
      90 + (sweeping.lane 15).config.windowLength + (sweeping.lane 15).config.grace = 115 ∧
      ticketC ∈ sweeping.register ∧ ⟨1, 15, 2, .redeemed 90, 5⟩ ∈ sweeping.register ∧
      ⟨3, 15, 2, .carried 40, 5⟩ ∈ sweeping.register) ∧
    (let s := withLane sweeping 15 { sweeping.lane 15 with windows := [⟨90, 25, 25, 22, false⟩] };
      s.resetHeld = false ∧ s.CalendarLaw ∧ s.RegisterLaw ∧ s.clock.minutesDue = 115 :: [] ∧
        (∃ t, exec .minuteBoundary s = .next t) ∧ ticketC ∈ s.register ∧ ticketC.state = .issued 90) := by
  refine ⟨⟨rfl, ?_, ?_, rfl, ⟨_, rfl⟩, ?_⟩, rfl, ?_, ?_, rfl, ⟨_, rfl⟩, ?_⟩
  · unfold State.CalendarLaw Lane.CalendarLaw
    decide +kernel
  · unfold State.RegisterLaw
    decide
  · decide
  · unfold State.CalendarLaw Lane.CalendarLaw
    decide +kernel
  · unfold State.RegisterLaw
    decide
  · decide

/-- The boundary of section 7.7 at minute 100, with a lane that it publishes, a line bound to it, and an unused lane. -/
theorem witness_PeriodBoundaryEstimatesLanes :
    let s := { board77 with clock := { board77.clock with periodsDue := [⟨6000, 60⟩] } }
    s.resetHeld = false ∧ s.clock.periodsDue = ⟨6000, 60⟩ :: [] ∧ (s.lane 0).config.ride = 0 ∧ (s.lane 12).config.ride ≠ 0 ∧
      (s.lines.get 10).enable = true ∧
      (((s.lane 12).periodBoundary 60).publishCheck true s.clock.dayOffset 100).2 = true := by decide

/-- A DOWN lane, a CLOSED one, a RUN lane with riders standing whose stale periods reach the stale limit 4, and one already stale below
a raised limit. -/
theorem witness_StoppedAndSilentLanesAreHeld :
    ((serving 9 .down).config.ride ≠ 0 ∧ (serving 9 .down).live.mode = .down) ∧
    ((serving 9 .closed).config.ride ≠ 0 ∧ (serving 9 .closed).live.mode = .closed) ∧
    (let l := { serving 9 .run with live := { LaneLive.default with mode := .run, q := 1, stalePeriods := 3 } };
      l.config.ride ≠ 0 ∧ l.live.mode.isOpen = true ∧ 0 < l.live.q ∧ l.live.bs = 0 ∧ l.live.bp = 0 ∧
        l.config.staleLimit ≤ min 15 (l.live.stalePeriods + 1)) ∧
    (let l := { serving 9 .run with
        config := { LaneConfig.default with ride := 9, staleLimit := 15 }
        live := { LaneLive.default with mode := .run, q := 1, stalePeriods := 3, stale := true } };
      l.config.ride ≠ 0 ∧ l.live.mode.isOpen = true ∧ 0 < l.live.q ∧ ¬ l.config.staleLimit ≤ min 15 (l.live.stalePeriods + 1) ∧
        l.live.stale = true) := by decide

/-- A lane that boarded one rider, one with nobody standing, and one with riders standing whose stale periods stay below the limit 4. -/
theorem witness_BoardingLaneIsSampled :
    ∀ v ∈ [{ LaneLive.default with mode := .standbyOnly, q := 1, bs := 1, stale := true }, { LaneLive.default with mode := .run },
        { LaneLive.default with mode := .passOnly, q := 1, stalePeriods := 2 }],
      let l := { serving 9 .run with live := v }
      l.config.ride ≠ 0 ∧ l.live.mode.isOpen = true ∧
        (0 < l.live.q ∧ l.live.bs = 0 ∧ l.live.bp = 0 →
          l.live.stale = false ∧ min 15 (l.live.stalePeriods + 1) < l.config.staleLimit) := by decide

/-- The smallest and the full weight, at the largest rate, and a change too small to move R16. -/
theorem witness_SampleIsFoldedIn :
    ∀ w ∈ [1, 16],
      let l := { serving 9 .run with
        config := { LaneConfig.default with ride := 9, smoothing := w }, live := { LaneLive.default with mode := .run, r16 := 65535 } }
      1 ≤ l.config.smoothing ∧ l.config.smoothing ≤ 16 ∧ l.live.r16 ≤ 65535 ∧
        (((475 : Int) - 480) * 1).natAbs < 16 ∧ rateSample 30 60 = 480 := by decide

/-- Each step, a raw wait of 240, and the ones beside it. -/
theorem witness_PostedWaitIsRoundedUp :
    (10 = 1 ∨ 10 = 5 ∨ 10 = 10) ∧ (240 ≤ 240 ∧ 10 ∣ 240) ∧ postedWait 239 10 = 240 ∧ postedWait 240 1 = 240 ∧ postedWait 241 5 = 240 := by
  decide

theorem witness_ClockEndIsLatched :
    let s := { opened 172799 0 with clock := { (opened 172799 0).clock with clockEndDue := true } }
    s.resetHeld = false ∧ s.clock.clockEndDue = true := by decide

/-- In service: an unused lane, a lane on a SHUT day, a lane on an OPEN one. -/
theorem witness_CountEntryCounts :
    lawful.Serving ∧ (lawful.lane 0).config.ride = 0 ∧ (lawful.lane 15).config.ride ≠ 0 ∧ lawful.clock.day ≠ .shut ∧
    (withLane idle 15 lane15).Serving ∧ ((withLane idle 15 lane15).lane 15).config.ride ≠ 0 ∧
      (withLane idle 15 lane15).clock.day = .shut :=
  ⟨⟨rfl, rfl⟩, by decide, by decide, by decide, ⟨rfl, rfl⟩, by decide, rfl⟩

/-- A lane in use on an OPEN and on a SHUT day, and an unused one. -/
theorem witness_CountBoardingCounts :
    (lawful.Serving ∧ (lawful.lane 15).config.ride ≠ 0 ∧ lawful.clock.day = .opened) ∧
    ((withLane idle 15 lane15).Serving ∧ ((withLane idle 15 lane15).lane 15).config.ride ≠ 0 ∧ idle.clock.day = .shut) ∧
    (lawful.lane 0).config.ride = 0 :=
  ⟨⟨⟨rfl, rfl⟩, by decide, rfl⟩, ⟨⟨rfl, rfl⟩, by decide, rfl⟩, by decide⟩

/-- A DOWN lane with an auto-restart mode, and an open lane with auto-down ON. -/
theorem witness_RideStatusIsTaken :
    (sweeping.Serving ∧ (sweeping.lane 15).config.ride ≠ 0 ∧ (sweeping.lane 15).live.mode = .down ∧
      (sweeping.lane 15).config.autoRestart = .run) ∧
    (lawful.Serving ∧ (lawful.lane 15).live.mode.isOpen = true ∧ (lawful.lane 15).config.autoDown = true) :=
  ⟨⟨⟨rfl, rfl⟩, by decide, by decide, by decide⟩, ⟨rfl, rfl⟩, by decide, by decide⟩

/-- An agent that is IDLE with nothing waiting takes any request. -/
theorem takes (req : MgmtRequest) : lawful.TakesRequest req ∧ idle.TakesRequest req ∧ sweeping.TakesRequest req :=
  ⟨⟨⟨rfl, rfl⟩, rfl, .inl rfl⟩, ⟨⟨rfl, rfl⟩, rfl, .inl rfl⟩, ⟨⟨rfl, rfl⟩, rfl, .inl rfl⟩⟩

/-- A lane put DOWN, and a lane already in the mode asked for. -/
theorem witness_SetModeChangesTheMode :
    (lawful.TakesRequest ⟨256, 7, 3, [byteOf 15, byteOf (modeCode .down), 0]⟩ ∧ lawful.clock.day = .opened ∧
      (lawful.lane 15).config.ride ≠ 0 ∧ ¬ ((lawful.lane 15).live.mode = .closed ∧ LaneMode.down = .down)) ∧
    (lawful.lane 15).live.mode = .run :=
  ⟨⟨(takes _).1, rfl, by decide, by decide⟩, by decide⟩

/-- The boundary values 63, 64, 4 and 5 of the checks; a lane not CLOSED below which all are CLOSED; a duplicate ride number;
pair counts 0 and 13 and a length that is not the count's; the table, the index and the fields past the last; pairs that fail check 4, the worked
example of chapter 10 for check 5, and a ride number held on a SHUT day; grant counts 0 and 21 and
a length that is not the count's, a second grant for lane 64, and one of minute 2880; pass lanes 63 and 64; and a length that no request calls
for. -/
theorem witness_RefusedRequestsChangeNothing :
    (lawful.TakesRequest ⟨256, 7, 3, [64, 1, 0]⟩ ∧ 63 < (64 : Byte).toNat) ∧
    (lawful.TakesRequest ⟨256, 7, 3, [63, 5, 0]⟩ ∧ (63 : Fin 64).val = (63 : Byte).toNat ∧ 4 < (5 : Byte).toNat) ∧
    (lawful.TakesRequest ⟨256, 7, 3, [63, 4, 0]⟩ ∧ (4 : Byte).toNat ≤ 4 ∧ (lawful.lane 63).config.ride = 0) ∧
    (lawful.TakesRequest ⟨256, 7, 4, le32 5⟩ ∧ lawful.clock.day = .opened) ∧
    (idle.TakesRequest ⟨256, 7, 5, []⟩ ∧ idle.clock.day = .shut) ∧
    (lawful.TakesRequest ⟨256, 7, 5, []⟩ ∧ (lawful.lane 15).live.mode ≠ .closed ∧
      ∀ j : Fin 64, j < 15 → (lawful.lane j).live.mode = .closed) ∧
    (lawful.TakesRequest ⟨256, 7, 2, [2, byteOf 15, 0, 1, 10] ++ le16 5⟩ ∧ (10 : Byte) = 10) ∧
    (let s := withLane idle 15 lane15;
      s.TakesRequest ⟨256, 7, 2, [2, byteOf 3, 0, 1, 1] ++ le16 52⟩ ∧ (15 : Fin 64) ≠ 3 ∧ s.clock.day = .shut ∧
        min 250 52 ≠ 0 ∧ (s.lane 15).config.ride = min 250 52) ∧
    ((∀ args : List Byte, lawful.TakesRequest ⟨256, 7, 2, args⟩) ∧ ([2, 0, 0, 0] : List Byte).length = 4 + 3 * 0 ∧
      12 < fieldAt [2, 0, 0, 13] 3 1 ∧ ([2, 0, 0, 1, 3, 5] : List Byte).length ≠ 4 + 3 * 1) ∧
    (8 < (9 : Byte).toNat ∧ tableOfCode (2 : Byte).toNat = some .lane ∧ TableId.lane.entries ≤ 64 ∧ 63 < TableId.lane.entries ∧
      TableId.lane.writable < (20 : Byte).toNat ∧ tableOfCode (6 : Byte).toNat = some .laneLive ∧
      TableId.laneLive.writable < (1 : Byte).toNat) ∧
    (∀ (code : Nat) (args : List Byte), lawful.TakesRequest ⟨256, 7, code, args⟩ ∧ (withLane idle 15 lane15).TakesRequest ⟨256, 7, code, args⟩) ∧
    (let badField := fun (pairs : List (Nat × Nat)) (p : Nat × Nat) =>
        p.1 = 0 ∨ TableId.lane.writable < p.1 ∨ 2 ≤ (pairs.filter fun q => decide (q.1 = p.1)).length
      let shutOnly := fun p : Nat × Nat => lawful.clock.day = .opened ∧ (p.1 = 1 ∨ p.1 = 9 ∨ p.1 = 10)
      let none := fun (bad : Nat × Nat → Prop) (pairs : List (Nat × Nat)) => ∀ p ∈ pairs, ¬ bad p
      (badField [(11, 40), (1, 65), (11, 3)] (11, 40) ∧ badField [(1, 65), (20, 0)] (20, 0) ∧ ¬ badField [(1, 65), (20, 0)] (1, 65)) ∧
      (none (badField [(11, 40), (1, 65)]) [(11, 40), (1, 65)] ∧ ¬ shutOnly (11, 40) ∧ shutOnly (1, 65)) ∧
      ((withLane idle 15 lane15).clock.day = .shut ∧ ((withLane idle 15 lane15).lane 15).config.ride = min 250 52) ∧
      (1 ≤ ((List.range 12).map fun f => (f + 2, 65535)).length ∧ ((List.range 12).map fun f => (f + 2, 65535)).length ≤ 12)) ∧
    (let misfit := fun args : List Byte =>
        args.length ≠ 1 + 4 * fieldAt args 0 1 ∨ fieldAt args 0 1 = 0 ∨ 20 < fieldAt args 0 1
      let grants := fun (lane minute : Nat) => [2, 63] ++ le16 2879 ++ [5, byteOf lane] ++ le16 minute ++ [5]
      misfit [0] ∧ misfit (21 :: List.replicate 84 0) ∧ misfit [1, 7, 0, 0] ∧
      (¬ misfit (grants 64 2880) ∧ 63 < fieldAt (grants 64 2880) (1 + 4 * 1) 1) ∧
      (¬ misfit (grants 63 2880) ∧ (∀ g : Nat, g < 2 → fieldAt (grants 63 2880) (1 + 4 * g) 1 ≤ 63) ∧
        2879 < fieldAt (grants 63 2880) (2 + 4 * 1) 2 ∧ ¬ 2879 < fieldAt (grants 63 2880) 2 2)) ∧
    ((le32 5 ++ [64]).length = 5 ∧ 63 < fieldAt (le32 5 ++ [64]) 4 1 ∧ ¬ 63 < fieldAt (le32 5 ++ [63]) 4 1) ∧
    (∀ n ∈ [0, 1, 2, 3, 4, 5, 6, 3 + fieldAt (List.replicate 7 (0 : Byte)) 2 1], (List.replicate 7 (0 : Byte)).length ≠ n) := by
  refine ⟨⟨(takes _).1, by decide⟩, ⟨(takes _).1, by decide, by decide⟩, ⟨(takes _).1, by decide, by decide⟩, ⟨(takes _).1, rfl⟩,
    ⟨(takes _).2.1, rfl⟩, ⟨(takes _).1, by decide, by decide⟩, ⟨(takes _).1, rfl⟩,
    ⟨⟨⟨rfl, rfl⟩, rfl, .inl rfl⟩, by decide, rfl, by decide, by decide⟩, ⟨fun _ => (takes _).1, by decide⟩, by decide,
    fun _ _ => ⟨(takes _).1, ⟨rfl, rfl⟩, rfl, .inl rfl⟩, by decide, by decide, by decide, by decide⟩

/-- A CLOSED lane in use on an OPEN day, and an open lane with another open mode. -/
theorem witness_OpeningAndMoving :
    (let s := withLane (opened 60 0) 12 ride37;
      s.clock.day = .opened ∧ (s.lane 12).config.ride ≠ 0 ∧ (s.lane 12).live.mode = .closed ∧ LaneMode.run.isOpen = true) ∧
    ((lawful.lane 15).live.mode.isOpen = true ∧ LaneMode.passOnly.isOpen = true ∧ .passOnly ≠ (lawful.lane 15).live.mode) := by
  decide

theorem witness_StoppingKeepsTheEstimate :
    lawful.clock.day = .opened ∧ (lawful.lane 15).config.ride ≠ 0 ∧
      (lawful.lane 15).live.mode ≠ .closed ∧ (lawful.lane 15).live.mode.isOpen = true := by decide

theorem witness_RestartResumesService :
    sweeping.clock.day = .opened ∧ (sweeping.lane 15).config.ride ≠ 0 ∧ (sweeping.lane 15).live.mode = .down ∧
      LaneMode.passOnly.isOpen = true := by decide

/-- A search that finds a window, and a window with room among the first of the span. -/
theorem witness_SearchFindsTheFirstWindowWithRoom :
    lane15.CalendarLaw ∧ lane15.findWindow 100 4 = some ⟨120, 30, 10, 0, false⟩ ∧ lane15.SpacingLaw ∧
      (let w : Window := ⟨135, 30, 0, 0, false⟩;
        w ∈ lane15.windows ∧ 100 < w.start ∧ 100 + max lane15.config.leadMinimum lane15.live.wRaw < w.start + lane15.config.windowLength ∧
          w.issued + 4 ≤ w.capacity ∧
          (lane15.windows.filter fun x => decide (100 < x.start) &&
            decide (100 + max lane15.config.leadMinimum lane15.live.wRaw < x.start + lane15.config.windowLength) &&
            decide (x.start < w.start)).length < lane15.config.searchSpan) := by
  refine ⟨?_, by decide, ?_, by decide⟩
  · unfold Lane.CalendarLaw
    decide
  · unfold Lane.SpacingLaw
    decide

theorem witness_PassRequestIssues :
    lawful.Serving ∧ (lawful.lane 15).config.ride ≠ 0 ∧ lawful.clock.day = .opened ∧ 1 ≤ 8 ∧ 8 ≤ 8 ∧
      ((lawful.lane 15).live.mode = .run ∨ (lawful.lane 15).live.mode = .passOnly) ∧
      findRecord lawful.register 40117 15 = none ∧ liveCount lawful.register 40117 < lawful.park.passLimit ∧
      lawful.register.length < 16384 ∧
      (lawful.lane 15).findWindow (lawful.clock.ops / 60) 8 = some ⟨120, 30, 10, 0, false⟩ :=
  ⟨⟨rfl, rfl⟩, by decide, rfl, by decide, by decide, by decide, by decide, by decide, by decide, by decide⟩

/-- A full register of other tickets' records. -/
def full : State := { lawful with register := (List.range 16384).map fun t => ⟨t, 3, 1, .carried 0, 0⟩ }

/-- A record of the ticket, parties 0 and 9, a DOWN lane, a SHUT day, two live passes elsewhere, a party that no window has room
for, and a full register. -/
theorem witness_PassRequestRefused :
    (let s : State := { lawful with register := [⟨40117, 3, 1, .carried 0, 0⟩, ⟨40117, 4, 1, .carried 0, 0⟩] };
      findRecord s.register 40117 15 = none ∧ s.park.passLimit ≤ liveCount s.register 40117) ∧
    (let s := withLane lawful 15 { lane15 with windows := [⟨120, 30, 27, 0, false⟩] };
      s.clock.day = .opened ∧ (s.lane 15).live.mode = .run ∧ findRecord s.register 40117 15 = none ∧
        liveCount s.register 40117 < s.park.passLimit ∧ s.register.length < 16384 ∧
        (s.lane 15).findWindow (s.clock.ops / 60) 4 = none) ∧
    (lawful.Serving ∧ (lawful.lane 15).config.ride ≠ 0 ∧ findRecord lawful.register 61003 15 = some ticketC) ∧
    (sweeping.Serving ∧ (sweeping.lane 15).live.mode = .down) ∧
    ((withLane idle 15 lane15).Serving ∧ (withLane idle 15 lane15).clock.day = .shut) ∧
    (full.Serving ∧ (full.lane 15).config.ride ≠ 0 ∧ full.clock.day = .opened ∧ (full.lane 15).live.mode = .run ∧
      findRecord full.register 40117 15 = none ∧ liveCount full.register 40117 < full.park.passLimit ∧
      16384 ≤ full.register.length) := by
  refine ⟨by decide, by decide, ⟨⟨rfl, rfl⟩, by decide, by decide⟩, ⟨⟨rfl, rfl⟩, by decide⟩, ⟨⟨rfl, rfl⟩, rfl⟩, ⟨rfl, rfl⟩,
    by decide, rfl, by decide, ?_, ?_, by simp [full]⟩
  · have h : ∀ t : Nat, PassRecord.key ⟨t, 3, 1, .carried 0, 0⟩ ≠ passKey 40117 15 := by
      intro t; simp only [PassRecord.key, passKey]; omega
    simp [findRecord, full, h]
  · have h : (full.register.filter fun r => r.ticket == 40117 && r.isLive) = [] := by
      simp only [full, List.filter_eq_nil_iff, List.mem_map, List.mem_range]
      rintro r ⟨t, ht, rfl⟩
      simp only [Bool.and_eq_true, beq_iff_eq]
      omega
    simp only [liveCount, h]
    decide

/-- An ISSUED record; a ticket with no record, one with a live pass on lane 3, and a REDEEMED record. -/
theorem witness_PassReturnIsTaken :
    (findRecord lawful.register 5 15 = none ∧ ∀ r ∈ lawful.register, ¬ (r.ticket = 5 ∧ r.isLive = true)) ∧
    (let s : State := { lawful with register := [⟨5, 3, 1, .carried 0, 0⟩] };
      findRecord s.register 5 15 = none ∧ (3 : Fin 64) ≠ 15 ∧ (⟨5, 3, 1, .carried 0, 0⟩ : PassRecord).isLive = true ∧
        ∀ k : Fin 64, k < 3 → ∀ r ∈ s.register, ¬ (r.ticket = 5 ∧ r.lane = k)) ∧
    (findRecord sweeping.register 1 15 = some ⟨1, 15, 2, .redeemed 90, 5⟩ ∧ findRecord sweeping.register 61003 15 = some ticketC ∧
      (sweeping.lane 15).live.mode = .down) ∧
    lawful.Serving ∧ (lawful.lane 15).config.ride ≠ 0 ∧ lawful.clock.day = .opened ∧ (lawful.lane 15).live.mode ≠ .down ∧
      findRecord lawful.register 61003 15 = some ticketC ∧ ticketC.state = .issued 90 :=
  ⟨by decide, by decide, by decide, ⟨rfl, rfl⟩, by decide, rfl, by decide, by decide, rfl⟩

/-- A PROTECTED record on an open lane, on a CLOSED one and on a DOWN one. -/
theorem witness_PassReturnHonoursProtected :
    let carried : PassRecord := { ticketC with state := .carried 115 }
    ∀ m ∈ [LaneMode.run, .closed, .down],
      let s := { withLane lawful 15 { lane15 with live := { lane15.live with mode := m } } with register := [carried] }
      s.Serving ∧ (s.lane 15).config.ride ≠ 0 ∧ s.clock.day = .opened ∧ findRecord s.register 61003 15 = some carried ∧
        (s.lane 15).live.mode = m := by
  unfold State.Serving
  decide

/-- The lags at which the clauses meet: 43,200 is not ahead, 43,201 is. -/
theorem witness_EventTimeOfAStamp :
    ((50000 : Int) + (0 : Nat) - ((6800 : Nat) + 0) % 86400) % 86400 = 43200 ∧
    ((50000 : Int) + (0 : Nat) - ((6799 : Nat) + 0) % 86400) % 86400 = 43201 := by decide

/-- A ticket with one record, with none, and with eleven. -/
theorem witness_VoidAndQueryPass :
    (61003 < 4294967296 ∧ lawful.TakesRequest ⟨256, 7, 7, le32 61003 ++ [byteOf 15]⟩) ∧
    lawful.TakesRequest ⟨256, 7, 8, le32 61003 ++ [byteOf 0]⟩ ∧
    (lawful.register.filter fun r => decide (r.ticket = 61003 ∧ 0 ≤ r.lane.val)).length = 1 ∧
    (lawful.register.filter fun r => decide (r.ticket = 5 ∧ 0 ≤ r.lane.val)) = [] ∧
    (let s : State := { lawful with register := (List.finRange 11).map fun i : Fin 11 => ⟨9, i.castLE (by decide), 1, .carried 0, 0⟩ };
      s.TakesRequest ⟨256, 7, 8, le32 9 ++ [byteOf 0]⟩ ∧
        (s.register.filter fun r => decide (r.ticket = 9 ∧ 0 ≤ r.lane.val))[10]? = some ⟨9, 10, 1, .carried 0, 0⟩) :=
  ⟨⟨by decide, (takes _).1⟩, (takes _).1, by decide, by decide, ⟨⟨rfl, rfl⟩, rfl, .inl rfl⟩, by decide⟩

/-- The last offset kept as it is, and the first legalized to 23:59, with no grant and with grants in the ring; a run in progress; and
a CLOSED lane in a state that meets ShutLaw. -/
theorem witness_OpenDayBuildsTheDay :
    86399 < 4294967296 ∧ 86400 < 4294967296 ∧ (withLane idle 15 lane15).clock.day = .shut ∧
      (withLane idle 15 lane15).ring.grants = [] ∧ (withLane idle 15 lane15).TakesRequest ⟨256, 7, 4, le32 86400⟩ ∧
    (let s : State := { withLane idle 7 lane7 with ring := ⟨[⟨7, 62, 40⟩, ⟨7, 545, 30⟩], false, false⟩ };
      s.clock.day = .shut ∧ s.TakesRequest ⟨256, 7, 4, le32 86399⟩) ∧
    (let s : State := { lawful with ring := ⟨[⟨7, 62, 40⟩], false, true⟩ }; s.resetHeld = false ∧ s.ring.running = true) ∧
    (let s : State := { withLane idle 7 (serving 2 .closed) with ring := ⟨[⟨7, 62, 40⟩], false, false⟩ };
      s.clock.day = .shut ∧ s.TakesRequest ⟨256, 7, 4, le32 86399⟩ ∧ s.ShutLaw) :=
  ⟨by decide, by decide, rfl, rfl, ⟨⟨rfl, rfl⟩, rfl, .inl rfl⟩, ⟨rfl, ⟨rfl, rfl⟩, rfl, .inl rfl⟩, ⟨rfl, rfl⟩, rfl,
    ⟨⟨rfl, rfl⟩, rfl, .inl rfl⟩, by unfold State.ShutLaw; decide⟩

/-- A day with one lane in use, and a record. -/
theorem witness_CloseDayEmptiesTheDay :
    let s := { withLane (opened 6000 32400) 15 { lane15 with live := { lane15.live with mode := .closed } } with register := [ticketC] }
    s.clock.day = .opened ∧ (∀ i : Fin 64, (s.lane i).live.mode = .closed) ∧ s.TakesRequest ⟨256, 7, 5, []⟩ ∧
      (s.lane 15).config.ride ≠ 0 ∧ (s.lane 14).config.ride = 0 :=
  ⟨rfl, by decide, ⟨⟨rfl, rfl⟩, rfl, .inl rfl⟩, by decide⟩

/-- Grants at both ends of the ranges. -/
theorem witness_PostGrantsFillsTheRing :
    let grants : List Grant := [⟨0, 0, -128⟩, ⟨63, 2879, 127⟩]
    1 ≤ grants.length ∧ grants.length ≤ 20 ∧ (∀ g ∈ grants, g.minute ≤ 2879 ∧ -128 ≤ g.delta ∧ g.delta ≤ 127) ∧
      lawful.TakesRequest ⟨256, 7, 6, byteOf grants.length ::
        grants.flatMap fun g => [byteOf g.lane.val] ++ le16 g.minute ++ [BitVec.ofInt 8 g.delta]⟩ :=
  ⟨by decide, by decide, by decide, (takes _).1⟩

/-- A part whose consumer stands at one grant. -/
def granting (g : Grant) (l : Lane) : State := { withLane (opened 120 0) 7 l with ring := ⟨[g], false, true⟩ }

/-- Lane 7 with three windows of its list. -/
def lane7Short : Lane := { lane7 with windows := [⟨60, 40, 36, 30, false⟩, ⟨75, 10, 8, 0, false⟩, ⟨90, 0, 0, 0, false⟩] }

/-- The last minute of window 75. -/
theorem witness_HeadGrantIsApplied :
    let s := granting ⟨7, 89, -5⟩ lane7Short
    let w : Window := ⟨75, 10, 8, 0, false⟩
    s.resetHeld = false ∧ s.ring.running = true ∧ s.ring.grants = ⟨7, 89, -5⟩ :: [] ∧ (s.lane 7).CalendarLaw ∧
      (s.lane 7).config.ride ≠ 0 ∧ (s.lane 7).config.firstStart ≤ 89 ∧ 89 < (s.lane 7).lastEnd ∧ w ∈ (s.lane 7).windows ∧
      w.start ≤ 89 ∧ 89 < w.start + (s.lane 7).config.windowLength ∧
      (∀ x ∈ (s.lane 7).windows, x.start < w.start → x.start + (s.lane 7).config.windowLength ≤ w.start) := by
  unfold Lane.CalendarLaw
  decide

/-- An unused lane, the minute before the first start, the minute before the oldest window, the end of the last window, and the
horizon; the first and the last first start that a lane can have. -/
theorem witness_HeadGrantIsDiscardedOrHeld :
    (∀ s ∈ [granting ⟨4, 100, 10⟩ lane7Short, granting ⟨7, 59, 1⟩ lane7Short,
        granting ⟨7, 74, 1⟩ { lane7Short with windows := [⟨75, 10, 8, 0, false⟩] }, granting ⟨7, 2880, 1⟩ lane7Short],
      s.resetHeld = false ∧ s.ring.running = true ∧ ∃ g ∈ s.ring.grants,
        (s.lane g.lane).config.ride = 0 ∨ g.minute < (s.lane g.lane).config.firstStart ∨
          (∃ w ∈ (s.lane g.lane).windows.head?, g.minute < w.start) ∨ (s.lane g.lane).lastEnd ≤ g.minute) ∧
    (let s := granting ⟨7, 105, 1⟩ lane7Short;
      s.resetHeld = false ∧ s.ring.running = true ∧ s.ring.grants = ⟨7, 105, 1⟩ :: [] ∧ (s.lane 7).CalendarLaw ∧
        (s.lane 7).config.ride ≠ 0 ∧ (s.lane 7).config.firstStart ≤ 105 ∧
        (s.lane 7).windows.head? = some ⟨60, 40, 36, 30, false⟩ ∧ (s.lane 7).windows.getLast? = some ⟨90, 0, 0, 0, false⟩ ∧
        90 + (s.lane 7).config.windowLength ≤ 105 ∧ 105 < (s.lane 7).lastEnd) ∧
    ∀ f ∈ [0, 2879], let l := { lane7Short with config := { lane7Short.config with firstStart := f } };
      1 ≤ l.config.windowLength ∧ l.config.firstStart ≤ 2879 := by
  unfold Lane.CalendarLaw
  decide

/-- Lane 63 and every lane, zone 5 and every zone, with a notice; the first and the last lane and zone that the part has not; a zone that
the part has, and the first it has not. -/
theorem witness_ClearsAndNotices :
    (65535 < 65536 ∧ (63 : Byte).toNat ≤ 63 ∧ (5 : Byte).toNat ≤ 5 ∧ lawful.TakesRequest ⟨256, 7, 9, le16 65535 ++ [63, 5]⟩ ∧
      lawful.TakesRequest ⟨256, 7, 9, le16 65535 ++ [0xFF, 0xFF]⟩) ∧
    (let s := after (.injectNotice header [5, 14]) lawful;
      s.attn.notices.get 5 ≠ none ∧ (65535 : Nat).testBit 9 = true ∧ s.TakesRequest ⟨256, 7, 9, le16 65535 ++ [63, 5]⟩) ∧
    ((∀ lane zone : Byte, lawful.TakesRequest ⟨256, 7, 9, le16 65535 ++ [lane, zone]⟩) ∧
      (63 < (64 : Byte).toNat ∧ 63 < (254 : Byte).toNat ∧ 5 < (6 : Byte).toNat ∧ (254 : Byte) ≠ 0xFF)) ∧
    (lawful.TakesRequest ⟨256, 7, 10, [5, 14]⟩ ∧ (5 : Fin 6).val = (5 : Byte).toNat) ∧
    (lawful.TakesRequest ⟨256, 7, 10, [6, 14]⟩ ∧ 5 < (6 : Byte).toNat) :=
  ⟨⟨by decide, by decide, by decide, (takes _).1, (takes _).1⟩, ⟨by decide, by decide, ⟨rfl, rfl⟩, rfl, .inl rfl⟩,
    ⟨fun _ _ => (takes _).1, by decide⟩, ⟨(takes _).1, by decide⟩, (takes _).1, by decide⟩

/-- A frame PREPARED for zone 1 whose offer is owed, on a queue of 47 frames, on one of 48, and on a HELD link. -/
theorem witness_AttnFrameIsOffered :
    (∀ n ∈ [47, 48],
      let d := delegated.evaluate (.sp 1)
      let s := withPort d (.sp 1) { d.port (.sp 1) with tx := queue n }
      s.resetHeld = false ∧ 0 < (s.attnPort (.sp 1)).offersDue ∧
        (∃ frame ∈ [s.attnFrame (.sp 1) (s.report (.sp 1))], (s.attnPort (.sp 1)).slot = .prepared frame) ∧
        s.linkUp (.sp 1) = true) ∧
    (let d := delegated.evaluate (.sp 1);
      let s := withSegment d 1 { d.segment 1 with enable := false };
      0 < (s.attnPort (.sp 1)).offersDue ∧ s.linkUp (.sp 1) = false ∧
        ∃ frame ∈ [d.attnFrame (.sp 1) (d.report (.sp 1))], (s.attnPort (.sp 1)).slot = .prepared frame) := by
  decide +kernel

/-- Views 0, 1, 2 and 7 and the first the part has not; a flash range that ends at the last byte and one that passes it; a length of 65; the last lane
and one past it, field 19 and one past it; two entries of LANE that fit, three that do not, and COUNTERS, whose 74 fields do not. -/
theorem witness_ReadingRequestsReport :
    lawful.TakesRequest ⟨256, 7, 1, [2, byteOf 63, 0, 1, 0, 1]⟩ ∧
    ((∀ view : Byte, lawful.TakesRequest ⟨256, 7, 15, [view]⟩) ∧ (2 : Byte).toNat = (0 : Fin 6).val + 2 ∧
      (7 : Byte).toNat = (5 : Fin 6).val + 2 ∧ 7 < (8 : Byte).toNat) ∧
    (65472 < 65536 ∧ 1 ≤ 64 ∧ 64 ≤ 64 ∧ lawful.TakesRequest ⟨256, 7, 12, le16 65472 ++ [byteOf 64]⟩) ∧
    (65535 < 65536 ∧ 65536 < 65535 + 2 ∧ lawful.TakesRequest ⟨256, 7, 12, le16 65535 ++ [byteOf 2]⟩) ∧
    (64 < (65 : Byte).toNat ∧ ∀ length : Byte, lawful.TakesRequest ⟨256, 7, 12, le16 0 ++ [length]⟩) ∧
    lawful.TakesRequest ⟨256, 7, 14, []⟩ ∧
    ((∀ (table field : Byte) (first count : Nat), lawful.TakesRequest ⟨256, 7, 1, [table] ++ le16 first ++ le16 count ++ [field]⟩) ∧
      (8 < (9 : Byte).toNat ∧ tableOfCode (2 : Byte).toNat = some .lane ∧ tableOfCode (8 : Byte).toNat = some .counters) ∧
      (¬ TableId.lane.entries ≤ 63 ∧ TableId.lane.entries ≤ 64 ∧ ¬ TableId.lane.fields < (19 : Byte).toNat ∧
        TableId.lane.fields < (20 : Byte).toNat) ∧
      (lawful.readEntry .lane 0).length = 19 ∧ (lawful.readEntry .counters 0).length = 74) :=
  ⟨(takes _).1, ⟨fun _ => (takes _).1, by decide⟩, ⟨by decide, by decide, by decide, (takes _).1⟩,
    ⟨by decide, by decide, (takes _).1⟩, ⟨by decide, fun _ => (takes _).1⟩, (takes _).1, fun _ _ _ _ => (takes _).1, by decide,
    by decide, by decide⟩

/-- A pair with the value 65,535 for each of the first `top` fields, at most twelve. -/
def twelve (top : Nat) : List (Nat × Nat) := (List.range (min top 12)).map fun f => (f + 1, 65535)

/-- Values on either side of a bound; the last rule; a line and a segment that are disabled; as many pairs as the last entry of each
table takes; a line that is enabled or bound to another lane, a disabled one, and one written as it stands; a delegation set and a
port enable that move a pending source; a state that meets ShutLaw; a segment that is enabled with offers owed. -/
theorem witness_WriteTableStoresLegalized :
    (30 < 65536 ∧ 31 < 65536 ∧ lawful.TakesRequest ⟨256, 7, 2, [2, byteOf 15, 0, 1, 3] ++ le16 31⟩) ∧
    lawful.TakesRequest ⟨256, 7, 2, [3, byteOf 23, 0, 1, 5] ++ le16 65535⟩ ∧
    (board77.TakesRequest ⟨256, 7, 2, [5, byteOf 10, 0, 1, 1, 0, 0]⟩ ∧ (board77.lines.get 10).enable = true) ∧
    (board77.TakesRequest ⟨256, 7, 2, [4, byteOf 1, 0, 1, 1, 0, 0]⟩ ∧ (board77.segment 1).enable = true) ∧
    ((∀ args : List Byte, lawful.TakesRequest ⟨256, 7, 2, args⟩ ∧ idle.TakesRequest ⟨256, 7, 2, args⟩ ∧
        board77.TakesRequest ⟨256, 7, 2, args⟩) ∧
      (∀ table ∈ [TableId.park, .lane, .rule, .segment, .boardLine], let pairs := twelve table.writable;
        1 ≤ pairs.length ∧ pairs.length ≤ 12 ∧ (pairs.map Prod.fst).Nodup ∧
          ∀ p ∈ pairs, 1 ≤ p.1 ∧ p.1 ≤ table.writable ∧ p.2 < 65536) ∧
      (0 < TableId.park.entries ∧ 63 < TableId.lane.entries ∧ 5 < TableId.segment.entries) ∧
      (idle.clock.day ≠ .opened ∧ ∀ j : Fin 64, j.val ≠ 63 → (idle.lane j).config.ride ≠ 250) ∧
      (lawful.clock.day = .opened ∧ ∀ p ∈ [(8, 0), (11, 65535)], p.1 ≠ 1 ∧ p.1 ≠ 9 ∧ p.1 ≠ 10)) ∧
    ((board77.lines.get 10).enable = true ∧ (board77.lines.get 10).port = .sp 1 ∧ board77.linkUp (.sp 1) = true ∧
      (board77.lines.get 191).enable = false) ∧
    ((board77.lines.get 11).enable = false ∧ (0 : Fin 64) ≠ (board77.lines.get 10).lane ∧
      board77.TakesRequest ⟨256, 7, 2, [5, byteOf 10, 0, 1, 4, 0, 0]⟩) ∧
    (∀ new ∈ [{ delegated.segment 1 with delegation := 0 }, { delegated.segment 1 with enable := false }],
      let t := withSegment delegated 1 new
      delegated.laneKindPending .countSkew 8 = true ∧ t.laneKindPending .countSkew 8 = true ∧
        delegated.laneRoute .countSkew 8 = .sp 1 ∧ t.laneRoute .countSkew 8 = .tp ∧ t.report (.sp 1) ≠ delegated.report (.sp 1)) ∧
    (idle.ShutLaw ∧ idle.clock.day ≠ .opened) ∧
    (let s := withSegment (delegated.evaluate (.sp 1)) 1 { delegated.segment 1 with enable := false };
      (s.segment 1).enable = false ∧ 0 < (s.attnPort (.sp 1)).offersDue ∧ (s.attnPort (.sp 1)).slot ≠ .queued ∧
        s.agent.mode = .idle ∧ s.agent.request = none ∧ s.resetHeld = false ∧ s.loader.state = .ready) :=
  ⟨⟨by decide, by decide, (takes _).1⟩, (takes _).1, ⟨⟨⟨rfl, rfl⟩, rfl, .inl rfl⟩, by decide⟩, ⟨⟨⟨rfl, rfl⟩, rfl, .inl rfl⟩, by decide⟩,
    ⟨fun _ => ⟨(takes _).1, (takes _).2.1, ⟨rfl, rfl⟩, rfl, .inl rfl⟩, by decide, by decide, by decide, by decide⟩, by decide,
    ⟨by decide, by decide, ⟨rfl, rfl⟩, rfl, .inl rfl⟩, by decide +kernel, ⟨witness_StepKeepsShutLaw.1, by decide⟩, by decide +kernel⟩

/-- A segment that the part has, the first it has not, room on TP, and the RESET ENGINE reply in transmission. -/
theorem witness_ResetRequestsAreHandedOn :
    (lawful.TakesRequest ⟨256, 7, 11, [2, 5]⟩ ∧ (5 : Fin 6).val = (5 : Byte).toNat) ∧
    (lawful.TakesRequest ⟨256, 7, 11, [2, 6]⟩ ∧ 5 < (6 : Byte).toNat) ∧
    (lawful.TakesRequest ⟨256, 7, 11, [1, 6]⟩ ∧ (lawful.port .tp).tx.length < 48) ∧
    (let s := withPort { lawful with agent := ⟨.resetting, none, none, 0⟩ } .tp
        { lawful.port .tp with tx := [⟨[1], .engineReply⟩], sending := true };
      s.resetHeld = false ∧ s.agent.mode = .resetting ∧ (s.port .tp).sending = true ∧
        (s.port .tp).tx = ⟨[1], .engineReply⟩ :: []) :=
  ⟨⟨(takes _).1, by decide⟩, ⟨(takes _).1, by decide⟩, ⟨(takes _).1, by decide⟩, by decide⟩

/-- A write that ends at the last byte, and its completion; 0 bytes and 65, a write past the last byte, and one while BUSY. -/
theorem witness_FlashWriteAndItsCompletion :
    (65534 + [1, 2].length ≤ 65536 ∧ lawful.flash.access ≠ .busy ∧
      lawful.TakesRequest ⟨256, 7, 13, le16 65534 ++ [byteOf 2] ++ [1, 2]⟩) ∧
    ((∀ args : List Byte, lawful.TakesRequest ⟨256, 7, 13, args⟩ ∧ writing.TakesRequest ⟨256, 7, 13, args⟩) ∧
      64 < (List.replicate 65 (0 : Byte)).length ∧ (List.replicate 65 (0 : Byte)).length < 256 ∧ 65536 < 65534 + [1, 2, 3].length) ∧
    writing.resetHeld = false ∧ writing.FlashLaw ∧ writing.flash.access = .busy :=
  ⟨⟨by decide, by decide, (takes _).1⟩, ⟨fun _ => ⟨(takes _).1, ⟨rfl, rfl⟩, rfl, .inl rfl⟩, by decide⟩, rfl, writing_flash, rfl⟩

/-- A queue of TP with room for one frame, a full one, a HELD trunk, and a held reply, of RESET ENGINE or not, that is owed an offer. -/
theorem witness_ReplyIsQueuedOrHeld :
    (let s := withPort lawful .tp { lawful.port .tp with tx := queue 47 };
      s.linkUp .tp = true ∧ (s.port .tp).tx.length < 48) ∧
    (let s := withPort lawful .tp { lawful.port .tp with tx := queue 48 };
      48 ≤ (s.port .tp).tx.length) ∧
    State.reset.linkUp .tp = false ∧
    (∀ engine ∈ [false, true], let s := { lawful with agent := ⟨.holding, none, some ⟨[1], engine⟩, 1⟩ };
      s.resetHeld = false ∧ s.loader.state = .ready ∧ s.agent.mode = .holding ∧ s.agent.reply = some ⟨[1], engine⟩ ∧
        0 < s.agent.offersDue) := by decide

/-- A HELD port, a frame of the wrong size, one with a wrong CRC, a good one for a queue of 23 and for one of 24. -/
theorem witness_FrameReceiveChecksAndQueues :
    let good := buildFrame 0x40 650 900 [1, 2, 3]
    let size := fun b : List Byte => b.length < 9 ∨ 96 < frameLength b ∨ b.length ≠ 9 + frameLength b
    let crc := fun b : List Byte => (crc16 (b.take (b.length - 2))).toNat ≠ fieldAt b (b.length - 2) 2
    lawful.resetHeld = false ∧ lawful.linkUp .tp = true ∧ lawful.linkUp (.sp 0) = false ∧ size [1, 2] ∧
      (¬ size (good.dropLast ++ [0]) ∧ crc (good.dropLast ++ [0])) ∧ (¬ size good ∧ ¬ crc good) ∧
      (lawful.port .tp).rx.length < 24 ∧
      24 ≤ ((withPort lawful .tp { lawful.port .tp with rx := List.replicate 24 ⟨good, 0⟩ }).port .tp).rx.length := by
  decide +kernel

/-- Frames of section 6.9 for each clause: row 9, hairpin, the trunk, no route, the drops, and a LINK_RESET; requests too short, of the
codes 0 and 16, of no reset level, and one handed over; a ZONE_CLEAR for lane 63, for every lane, without
COUNT_SKEW where the last report of the zone is its report, for lane 64, and one too short; and a broadcast to a queue of 39 frames, to
one of 40, and past a HELD link. -/
theorem witness_RouteFrameByTheTable :
    let others : List (Port × List Byte) := [(.tp, buildFrame kindBoard 650 900 []), (.sp 0, buildFrame 0x40 300 900 []),
      (.sp 5, buildFrame 0x40 1100 900 []), (.tp, buildFrame kindScan 45 900 [])]
    (∀ x ∈ others, let s := received ports69 x.1 x.2
      s.resetHeld = false ∧ (s.port x.1).rx = ⟨x.2, 0⟩ :: [] ∧ frameKind x.2 ≠ 0x1F ∧ frameDestination x.2 ≠ 0 ∧
        ¬ (251 ≤ frameDestination x.2 ∧ frameDestination x.2 ≤ 255) ∧ frameDestination x.2 ≠ s.park.nodeAddress ∧
        frameDestination x.2 ≠ 16383 ∧ (frameKind x.2 ≠ 0x10 ∨ 250 < frameDestination x.2 ∨ x.1 = .tp)) ∧
    ((ports69.segment 1).enable = true ∧ (ports69.segment 1).window1 = ⟨512, 767, true⟩) ∧
    frameKind (buildFrame kindLinkReset 16383 900 []) = 0x1F ∧
    (frameKind (buildFrame 0x40 251 900 []) ≠ 0x1F ∧ frameDestination (buildFrame 0x40 251 900 []) = 251 ∧
      frameDestination (buildFrame 0x40 255 900 []) = 255) ∧
    (256 ≤ 257 ∧ ports69.park.nodeAddress = 257 ∧ frameDestination (buildFrame 0x40 257 900 []) = 257 ∧
      frameKind (buildFrame 0x40 257 900 []) ≠ 0x15) ∧
    (∀ payload ∈ [[1], [1, 0, 0], [1, 0, 16], [1, 0, 11, 3, 0], [1, 0, 14]],
      let f := buildFrame kindMgmtReq 257 900 payload
      let s := received ports69 .tp f
      s.resetHeld = false ∧ (s.port .tp).rx = ⟨f, 0⟩ :: [] ∧ frameKind f = 0x15 ∧ frameDestination f = s.park.nodeAddress ∧
        256 ≤ s.park.nodeAddress ∧ s.agent.mode = .idle ∧ s.agent.request = none ∧ framePayload f = payload) ∧
    (∀ payload ∈ [[0x20, 0, 63, 0], [0x20, 0, 255, 0], [0x1F, 0, 255, 0], [0x20, 0, 64, 0], [0x20, 0, 63]],
      let f := buildFrame kindZoneClear 257 256 payload
      let s := received ports69 (.sp 1) f
      s.resetHeld = false ∧ (s.port (.sp 1)).rx = ⟨f, 0⟩ :: [] ∧ frameKind f = 0x14 ∧ frameDestination f = s.park.nodeAddress ∧
        frameSource f = (s.segment 1).stationAddress ∧ framePayload f = payload ∧
        (s.attnPort (.sp 1)).last = s.report (.sp 1)) ∧
    ((fieldAt [0x20, 0, 63, 0] 0 2).testBit 5 = true ∧ (fieldAt [0x1F, 0, 255, 0] 0 2).testBit 5 = false) ∧
    (let f := buildFrame 0x40 16383 900 [];
      let s := withPort (withPort (received ports69 (.sp 0) f) .tp { ports69.port .tp with tx := queue 39 }) (.sp 1)
        { ports69.port (.sp 1) with tx := queue 40 };
      s.resetHeld = false ∧ (s.port (.sp 0)).rx = ⟨f, 0⟩ :: [] ∧ frameKind f ≠ 0x1F ∧ frameDestination f = 16383 ∧
        s.park.nodeAddress ≠ 16383 ∧ s.linkUp .tp = true ∧ s.linkUp (.sp 1) = true ∧ s.linkUp (.sp 3) = false) := by decide +kernel

/-- Scan S2 to S6 without rules: each hint on a lane that serves ride 37; a scan of another length; and the rules of section 5.10, whose
first chain, rules 0 and 1, decides scan S1. -/
theorem witness_ScanIsHandedOnByHint :
    (∀ hint ∈ [1, 2, 3, 4, 5],
      let f : RxFrame := ⟨scanFrame 1100 37 0 hint 4 2, 60⟩
      let s := received { park510 with rules := Vector.replicate 24 .default } (.sp 1) f.bytes
      s.resetHeld = false ∧ (s.port (.sp 1)).rx = ⟨f.bytes, 0⟩ :: [] ∧ (∀ j : Fin 24, (s.rules.get j).enable = false) ∧
        s.park.defaultAction = .byHint ∧ 256 ≤ s.park.nodeAddress ∧ frameKind f.bytes = 0x10 ∧ frameLength f.bytes = 16 ∧
        frameDestination f.bytes = fieldAt (framePayload f.bytes) 4 1 ∧ fieldAt (framePayload f.bytes) 4 1 = 37 ∧
        (s.lane 12).config.ride = 37 ∧ (∀ j : Fin 64, (s.lane j).config.ride = 37 → j = 12) ∧
        (scanOf 1 f).roleHint = hint) ∧
    (let f := buildFrame kindScan 37 1100 [];
      frameKind f = 0x10 ∧ frameDestination f = 37 ∧ ¬ (frameLength f = 16 ∧ fieldAt (framePayload f) 4 1 = 37)) ∧
    (let f := scanFrame 1100 37 200 3 0 0;
      (fieldAt (framePayload f) 9 1 &&& 255 = 200 ∧ fieldAt (framePayload f) 5 1 &&& 65535 = 3) ∧
      (∀ j : Fin 24, 0 ≤ j → j < 1 → (park510.rules.get j).chain = true) ∧ (park510.rules.get 1).chain = false ∧
      park510.rules.get 0 = ⟨true, true, .ticketClass, .eq, 255, 200, .refuseClass, none, 0⟩ ∧
      park510.rules.get 1 = ⟨true, false, .roleHint, .eq, 65535, 3, .passThrough, none, 0⟩) := by decide +kernel

/-- Scan S3 of section 5.10: the chain of rules 0 and 1 does not match it, that of rules 2 and 3 does. -/
theorem witness_ChainMatchesByItsEnabledRules :
    let f : RxFrame := ⟨scanFrame 1204 41 0 2 14 3, 0⟩
    let s := received park510 (.sp 2) f.bytes
    let all := chains ((List.finRange 24).map fun j => (j.val, s.rules.get j))
    s.resetHeld = false ∧ (s.port (.sp 2)).rx = f :: [] ∧ 256 ≤ s.park.nodeAddress ∧ frameKind f.bytes = 0x10 ∧
      frameLength f.bytes = 16 ∧ frameDestination f.bytes = fieldAt (framePayload f.bytes) 4 1 ∧ frameDestination f.bytes = 41 ∧
      all = all.take 1 ++ [(2, s.rules.get 2), (3, s.rules.get 3)] :: all.drop 2 ∧
      (∀ x ∈ all.take 1, chainMatches x (scanOf 2 f) = false) ∧
      chainMatches [(2, s.rules.get 2), (3, s.rules.get 3)] (scanOf 2 f) = true := by decide +kernel

/-- A port with a frame waiting, queues of 47 and 48 frames with the head in transmission, the reply of RESET ENGINE with 47 frames
behind it while the agent is RESETTING, and a TP with 48 frames, a PREPARED attention frame and a held reply. -/
theorem witness_TransmissionStartsAndCompletes :
    (∀ n ∈ [47, 48],
      let s := withPort ports69 (.sp 4) { ports69.port (.sp 4) with tx := queue n }
      s.resetHeld = false ∧ s.linkUp (.sp 4) = true ∧ (s.port (.sp 4)).sending = false ∧
        (s.port (.sp 4)).tx = ⟨[], .forwarded⟩ :: queue (n - 1) ∧ (queue (n - 1)).length = n - 1 ∧
        ((withPort s (.sp 4) { s.port (.sp 4) with sending := true }).port (.sp 4)).sending = true) ∧
    (let s := withPort { lawful with agent := ⟨.resetting, none, none, 0⟩ } .tp
        { lawful.port .tp with tx := ⟨[1], .engineReply⟩ :: queue 47, sending := true };
      s.resetHeld = false ∧ s.linkUp .tp = true ∧ s.agent.mode = .resetting ∧ (s.port .tp).sending = true ∧
        (s.port .tp).tx = ⟨[1], .engineReply⟩ :: queue 47 ∧ (queue 47).length = 47) ∧
    (let d := { State.evaluate { lawful with park := { lawful.park with trunkEnables := 0x1FF }, attn := { lawful.attn with clockEnd := true } } .tp
        with agent := ⟨.holding, none, some ⟨[1], false⟩, 0⟩ };
      let s := withPort d .tp { d.port .tp with tx := queue 48, sending := true };
      s.resetHeld = false ∧ s.linkUp .tp = true ∧ s.agent.mode = .holding ∧ (s.port .tp).sending = true ∧
        (s.port .tp).tx = ⟨[], .forwarded⟩ :: queue 47 ∧ (s.attnPort .tp).slot = .prepared (s.attnFrame .tp (s.report .tp))) := by
  decide +kernel

/-- Line 10 of section 7.7 pending on SP1, with room, at 48 frames and with nothing pending; seventeen lines of one board and one line of
another pending on SP1, with room for one frame. -/
theorem witness_BoardRunsOfferPendingLines :
    let waiting := fun s : State =>
      (List.finRange 192).filter fun j => (s.lines.get j).pending.isSome && decide ((s.lines.get j).port = .sp 1)
    let s := board77.markPublished fun i => i == 12
    (s.resetHeld = false ∧ s.linkUp (.sp 1) = true ∧ 0 < (s.port (.sp 1)).boardRuns ∧ (s.port (.sp 1)).tx.length < 48 ∧
      waiting s = 10 :: []) ∧
    (let t := withPort s (.sp 1) { s.port (.sp 1) with tx := queue 48 };
      0 < (t.port (.sp 1)).boardRuns ∧ 48 ≤ (t.port (.sp 1)).tx.length ∧ waiting t ≠ []) ∧
    (let t := { s with lines := board77.lines }; 0 < (t.port (.sp 1)).boardRuns ∧ waiting t = []) ∧
    (let u := withPort s (.sp 1) { s.port (.sp 1) with tx := queue 47 };
      let t := { u with lines := tabulate fun j => if j.val < 18 then
        ⟨true, if j.val = 1 then 901 else 900, 0, 12, .sp 1, some ⟨.off, none, .absent⟩⟩ else u.lines.get j };
      t.resetHeld = false ∧ t.linkUp (.sp 1) = true ∧ 0 < (t.port (.sp 1)).boardRuns ∧ (t.port (.sp 1)).tx.length < 48 ∧
        waiting t = 0 :: ((List.finRange 192).filter fun j => decide (1 ≤ j.val ∧ j.val < 18))) := by decide +kernel

/-- Section 7.7, event 1, where the wait has moved; and the same lane with 25 published, where nothing is due. -/
theorem witness_PublishCheckDecides :
    (board77.lane 12).checkPublishes true 32400 100 (board77.lane 12).grownRefresh = true ∧
    (let l := { board77.lane 12 with publish := ⟨.wait, 25, .minute 675, 2⟩ };
      l.checkPublishes true 32400 100 l.grownRefresh = false) := by decide

/-- A part that probes a blank flash, an image of nine entries and one of none; one at the last entry that fits with more to load; one at
the last entry of nine, with an entry that is accepted and an entry that is refused, with TP UP and SP0 HELD at its end; and one past
the end. -/
theorem witness_LoaderLoadsTheImage :
    (State.reset.resetHeld = false ∧ State.reset.loader.state = .probing ∧ State.reset.flash.mem.read 0 ≠ 0xC7) ∧
    (∀ n ∈ [9, 0], let mem : Memory := [(0, 0xC7), (1, 0x3A), (2, 1), (3, n), (4, 0)];
      mem.read 0 = 0xC7 ∧ mem.read 1 = 0x3A ∧ mem.read 2 = 1 ∧ (mem.read 3).toNat + 256 * (mem.read 4).toNat = n.toNat) ∧
    (let s := { State.reset with loader := { State.reset.loader with state := .loading, position := 10920, count := 11000 } };
      s.resetHeld = false ∧ s.loader.state = .loading ∧ s.loader.position + 1 < s.loader.count ∧ s.loader.position ≤ 10920) ∧
    (let s := { State.reset with loader := { State.reset.loader with state := .loading, position := 8, count := 9 } };
      s.resetHeld = false ∧ s.loader.state = .loading ∧ s.loader.position ≤ 10920 ∧ s.loader.count ≤ s.loader.position + 1 ∧
        (s.attnPort .tp).slot ≠ .queued ∧ s.portEnabled .tp = true ∧ s.portEnabled (.sp 0) = false ∧
        (∃ t legalized, s.writeTable 2 3 [(9, 13)] = .accepted t legalized) ∧
        ∃ status pair, s.writeTable 255 65535 [(255, 65535)] = .refused status pair) ∧
    (let s := { State.reset with loader := { State.reset.loader with state := .loading, position := 10921, count := 11000 } };
      s.resetHeld = false ∧ s.loader.state = .loading ∧ 10921 ≤ s.loader.position) := by
  exact ⟨by decide, by decide, by decide, ⟨rfl, rfl, by decide, by decide, by decide, rfl, by decide, ⟨_, _, rfl⟩, ⟨_, _, rfl⟩⟩, by decide⟩

end Sys2Proof.Tests
end

section
/-! What a step can do to the day: the changes of clock, lanes, Grant Ring and Pass Register that the laws speak of, each once. -/

namespace Sys2Proof.Machine

/-! ## What the laws of the day read -/

/-- Nothing of a lane that a law reads has changed, but that it may no longer be stale. -/
structure Lane.Keeps (l m : Lane) : Prop where
  config : m.config = l.config
  windows : m.windows = l.windows
  mode : m.live.mode = l.live.mode
  grantLow : m.grantLow = l.grantLow
  stale : m.live.stale = true → l.live.stale = true

theorem Lane.Keeps.refl (l : Lane) : l.Keeps l := ⟨rfl, rfl, rfl, rfl, id⟩

/-- Nothing that a law of the day reads has changed between two states. -/
structure State.KeepsDay (s t : State) : Prop where
  clock : t.clock = { s.clock with clockEndDue := t.clock.clockEndDue }
  lanes : ∀ i, (s.lane i).Keeps (t.lane i)
  ring : t.ring = s.ring
  register : t.register = s.register

theorem State.KeepsDay.of_same {s t : State} (hc : t.clock = s.clock) (hl : t.lanes = s.lanes) (hr : t.ring = s.ring)
    (hg : t.register = s.register) : s.KeepsDay t :=
  ⟨by rw [hc], fun i => by rw [State.lane, State.lane, hl]; exact .refl _, hr, hg⟩

theorem setLanes_keepsDay {s : State} {f : Fin 64 → Lane} (h : ∀ i, (s.lane i).Keeps (f i)) : s.KeepsDay (s.setLanes f) :=
  ⟨rfl, fun i => by rw [setLanes_lane]; exact h i, rfl, rfl⟩

theorem setLane_keepsDay {s : State} {i : Fin 64} {l : Lane} (h : (s.lane i).Keeps l) : s.KeepsDay (s.setLane i l) :=
  ⟨rfl, fun j => by
    rw [setLane_lane]
    split
    · next e => exact e ▸ h
    · exact .refl _, rfl, rfl⟩

/-! ## The changes -/

/-- What a command can do to the day: every change of clock, lanes, ring and register that some law reads, and nothing else. -/
inductive Evolves : State → State → Prop where
  | keep {s t : State} (h : s.KeepsDay t) : Evolves s t
  | trans {s t u : State} (h : Evolves s t) (k : Evolves t u) : Evolves s u
  | power (s : State) : Evolves s s.powerReset
  | ring {s : State} {r : GrantRing} (held : r.headHeld = s.ring.headHeld) (run : r.running = true → s.ring.running = true ∨ s.dayOpen = true) :
      Evolves s { s with ring := r }
  | second {s : State} (hd : s.dayOpen = true) (ho : s.clock.ops < Config.lastSecond) :
      Evolves s { s with clock := s.clock.reach (s.clock.ops + 1) s.park.period }
  | minute {s : State} {n : Nat} {rest : List Nat} (h : s.clock.minutesDue = n :: rest) :
      Evolves s { s with
        clock := { s.clock with minutesDue := rest }
        lanes := tabulate fun i => (s.lane i).minuteBoundary n (noShowRiders ((s.lane i).retired n) s.register i)
        register := s.register.filterMap fun r => sweepRecord ((s.lane r.lane).retired n) n r }
  | period {s : State} {d : PeriodDue} {rest : List PeriodDue} (h : s.clock.periodsDue = d :: rest) :
      Evolves s { s with
        clock := { s.clock with periodsDue := rest }
        lanes := tabulate fun i => (s.periodLane d i).1 }
  | mode {s : State} {i : Fin 64} {m : LaneMode} {e publishes : Bool} {l : Lane}
      (h : (s.lane i).changeMode m e s.minute = some (l, publishes))
      (hd : s.dayOpen = true ∨ (s.lane i).live.mode ≠ .closed) : Evolves s (s.setLane i (l.evaluateGrantLow s.minute))
  | issue {s : State} {i : Fin 64} {ticket party : Nat} {w : Window} (h : s.checkRequest i ticket party = .issue w) :
      Evolves s (s.issuePass i ticket party w)
  | redeem {s : State} {i : Fin 64} {ticket start : Nat} {r : PassRecord} (hd : s.dayOpen = true)
      (hr : findRecord s.register ticket i = some r) (h : r.state = .issued start) : Evolves s (s.redeemIssued i r start)
  | redeemCarried {s : State} {i : Fin 64} {ticket since : Nat} {r : PassRecord} (hd : s.dayOpen = true)
      (hr : findRecord s.register ticket i = some r) (h : r.state = .carried since) : Evolves s (s.redeemCarried i r)
  | void {s : State} {i : Fin 64} {ticket : Nat} {r : PassRecord} (hr : findRecord s.register ticket i = some r)
      (h : ∀ w, r.state ≠ .redeemed w) : Evolves s (s.voidRecord i r)
  | built {s : State} (hd : s.dayOpen = false) (offset : Nat) : Evolves s (s.dayBuilt (storedOffset offset))
  | emptied {s : State} (hd : s.dayOpen = true) (h : ∀ i, (s.lane i).live.mode = .closed) : Evolves s s.dayEmptied
  | resolve {s : State} (h : s.ring.running = true) : Evolves s s.resolveHead
  | write {s t : State} {code index : Nat} {pairs : List (Nat × Nat)} {legalized : Bool}
      (h : s.writeTable code index pairs = .accepted t legalized) : Evolves s t

theorem Evolves.refl (s : State) : Evolves s s := .keep (.of_same rfl rfl rfl rfl)

theorem Evolves.after {s t u : State} (k : Evolves t u) (h : Evolves s t) : Evolves s u := h.trans k

/-- Clock, lanes, ring and register as they were: the day goes on as it was. -/
theorem Evolves.of_same {s t : State} (hc : t.clock = s.clock) (hl : t.lanes = s.lanes) (hr : t.ring = s.ring)
    (hg : t.register = s.register) : Evolves s t := .keep (.of_same hc hl hr hg)

/-! ## Shared operations -/

theorem markPublished_keepsDay (s : State) (select : Fin 64 → Bool) : s.KeepsDay (s.markPublished select) :=
  .of_same (by simp) (by simp) (by simp) (by simp)

theorem published_keeps (l : Lane) (o : Bool) (d n : Nat) : l.Keeps (l.published o d n) := ⟨rfl, rfl, rfl, rfl, id⟩

theorem publishLane_evolves (s : State) (i : Fin 64) (n : Nat) : Evolves s (s.publishLane i n) :=
  .trans (.keep (setLane_keepsDay (published_keeps ..))) (.keep (markPublished_keepsDay ..))

theorem publishAll_evolves (s : State) : Evolves s s.publishAll := by
  refine .trans (t := s.setLanes fun i => if (s.lane i).inUse then
    (s.lane i).published s.dayOpen s.clock.dayOffset s.minute else s.lane i) (.keep (setLanes_keepsDay fun i => ?_)) ?_
  · split
    · exact published_keeps ..
    · exact .refl _
  · exact .of_same (by simp) (by simp [State.publishAll]) (by simp) (by simp)

theorem startRun_evolves (s : State) : Evolves s s.startRun := by
  unfold State.startRun
  split
  · exact .ring rfl fun _ => .inr ‹_›
  · exact .refl s

theorem evaluateEach_evolves (s : State) (ds : List Port) : Evolves s (s.evaluateEach ds) :=
  .of_same (by simp) (by simp) (by simp) (by simp)

theorem evaluate_evolves (s : State) (d : Port) : Evolves s (s.evaluate d) :=
  .of_same (by simp) (by simp) (by simp) (by simp)

theorem giveGrantHeld_evolves (s t : State) : Evolves t (s.giveGrantHeld t) :=
  s.giveGrantHeld_frame t ▸ .of_same rfl rfl rfl rfl

theorem consumeRun_evolves (s : State) (fuel : Nat) : Evolves s (s.consumeRun fuel) := by
  induction fuel generalizing s with
  | zero => exact .refl s
  | succ fuel ih =>
    unfold State.consumeRun
    split
    · exact .trans (.resolve ‹_›) (ih _)
    · exact .refl s

theorem changeMode_evolves {s : State} {i : Fin 64} {m : LaneMode} (e : Bool)
    (hd : s.dayOpen = true ∨ (s.lane i).live.mode ≠ .closed) : Evolves s (s.changeMode i m e) := by
  unfold State.changeMode
  split
  · exact .refl s
  · next l publishes h =>
    refine .trans ?_ (evaluateEach_evolves _ _)
    split
    · exact .trans (.mode h hd) (publishLane_evolves ..)
    · exact .mode h hd

theorem loaderReady_evolves (s : State) (o : LoaderOutcome) : Evolves s (s.loaderReady o) :=
  .of_same (by simp) (by simp) (by simp) (by simp)

theorem sendAnswer_evolves (s : State) (o : ScanOrigin) (n : Nat) (a : Answer) : Evolves s (s.sendAnswer o n a) :=
  .of_same (by simp) (by simp) (by simp) (by simp)

theorem reply_evolves (s : State) (r : MgmtRequest) (st : Status) (c : List Byte) (e : Bool) : Evolves s (s.reply r st c e) :=
  .of_same (by simp) (by simp) (by simp) (by simp)

/-! ## Requests -/

/-- A request keeps to the changes when carrying it out does. -/
theorem takeRequest_evolves {s t : State} {req : MgmtRequest} {f : State → Carried} (h : takeRequest req s f = .next t)
    (hf : ∀ u : State, Evolves u (f u).state) : Evolves s t :=
  takeRequest_keeps h (.refl s) fun _ =>
    .trans (.of_same (t := s.atRequest) rfl rfl rfl rfl) (.trans (hf _) (reply_evolves ..))

theorem refuse_evolves (s : State) (st : Status) (c : List Byte) : Evolves s (refuse s st c).state := .refl s

theorem withLength_evolves {s : State} {args : List Byte} {n : Nat} {bad : List Byte} {f : Unit → Carried}
    (h : Evolves s (f ()).state) : Evolves s (withLength args n s bad f).state := by
  unfold withLength
  split
  · exact h
  · exact refuse_evolves ..

theorem carrySetMode_evolves (args : List Byte) (s : State) : Evolves s (carrySetMode args s).state := by
  refine withLength_evolves ?_
  dsimp only
  by_cases hl : fieldAt args 0 1 < 64
  · rw [dif_pos hl]
    cases modeOfCode (fieldAt args 1 1) with
    | none => exact .refl s
    | some target =>
      dsimp only
      by_cases hd : s.dayOpen = true
      · rw [if_neg (by simp [hd])]
        split
        · exact .refl s
        · split
          · exact .refl s
          · exact changeMode_evolves _ (.inl hd)
      · rw [if_pos (by simpa using hd)]
        exact .refl s
  · rw [dif_neg hl]
    exact .refl s

theorem carryReadTable_evolves (args : List Byte) (s : State) : Evolves s (carryReadTable args s).state := by
  refine withLength_evolves ?_
  dsimp only
  repeat' split
  all_goals exact .refl s

theorem carryWriteTable_evolves (args : List Byte) (s : State) : Evolves s (carryWriteTable args s).state := by
  unfold carryWriteTable
  dsimp only
  split
  · exact .refl s
  · split
    · exact .refl s
    · exact .write ‹_›

theorem openDay_evolves {s : State} (hd : s.dayOpen = false) (w : Nat) : Evolves s (s.openDay (storedOffset w)) :=
  .trans (.built hd w) (.trans (startRun_evolves _)
    (.trans (consumeRun_evolves _ _) (.trans (giveGrantHeld_evolves _ _) (publishAll_evolves _))))

theorem carryOpenDay_evolves (args : List Byte) (s : State) : Evolves s (carryOpenDay args s).state := by
  refine withLength_evolves ?_
  dsimp only
  split
  · exact .refl s
  · next hd => exact openDay_evolves (by simpa using hd) _

theorem firstOpenLane_none {s : State} : s.firstOpenLane = none ↔ ∀ i, (s.lane i).live.mode = .closed := by
  simp [State.firstOpenLane]

theorem closeDay_evolves {s : State} (hd : s.dayOpen = true) (h : ∀ i, (s.lane i).live.mode = .closed) : Evolves s s.closeDay := by
  have emptied : Evolves s s.dayEmptied := .emptied hd h
  exact (emptied.trans (publishAll_evolves _)).trans (evaluateEach_evolves _ allPorts)

theorem carryCloseDay_evolves (args : List Byte) (s : State) : Evolves s (carryCloseDay args s).state := by
  refine withLength_evolves ?_
  split
  · exact .refl s
  · next hd =>
    split
    · exact .refl s
    · next hl =>
      dsimp only
      exact closeDay_evolves (by simpa using hd) (firstOpenLane_none.1 hl)

theorem postGrants_evolves (s : State) (gs : List Grant) : Evolves s (s.postGrants gs) := by
  unfold State.postGrants
  exact .after (startRun_evolves _) (.ring rfl .inl)

theorem carryPostGrants_evolves (args : List Byte) (s : State) : Evolves s (carryPostGrants args s).state := by
  unfold carryPostGrants
  dsimp only
  split
  · exact .refl s
  · split
    · exact .refl s
    · split
      · exact .refl s
      · exact postGrants_evolves ..

theorem voidPass_evolves (s : State) (i : Fin 64) (ticket : Nat) : Evolves s (s.voidPass i ticket).1 := by
  unfold State.voidPass
  split
  · exact .refl s
  · next r hr =>
    split
    · exact .refl s
    · next h => exact .void hr fun w e => h w e

theorem carryVoidPass_evolves (args : List Byte) (s : State) : Evolves s (carryVoidPass args s).state := by
  refine withLength_evolves ?_
  dsimp only
  split
  · exact voidPass_evolves ..
  · exact .refl s

theorem carryQueryPass_evolves (args : List Byte) (s : State) : Evolves s (carryQueryPass args s).state := by
  refine withLength_evolves ?_
  dsimp only
  repeat' split
  all_goals exact .refl s

theorem clearSources_evolves (s : State) (kinds : BitVec 16) (lane zone : Nat) : Evolves s (s.clearSources kinds lane zone) := by
  refine .trans (.keep (setLanes_keepsDay (f := (s.clearSources kinds lane zone).lane) fun i => ?_)) (.of_same rfl ?_ rfl rfl)
  · simp only [State.lane, State.clearSources, get_tabulate]
    split <;> exact ⟨rfl, rfl, rfl, rfl, id⟩
  · exact table_ext fun i => by simp [State.setLanes, State.lane]

theorem carryClearAttention_evolves (args : List Byte) (s : State) : Evolves s (carryClearAttention args s).state := by
  refine withLength_evolves ?_
  dsimp only
  split
  · exact .refl s
  · exact .trans (clearSources_evolves ..) (evaluateEach_evolves _ _)

theorem carryInjectNotice_evolves (args : List Byte) (s : State) : Evolves s (carryInjectNotice args s).state := by
  refine withLength_evolves ?_
  dsimp only
  split
  · exact .of_same (by simp) (by simp) (by simp) (by simp)
  · exact .refl s

theorem carryResetSegment_evolves (segment : Byte) (s : State) : Evolves s (carryResetSegment segment s).state := by
  unfold carryResetSegment
  split
  · exact .of_same rfl rfl rfl rfl
  · exact .refl s

theorem carryReadStatus_evolves (args : List Byte) (s : State) : Evolves s (carryReadStatus args s).state := by
  refine withLength_evolves ?_
  dsimp only
  repeat' split
  all_goals exact .refl s

theorem carryFlashRead_evolves (args : List Byte) (given : Nat) (s : State) : Evolves s (carryFlashRead args given s).state := by
  refine withLength_evolves ?_
  dsimp only
  split <;> exact .refl s

theorem carryFlashWrite_evolves (args : List Byte) (s : State) : Evolves s (carryFlashWrite args s).state := by
  unfold carryFlashWrite
  dsimp only
  repeat' split
  iterate 2 exact .refl s
  exact .of_same rfl rfl rfl rfl

theorem carryFlashStatus_evolves (args : List Byte) (s : State) : Evolves s (carryFlashStatus args s).state :=
  withLength_evolves (.refl s)

/-! ## Scans and frames -/

theorem onLaneInUse_evolves {s : State} {i : Fin 64} {f : State → State} (h : Evolves s (f s)) : Evolves s (s.onLaneInUse i f) := by
  unfold State.onLaneInUse
  split
  · exact h
  · exact .of_same rfl rfl rfl rfl

theorem onOpenDay_evolves {s : State} {f : State → State} (h : Evolves s (f s)) : Evolves s (s.onOpenDay f) := by
  unfold State.onOpenDay
  split
  · exact h
  · exact .of_same rfl rfl rfl rfl

/-- A lane action keeps to the changes when its effect on a lane in use does. -/
theorem takeAction_evolves {s t : State} {a : ScanAction} {i : Fin 64} {f : State → State}
    (h : takeAction a s (fun s => s.onLaneInUse i f) = .next t) (hf : ∀ u : State, Evolves u (f u)) : Evolves s t :=
  takeAction_keeps h (.refl s) fun _ => .trans (.of_same (t := s.atAction a) rfl rfl rfl rfl) (onLaneInUse_evolves (hf _))

theorem takeEntry_evolves (i : Fin 64) (c : Nat) (s : State) : Evolves s (s.takeEntry i c) :=
  onOpenDay_evolves (.keep (setLane_keepsDay ⟨rfl, rfl, rfl, rfl, id⟩))

theorem countBoarding_keeps (v : LaneLive) (c c2 : Nat) :
    (v.countBoarding c c2).mode = v.mode ∧ ((v.countBoarding c c2).stale = true → v.stale = true) := by
  unfold LaneLive.countBoarding
  dsimp only
  split
  · exact ⟨rfl, nofun⟩
  · exact ⟨rfl, id⟩

theorem takeBoarding_evolves (i : Fin 64) (c c2 : Nat) (s : State) : Evolves s (s.takeBoarding i c c2) := by
  obtain ⟨hm, hs⟩ := countBoarding_keeps (s.lane i).live c c2
  refine onOpenDay_evolves (.trans (.keep (setLane_keepsDay (i := i)
    (l := { s.lane i with live := (s.lane i).live.countBoarding c c2 }) ⟨rfl, rfl, hm, rfl, hs⟩)) ?_)
  dsimp only
  split
  · exact .refl _
  · exact evaluate_evolves _ _

theorem latchRegisterFull_evolves (s : State) : Evolves s s.latchRegisterFull :=
  .of_same (by simp [State.latchRegisterFull]) (by simp [State.latchRegisterFull]) (by simp [State.latchRegisterFull])
    (by simp [State.latchRegisterFull])

theorem passRequest_evolves (s : State) (i : Fin 64) (ticket party : Nat) : Evolves s (s.passRequest i ticket party).1 := by
  unfold State.passRequest
  split
  · exact .refl s
  · exact latchRegisterFull_evolves s
  · exact .issue ‹_›

theorem passReturn_evolves (s : State) (i : Fin 64) (ticket event : Nat) : Evolves s (s.passReturn i ticket event).1 := by
  unfold State.passReturn
  split
  · exact .refl s
  · next hd =>
    replace hd : s.dayOpen = true := by simpa using hd
    split
    · exact .refl s
    · next r hr =>
      split
      · exact .refl s
      · next h =>
        split
        · exact .refl s
        · exact .refl s
        · exact .redeemCarried hd hr h
      · next h =>
        split
        · exact .refl s
        · split
          · exact .refl s
          · exact .redeem hd hr h

theorem recordStatus_evolves (s : State) (i : Fin 64) (r : RideStatus) : Evolves s (s.recordStatus i r) :=
  .keep (setLane_keepsDay ⟨rfl, rfl, rfl, rfl, id⟩)

theorem autoDown_evolves (s : State) (i : Fin 64) : Evolves s (s.autoDown i) := by
  unfold State.autoDown
  dsimp only
  split
  · next h => exact changeMode_evolves _ (.inr fun e => by simp [e, LaneMode.isOpen] at h)
  · exact .refl s

theorem autoRestart_evolves (s : State) (i : Fin 64) : Evolves s (s.autoRestart i) := by
  unfold State.autoRestart
  dsimp only
  split
  · split
    · next h => exact changeMode_evolves _ (.inr fun e => by simp [e] at h)
    · exact .refl s
  · exact .refl s

theorem takeRideStatus_evolves (i : Fin 64) (status : Nat) (s : State) : Evolves s (s.takeRideStatus i status) := by
  unfold State.takeRideStatus
  split
  · exact .of_same rfl rfl rfl rfl
  · exact .trans (recordStatus_evolves ..) (autoDown_evolves ..)
  · exact .trans (recordStatus_evolves ..) (autoRestart_evolves ..)

theorem forward_evolves (s : State) (p : Port) (bytes : List Byte) : Evolves s (s.forward p bytes) :=
  .of_same (by simp) (by simp) (by simp) (by simp)

theorem foldl_evolves {α : Type} {f : State → α → State} (h : ∀ (s : State) (a : α), Evolves s (f s a)) (l : List α) (s : State) :
    Evolves s (l.foldl f s) := by
  induction l generalizing s with
  | nil => exact .refl s
  | cons a l ih => exact .trans (h s a) (ih _)

theorem routeByWindow_evolves (s : State) (arrival : Port) (bytes : List Byte) : Evolves s (s.routeByWindow arrival bytes) := by
  unfold State.routeByWindow
  dsimp only
  split
  · exact foldl_evolves (fun t p => forward_evolves t p bytes) _ s
  · repeat' split
    · exact forward_evolves ..
    · exact .of_same rfl rfl rfl rfl
    · exact forward_evolves ..
    · exact .of_same rfl rfl rfl rfl

theorem handToLane_evolves (s : State) (c : Scan) (o : Option (Fin 64)) (f : Fin 64 → ScanAction) :
    Evolves s (s.handToLane c o f) := by
  unfold State.handToLane
  split <;> exact .of_same rfl rfl rfl rfl

theorem decideScan_evolves (s : State) (c : Scan) : Evolves s (s.decideScan c).1 := by
  unfold State.decideScan
  split <;> exact .of_same rfl rfl rfl rfl

theorem classify_evolves (s : State) (segment : Fin 6) (f : RxFrame) : Evolves s (s.classify segment f) := by
  unfold State.classify
  split
  · exact .of_same rfl rfl rfl rfl
  · refine .trans (decideScan_evolves s (scanOf segment f)) ?_
    dsimp only
    split
    iterate 5 exact handToLane_evolves ..
    · exact routeByWindow_evolves ..
    · exact .of_same rfl rfl rfl rfl
    · exact .after (sendAnswer_evolves ..) (.of_same rfl rfl rfl rfl)

theorem zoneClear_evolves (s : State) (k : Fin 6) (bytes : List Byte) : Evolves s (s.zoneClear k bytes) := by
  unfold State.zoneClear
  dsimp only
  split
  · exact .of_same rfl rfl rfl rfl
  · split
    · refine .trans (.keep (setLanes_keepsDay fun i => ?_)) (evaluate_evolves _ _)
      split <;> exact ⟨rfl, rfl, rfl, rfl, id⟩
    · exact .refl s

theorem handRequest_evolves (s : State) (bytes : List Byte) : Evolves s (s.handRequest bytes) := by
  unfold State.handRequest
  dsimp only
  split
  · exact .of_same rfl rfl rfl rfl
  · repeat' split
    · exact reply_evolves ..
    · exact reply_evolves ..
    · exact .of_same rfl rfl rfl rfl

theorem routeRows_evolves (s : State) (arrival : Port) (f : RxFrame) : Evolves s (s.routeRows arrival f) := by
  unfold State.routeRows
  dsimp only
  split
  · split <;> exact .of_same rfl rfl rfl rfl
  · split
    · exact .of_same rfl rfl rfl rfl
    · split
      · cases arrival with
        | tp =>
          dsimp only
          split
          · exact handRequest_evolves ..
          · exact .of_same rfl rfl rfl rfl
        | sp k =>
          dsimp only
          split
          · exact zoneClear_evolves ..
          · exact .of_same rfl rfl rfl rfl
      · cases arrival with
        | tp => exact routeByWindow_evolves ..
        | sp k =>
          dsimp only
          split
          · exact classify_evolves ..
          · exact routeByWindow_evolves ..

theorem routeHead_evolves (s : State) (p : Port) : Evolves s (s.routeHead p) := by
  unfold State.routeHead
  split
  · exact .refl s
  · split
    · exact .refl s
    · exact .after (routeRows_evolves ..) (.of_same rfl rfl rfl rfl)

theorem receive_evolves (s : State) (p : Port) (bytes : List Byte) : Evolves s (s.receive p bytes) := by
  unfold State.receive
  repeat' split
  · exact .refl s
  iterate 3 exact .of_same rfl rfl rfl rfl
  exact .of_same (by simp [State.latchOverrun, State.countPort]) (by simp [State.latchOverrun, State.countPort])
    (by simp [State.latchOverrun, State.countPort]) (by simp [State.latchOverrun, State.countPort])

theorem startSending_evolves (s : State) (p : Port) : Evolves s (s.startSending p) := by
  unfold State.startSending State.startNotice
  repeat' split
  all_goals exact .of_same rfl rfl rfl rfl

theorem replySent_evolves (s : State) (f : TxFrame) : Evolves s (s.replySent f) := by
  unfold State.replySent
  split <;> exact .of_same rfl rfl rfl rfl

theorem roomNotice_evolves (s : State) (p : Port) : Evolves s (s.roomNotice p) :=
  .of_same (by simp) (by simp) (by simp) (by simp)

theorem finishSending_evolves (s : State) (p : Port) : Evolves s (s.finishSending p) := by
  unfold State.finishSending
  split
  · exact .refl s
  · split
    · dsimp only
      split
      · exact .after (roomNotice_evolves _ _) (.after (replySent_evolves _ _) (.of_same rfl rfl rfl rfl))
      · exact .after (replySent_evolves _ _) (.of_same rfl rfl rfl rfl)
    · exact .refl s

theorem offerBoards_evolves (s : State) (p : Port) (fuel : Nat) : Evolves s (s.offerBoards p fuel) := by
  induction fuel generalizing s with
  | zero => exact .refl s
  | succ fuel ih =>
    unfold State.offerBoards
    dsimp only
    repeat' split
    · exact .refl s
    · exact .after (ih _) (.of_same rfl rfl rfl rfl)
    · exact .of_same rfl rfl rfl rfl

theorem offerAttention_evolves (s : State) (d : Port) : Evolves s (s.offerAttention d) := by
  unfold State.offerAttention
  repeat' split
  all_goals exact .of_same rfl rfl rfl rfl

/-! ## Resets and the loader -/

theorem engineCleared_evolves (s : State) : Evolves s s.engineCleared := by
  have lanes : s.KeepsDay (s.setLanes fun i => { s.lane i with countSkew := false }) :=
    setLanes_keepsDay fun i => ⟨rfl, rfl, rfl, rfl, id⟩
  refine .trans (.keep lanes) (.trans (.ring (r := { s.ring with running := false }) rfl nofun) (.of_same ?_ rfl rfl ?_))
  · exact abandonWrite_clock s
  · exact abandonWrite_register s

theorem engineReset_evolves (s : State) : Evolves s s.engineReset := by
  unfold State.engineReset
  dsimp only
  split
  · exact engineCleared_evolves s
  · exact .trans (engineCleared_evolves s) (loaderReady_evolves _ _)

theorem probe_evolves (s : State) (header : Option Nat) : Evolves s (s.probe header) := by
  unfold State.probe
  repeat' split
  · exact .refl s
  · exact loaderReady_evolves ..
  · dsimp only
    repeat' split
    · exact loaderReady_evolves ..
    · exact .after (loaderReady_evolves ..) (.of_same rfl rfl rfl rfl)
    · exact .of_same rfl rfl rfl rfl

theorem applyEntry_evolves (s : State) (bytes : List Byte) : Evolves s (s.applyEntry bytes) := by
  unfold State.applyEntry
  dsimp only
  split
  · exact .of_same rfl rfl rfl rfl
  · next h =>
    split
    · exact .trans (.write h) (.of_same rfl rfl rfl rfl)
    · exact .write h

theorem truncateLoad_evolves (s : State) : Evolves s s.truncateLoad :=
  .of_same (by simp [State.truncateLoad]) (by simp [State.truncateLoad]) (by simp [State.truncateLoad])
    (by simp [State.truncateLoad])

theorem loadEntry_evolves (s : State) (given : Nat) : Evolves s (s.loadEntry given) := by
  unfold State.loadEntry
  dsimp only
  split
  · exact .refl s
  · split
    · exact truncateLoad_evolves s
    · have h := applyEntry_evolves s (s.flashBytes (s.loader.entryGiven given) (8 + 6 * s.loader.position) 6)
      generalize s.applyEntry _ = t at h ⊢
      refine h.trans ?_
      split
      · exact .after (loaderReady_evolves ..) (.of_same rfl rfl rfl rfl)
      · exact .of_same rfl rfl rfl rfl

theorem completeWrite_evolves (s : State) (verified : Bool) : Evolves s (s.completeWrite verified) := by
  unfold State.completeWrite
  split
  · cases verified <;> exact .of_same rfl rfl rfl rfl
  · exact .refl s

/-! ## The clock -/

theorem takeMinute_evolves {s : State} {n : Nat} {rest : List Nat} (h : s.clock.minutesDue = n :: rest) :
    Evolves s (State.minuteBoundary { s with clock := { s.clock with minutesDue := rest } } n) :=
  .trans (.minute h) (.trans (startRun_evolves _) (evaluateEach_evolves _ _))

theorem takePeriod_evolves {s : State} {d : PeriodDue} {rest : List PeriodDue} (h : s.clock.periodsDue = d :: rest) :
    Evolves s (State.periodBoundary { s with clock := { s.clock with periodsDue := rest } } d) :=
  .trans (.period h) (.trans (.keep (markPublished_keepsDay ..)) (evaluateEach_evolves _ _))

theorem second_evolves (s : State) : Evolves s s.second := by
  unfold State.second
  split
  · next h =>
    simp only [Bool.and_eq_true, decide_eq_true_eq] at h
    exact .second h.1 h.2
  · exact .refl s

/-! ## Every command -/

/-- Whatever a command does to the day is one of the changes, or several in turn. -/
theorem exec_evolves {c : Instr} {s t : State} (h : exec c s = .next t) : Evolves s t := by
  cases c with
  | powerReset => cases h; exact .power s
  | engineReset =>
    rw [exec, execEngineReset] at h
    refine whileReleased_keeps h (.refl s) fun _ => ?_
    split
    · exact engineReset_evolves s
    · exact .refl s
  | segmentReset k =>
    rw [exec, execSegmentReset] at h
    refine whileReleased_keeps h (.refl s) fun _ => ?_
    split
    · exact .of_same (by simp) (by simp) (by simp) (by simp)
    · exact .refl s
  | secondArrival =>
    rw [exec, execSecondArrival] at h
    exact whileReleased_keeps h (.refl s) fun _ => second_evolves s
  | minuteBoundary =>
    rw [exec, execMinuteBoundary] at h
    refine whileReleased_keeps h (.refl s) fun _ => ?_
    split
    · exact .refl s
    · exact takeMinute_evolves ‹_›
  | periodBoundary =>
    rw [exec, execPeriodBoundary] at h
    refine whileReleased_keeps h (.refl s) fun _ => ?_
    split
    · exact .refl s
    · exact takePeriod_evolves ‹_›
  | clockEndLatch =>
    rw [exec, execClockEndLatch] at h
    refine whileReleased_keeps h (.refl s) fun _ => ?_
    split
    · exact .keep ⟨by simp, fun i => by simp [State.lane]; exact .refl _, by simp, by simp⟩
    · exact .refl s
  | frameReceive p bytes =>
    rw [exec, execFrameReceive] at h
    exact whileReleased_keeps h (.refl s) fun _ => receive_evolves s p bytes
  | routeFrame p =>
    rw [exec, execRouteFrame] at h
    exact whileReleased_keeps h (.refl s) fun _ => routeHead_evolves s p
  | countEntry i c => exact takeAction_evolves h (takeEntry_evolves i c)
  | countBoarding i c c2 => exact takeAction_evolves h (takeBoarding_evolves i c c2)
  | passRequest o i ticket party =>
    exact takeAction_evolves h fun u => .trans (passRequest_evolves u i ticket party) (sendAnswer_evolves ..)
  | passReturn o i ticket stamp receipt =>
    exact takeAction_evolves h fun u => .trans (.of_same (t := u.count _) rfl rfl rfl rfl)
      (.trans (passReturn_evolves _ i ticket _) (sendAnswer_evolves ..))
  | rideStatus i status => exact takeAction_evolves h (takeRideStatus_evolves i status)
  | setMode _ args => exact takeRequest_evolves h (carrySetMode_evolves args)
  | readTable _ args => exact takeRequest_evolves h (carryReadTable_evolves args)
  | writeTable _ args => exact takeRequest_evolves h (carryWriteTable_evolves args)
  | openDay _ args => exact takeRequest_evolves h (carryOpenDay_evolves args)
  | closeDay _ args => exact takeRequest_evolves h (carryCloseDay_evolves args)
  | postGrants _ args => exact takeRequest_evolves h (carryPostGrants_evolves args)
  | grantResolve =>
    rw [exec, execGrantResolve] at h
    refine whileReleased_keeps h (.refl s) fun _ => ?_
    split
    · exact .trans (.resolve ‹_›) (giveGrantHeld_evolves _ _)
    · exact .refl s
  | voidPass _ args => exact takeRequest_evolves h (carryVoidPass_evolves args)
  | queryPass _ args => exact takeRequest_evolves h (carryQueryPass_evolves args)
  | clearAttention _ args => exact takeRequest_evolves h (carryClearAttention_evolves args)
  | injectNotice _ args => exact takeRequest_evolves h (carryInjectNotice_evolves args)
  | resetEngine _ _ => exact takeRequest_evolves h fun u => .refl u
  | resetSegment _ segment => exact takeRequest_evolves h (carryResetSegment_evolves segment)
  | readStatus _ args => exact takeRequest_evolves h (carryReadStatus_evolves args)
  | flashRead _ args given => exact takeRequest_evolves h (carryFlashRead_evolves args given)
  | flashWrite _ args => exact takeRequest_evolves h (carryFlashWrite_evolves args)
  | flashStatus _ args => exact takeRequest_evolves h (carryFlashStatus_evolves args)
  | flashWriteComplete verified =>
    rw [exec, execFlashWriteComplete] at h
    exact whileReleased_keeps h (.refl s) fun _ => completeWrite_evolves s verified
  | mgmtReplyOffer =>
    rw [exec, execMgmtReplyOffer] at h
    refine whileReleased_keeps h (.refl s) fun _ => ?_
    repeat' split
    · exact .of_same (by simp) (by simp) (by simp) (by simp)
    · exact .refl s
    · exact .refl s
  | boardFrameOffer p =>
    rw [exec, execBoardFrameOffer] at h
    refine whileReleased_keeps h (.refl s) fun _ => ?_
    split
    · exact .after (offerBoards_evolves _ p 192) (.of_same rfl rfl rfl rfl)
    · exact .refl s
  | attnFrameOffer d =>
    rw [exec, execAttnFrameOffer] at h
    refine whileReleased_keeps h (.refl s) fun _ => ?_
    split
    · exact offerAttention_evolves s d
    · exact .refl s
  | transmitStart p =>
    rw [exec, execTransmitStart] at h
    exact whileReleased_keeps h (.refl s) fun _ => startSending_evolves s p
  | transmitComplete p =>
    rw [exec, execTransmitComplete] at h
    exact whileReleased_keeps h (.refl s) fun _ => finishSending_evolves s p
  | loaderProbe header =>
    rw [exec, execLoaderProbe] at h
    exact whileReleased_keeps h (.refl s) fun _ => probe_evolves s header
  | loaderEntry given =>
    rw [exec, execLoaderEntry] at h
    exact whileReleased_keeps h (.refl s) fun _ => loadEntry_evolves s given
  | resetInputAsserted =>
    cases h
    split
    · exact .refl s
    · exact .of_same (by simp [State.assertReset]) (by simp [State.assertReset]) (by simp [State.assertReset])
        (by simp [State.assertReset])

/-- Whatever a step does to the day is one of the changes, or several in turn. -/
theorem step_evolves {s t : State} (h : step s = .next t) : Evolves s t := by
  unfold step at h
  split at h
  · cases h; exact .refl s
  · exact .after (exec_evolves h) (.of_same rfl rfl rfl rfl)

end Sys2Proof.Machine
end

section
/-! The laws of the day, kept by every change: SHUT days, window lists, the register, promises, and lane records. -/

namespace Sys2Proof.Machine

/-! ## What the changes do to a lane -/

@[simp] theorem issuePass_lane (s : State) (i : Fin 64) (ticket party : Nat) (w : Window) (j : Fin 64) :
    (s.issuePass i ticket party w).lane j =
      if j = i then (s.lane i).adjustWindow w.start fun x => { x with issued := x.issued + party } else s.lane j := by
  simp [State.issuePass, State.lane, get_put]

@[simp] theorem redeemIssued_lane (s : State) (i : Fin 64) (r : PassRecord) (start : Nat) (j : Fin 64) :
    (s.redeemIssued i r start).lane j =
      if j = i then (s.lane i).adjustWindow start fun x => { x with redeemed := x.redeemed + r.party } else s.lane j := by
  simp [State.redeemIssued, State.lane, get_put]

@[simp] theorem redeemCarried_windows (s : State) (i : Fin 64) (r : PassRecord) (j : Fin 64) :
    ((s.redeemCarried i r).lane j).windows = (s.lane j).windows := by
  simp only [State.redeemCarried, State.lane, get_put]
  split
  · next e => rw [e]
  · rfl

@[simp] theorem redeemCarried_config (s : State) (i : Fin 64) (r : PassRecord) (j : Fin 64) :
    ((s.redeemCarried i r).lane j).config = (s.lane j).config := by
  simp only [State.redeemCarried, State.lane, get_put]
  split
  · next e => rw [e]
  · rfl

@[simp] theorem dayBuilt_windows (s : State) (offset : Nat) (i : Fin 64) : ((s.dayBuilt offset).lane i).windows =
    if (s.lane i).inUse then buildWindows Config.windowCapacity (s.lane i).config.firstStart (s.lane i).config.windowLength
    else [] := by
  simp [State.dayBuilt, State.lane, Lane.buildCalendar, Lane.inUse]

@[simp] theorem dayBuilt_config (s : State) (offset : Nat) (i : Fin 64) :
    ((s.dayBuilt offset).lane i).config = (s.lane i).config := by
  simp [State.dayBuilt, State.lane, Lane.buildCalendar]

@[simp] theorem dayEmptied_lane (s : State) (i : Fin 64) : s.dayEmptied.lane i = (s.lane i).dayClosed := by
  simp [State.dayEmptied, State.lane]

@[simp] theorem powerReset_lane (s : State) (i : Fin 64) : s.powerReset.lane i = .default := by
  simp [State.powerReset, State.lane, State.reset]

/-- All a resolution does to a lane: nothing, one more stale grant, or a grant applied (R59 to R62). -/
theorem resolveHead_lane (s : State) (i : Fin 64) : s.resolveHead.lane i = s.lane i ∨
    s.resolveHead.lane i = (s.lane i).staleGrant ∨ ∃ start delta, s.resolveHead.lane i = (s.lane i).applyGrant start delta := by
  unfold State.resolveHead
  split
  · exact .inl rfl
  · next g rest _ =>
    split
    · exact .inl rfl
    · simp only [State.lane, get_put]
      split
      · next e => exact e ▸ .inr (.inl rfl)
      · exact .inl rfl
    · exact .inl rfl
    · next start _ =>
      simp only [State.lane, get_put]
      split
      · next e => exact e ▸ .inr (.inr ⟨start, g.delta, rfl⟩)
      · exact .inl rfl

/-- The windows of a lane after a change by window that keeps the starts, under the configuration it had. -/
structure Lane.Adjusts (f : Window → Window) (l m : Lane) : Prop where
  config : m.config = l.config
  windows : m.windows = l.windows.map f
  starts : ∀ w, (f w).start = w.start

theorem Lane.Adjusts.of_windows {l m : Lane} (hc : m.config = l.config) (hw : m.windows = l.windows) : l.Adjusts id m :=
  ⟨hc, by rw [hw, List.map_id], fun _ => rfl⟩

theorem Lane.Adjusts.congr {f : Window → Window} {l m m' : Lane} (h : l.Adjusts f m) (e : m' = m) : l.Adjusts f m' := e ▸ h

/-- A window's change where the window starts at `start`, and nothing elsewhere. -/
def Window.changedAt (start : Nat) (f : Window → Window) (w : Window) : Window := if w.start = start then f w else w

theorem adjustWindow_adjusts (l : Lane) (start : Nat) {f : Window → Window} (hf : ∀ w, (f w).start = w.start) :
    l.Adjusts (Window.changedAt start f) (l.adjustWindow start f) :=
  ⟨rfl, rfl, fun w => by unfold Window.changedAt; split <;> simp [hf]⟩

theorem applyGrant_adjusts (l : Lane) (start : Nat) (delta : Int) :
    l.Adjusts (Window.changedAt start fun w => { w with capacity := grantedCapacity w delta }) (l.applyGrant start delta) := by
  have h := adjustWindow_adjusts l start (f := fun w => { w with capacity := grantedCapacity w delta }) fun _ => rfl
  unfold Lane.applyGrant
  dsimp only
  split
  · exact ⟨h.config, h.windows, h.starts⟩
  · exact h

/-- What down entry makes of a window (R48). -/
def Window.protectedAt (n len : Nat) (w : Window) : Window := if w.state n len = .future then w else { w with marked := true }

theorem downEntry_adjusts (l : Lane) (n : Nat) : l.Adjusts (Window.protectedAt n l.config.windowLength) (l.downEntry n) :=
  ⟨rfl, rfl, fun w => by unfold Window.protectedAt; split <;> rfl⟩

/-- All a change of mode does to the list: windows may get the protected mark (R10 to R14, R48). -/
theorem changeMode_adjusts {l m : Lane} {target : LaneMode} {e b : Bool} {n : Nat}
    (h : l.changeMode target e n = some (m, b)) : ∃ f, l.Adjusts f m ∧
      ∀ w, (f w).capacity = w.capacity ∧ (f w).issued = w.issued ∧ (f w).redeemed = w.redeemed := by
  have kept : ∀ {m : Lane}, m.config = l.config → m.windows = l.windows → ∃ f, l.Adjusts f m ∧
      ∀ w, (f w).capacity = w.capacity ∧ (f w).issued = w.issued ∧ (f w).redeemed = w.redeemed := fun hc hw =>
    ⟨id, .of_windows hc hw, fun _ => ⟨rfl, rfl, rfl⟩⟩
  unfold Lane.changeMode at h
  split at h
  · cases h
  · split at h
    · cases h
    · cases h; exact kept rfl rfl
    · cases h; exact kept rfl rfl
    · cases h; exact kept rfl rfl
    · cases h
      exact ⟨_, downEntry_adjusts l n, fun w => by unfold Window.protectedAt; split <;> exact ⟨rfl, rfl, rfl⟩⟩
    · cases h; exact kept rfl rfl

/-- All a resolution does to a lane's windows: capacities may change, to what a grant makes of them (R60). -/
theorem resolveHead_adjusts (s : State) (i : Fin 64) : ∃ f, (s.lane i).Adjusts f (s.resolveHead.lane i) ∧
    ∀ w, f w = w ∨ ∃ delta, f w = { w with capacity := grantedCapacity w delta } := by
  rcases resolveHead_lane s i with h | h | ⟨start, delta, h⟩ <;> rw [h]
  · exact ⟨id, .of_windows rfl rfl, fun w => .inl rfl⟩
  · exact ⟨id, .of_windows rfl rfl, fun w => .inl rfl⟩
  · refine ⟨_, applyGrant_adjusts _ _ _, fun w => ?_⟩
    unfold Window.changedAt
    split
    · exact .inr ⟨delta, rfl⟩
    · exact .inl rfl

theorem voidRecord_lane_other (s : State) {i j : Fin 64} (r : PassRecord) (h : j ≠ i) : (s.voidRecord i r).lane j = s.lane j := by
  unfold State.voidRecord
  dsimp only
  split
  · split <;> exact get_put_other _ _ h
  · rfl

/-- All a VOID_PASS does to the windows of its lane: a FUTURE window of an ISSUED record gives seats back (R85). -/
theorem voidRecord_adjusts (s : State) (i : Fin 64) (r : PassRecord) : ∃ f, (s.lane i).Adjusts f ((s.voidRecord i r).lane i) ∧
    (f = id ∨ ∃ start, r.state = .issued start ∧ f = Window.changedAt start fun w => { w with issued := w.issued - r.party }) := by
  unfold State.voidRecord
  dsimp only
  split
  · next start hr =>
    split
    · refine ⟨_, Lane.Adjusts.congr ?_ (get_put_same ..), .inr ⟨start, hr, rfl⟩⟩
      exact adjustWindow_adjusts _ start fun _ => rfl
    · refine ⟨id, Lane.Adjusts.congr ?_ (get_put_same ..), .inl rfl⟩
      exact .of_windows rfl rfl
  · exact ⟨id, .of_windows rfl rfl, .inl rfl⟩

theorem periodBoundary_kept (l : Lane) (period : Nat) :
    (l.periodBoundary period).config = l.config ∧ (l.periodBoundary period).windows = l.windows := by
  unfold Lane.periodBoundary
  split
  · exact ⟨rfl, rfl⟩
  · split
    · dsimp only
      unfold Lane.checkStale
      dsimp only
      repeat' split
      all_goals exact ⟨rfl, rfl⟩
    · exact ⟨rfl, rfl⟩

theorem periodLane_kept (s : State) (d : PeriodDue) (i : Fin 64) :
    (s.periodLane d i).1.config = (s.lane i).config ∧ (s.periodLane d i).1.windows = (s.lane i).windows := by
  have h := periodBoundary_kept (s.lane i) d.period
  unfold State.periodLane Lane.publishCheck
  dsimp only
  repeat' split
  all_goals exact h

/-! ## Window lists -/

/-- Windows built `len` apart stand at least `d` apart for every `d` up to `len`. -/
theorem buildWindows_spaced {d len : Nat} (h : d ≤ len) (count start : Nat) :
    (buildWindows count start len).Pairwise fun a b => a.start + d ≤ b.start := by
  induction count generalizing start with
  | zero => exact .nil
  | succ count ih =>
    unfold buildWindows
    split
    · refine List.pairwise_cons.mpr ⟨fun w hw => ?_, ih _⟩
      have := (mem_buildWindows hw).2.1
      simp only [newWindow]
      omega
    · exact .nil

theorem start_le_newest {l : Lane} {newest d : Nat} (h : l.windows.Pairwise fun a b => a.start + d ≤ b.start)
    (hn : l.newestStart = some newest) {w : Window} (hw : w ∈ l.windows) : w.start ≤ newest := by
  unfold Lane.newestStart at hn
  obtain ⟨x, hx, rfl⟩ := Option.map_eq_some_iff.mp hn
  obtain ⟨ys, hy⟩ := List.getLast?_eq_some_iff.mp hx
  rw [hy] at h hw
  rcases List.mem_append.mp hw with hm | hm
  · have := (List.pairwise_append.mp h).2.2 w hm x (List.mem_singleton.mpr rfl)
    omega
  · rw [List.mem_singleton.mp hm]

/-- Where a window of the list after a minute boundary comes from: it was there and has not retired, or it is new behind the newest
(R47, R49, R52). -/
theorem mem_windowsAfter {l : Lane} {n : Nat} {w : Window} (h : w ∈ l.windowsAfter n) :
    (∃ x ∈ l.windows, l.retires n x = false ∧ x.start = w.start ∧ x.capacity = w.capacity ∧ x.issued = w.issued ∧
      x.redeemed = w.redeemed) ∨
    ∃ newest, l.newestStart = some newest ∧ w = newWindow w.start ∧ newest + l.config.windowLength ≤ w.start ∧ w.start ≤ 2879 := by
  unfold Lane.windowsAfter at h
  rcases List.mem_append.mp h with hm | hm
  · obtain ⟨hm, hr⟩ := List.mem_filter.mp hm
    refine .inl ?_
    unfold Lane.protectAt at hm
    split at hm
    · obtain ⟨x, hx, rfl⟩ := List.mem_map.mp hm
      refine ⟨x, hx, ?_⟩
      split
      · simp_all [Lane.retires]
      · simp_all
    · exact ⟨w, hm, by simpa using hr, rfl, rfl, rfl, rfl⟩
  · refine .inr ?_
    split at hm
    · cases hm
    · next newest hn =>
      rw [appendedWindows_eq] at hm
      exact ⟨newest, hn, mem_buildWindows hm⟩

theorem windowsAfter_spaced {l : Lane} {d : Nat} (n : Nat) (hd : d ≤ l.config.windowLength)
    (h : l.windows.Pairwise fun a b => a.start + d ≤ b.start) :
    (l.windowsAfter n).Pairwise fun a b => a.start + d ≤ b.start := by
  have starts : (l.protectAt n).Pairwise fun a b => a.start + d ≤ b.start := by
    have h' : (l.windows.map Window.start).Pairwise fun a b => a + d ≤ b := List.pairwise_map.mpr h
    rw [← protectAt_starts l n] at h'
    exact List.pairwise_map.mp h'
  unfold Lane.windowsAfter
  refine List.pairwise_append.mpr ⟨starts.filter _, ?_, fun w hw x hx => ?_⟩
  · split
    · exact .nil
    · rw [appendedWindows_eq]
      exact buildWindows_spaced hd _ _
  · split at hx
    · cases hx
    · next newest hn =>
      rw [appendedWindows_eq] at hx
      have hm : w.start ∈ l.windows.map Window.start := by
        rw [← protectAt_starts l n]
        exact List.mem_map_of_mem (List.mem_filter.mp hw).1
      obtain ⟨y, hy, e⟩ := List.mem_map.mp hm
      have := start_le_newest h hn hy
      have := (mem_buildWindows hx).2.1
      omega

/-- As many windows are appended as retire, at most (R52). -/
theorem windowsAfter_length (l : Lane) (n : Nat) : (l.windowsAfter n).length ≤ l.windows.length := by
  have split_length : (l.retired n).length + ((l.protectAt n).filter fun w => !l.retires n w).length = l.windows.length := by
    rw [Lane.retired, ← List.length_eq_length_filter_add, ← List.length_map (f := Window.start), protectAt_starts,
      List.length_map]
  unfold Lane.windowsAfter
  rw [List.length_append]
  split
  · rw [List.length_nil]
    omega
  · next newest _ =>
    have := buildWindows_length (l.retired n).length (newest + l.config.windowLength) l.config.windowLength
    rw [← appendedWindows_eq] at this
    omega

end Sys2Proof.Machine
end

section
/-! The laws of the day, kept by every change. -/

namespace Sys2Proof.Machine

/-! ## What the changes presuppose -/

/-- A pass request that issues passed every check (R72). -/
theorem checkRequest_issue {s : State} {i : Fin 64} {ticket party : Nat} {w : Window}
    (h : s.checkRequest i ticket party = .issue w) :
    s.dayOpen = true ∧ (1 ≤ party ∧ party ≤ 8) ∧ findRecord s.register ticket i = none ∧
      s.register.length < Config.registerCapacity ∧ (s.lane i).findWindow s.minute party = some w := by
  unfold State.checkRequest at h
  split at h
  · cases h
  · next hd =>
    split at h
    · cases h
    · next hp =>
      split at h
      · cases h
      · split at h
        · cases h
        · split at h
          · cases h
          · next hf =>
            split at h
            · cases h
            · split at h
              · cases h
              · next hl =>
                split at h
                · cases h
                · next hw =>
                  cases h
                  exact ⟨by simpa using hd, by omega, hf, by omega, hw⟩

/-- An accepted table write leaves the day alone but for the configuration of the lane it names, which it writes with legalized
pairs; a SHUT-only field is written while the day is SHUT alone, and a ride number that no other lane holds (R2, R4, R179). -/
theorem writeTable_day {s t : State} {code index : Nat} {pairs : List (Nat × Nat)} {lg : Bool}
    (h : s.writeTable code index pairs = .accepted t lg) :
    t.clock = s.clock ∧ t.ring = s.ring ∧ t.register = s.register ∧ ∀ i, t.lane i = s.lane i ∨
      (i.val = index ∧ t.lane i = { s.lane i with
          config := (TableId.lane.legalPairs pairs).foldl (fun c p => c.write p.1 p.2) (s.lane i).config } ∧
        ∀ p ∈ pairs, (s.dayOpen && TableId.lane.shutOnly p.1) = false ∧ s.duplicateRide .lane index p = false) := by
  obtain ⟨table, -, -, hp, rfl, -⟩ := writeTable_accepted h
  have frame := writeEntry_frame s table index (table.legalPairs pairs)
  refine ⟨(congrArg State.clock frame :), (congrArg State.ring frame :), (congrArg State.register frame :), fun i => ?_⟩
  rw [writeEntry_lane]
  split
  · next e =>
    obtain ⟨rfl, e⟩ := e
    exact .inr ⟨e, rfl, fun p hm => (hp p hm).2⟩
  · exact .inl rfl

/-! ## SHUT days (R7, R87, R145) -/

theorem State.ShutLaw.of_open {s : State} (h : s.clock.day = .opened) : s.ShutLaw := fun e => by rw [h] at e; cases e

theorem State.ShutLaw.of_dayOpen {s t : State} (h : s.dayOpen = true) (e : t.clock.day = s.clock.day) : t.ShutLaw :=
  .of_open (e.trans (State.dayOpen_eq_true.1 h))

theorem State.ShutLaw.register_nil {s : State} (h : s.ShutLaw) (hd : s.dayOpen = false) : s.register = [] :=
  (h (State.dayOpen_eq_false.1 hd)).2.1

/-- While the day is SHUT no lane has a window. -/
theorem State.ShutLaw.windows_nil {s : State} (h : s.ShutLaw) (hd : s.dayOpen = false) (i : Fin 64) : (s.lane i).windows = [] :=
  ((h (State.dayOpen_eq_false.1 hd)).1 i).2.2.1

/-- A state in which the day is SHUT and the lanes are no further than they were meets the law. -/
theorem State.ShutLaw.of_lanes {s t : State} (h : s.ShutLaw) (hd : t.clock.day = .shut → s.clock.day = .shut)
    (hl : ∀ i, (t.lane i).live.mode = (s.lane i).live.mode ∧ ((t.lane i).live.stale = true → (s.lane i).live.stale = true) ∧
      (t.lane i).windows = (s.lane i).windows ∧ (t.lane i).grantLow = (s.lane i).grantLow)
    (hr : t.register = s.register) (hh : t.ring.headHeld = s.ring.headHeld)
    (hg : t.clock.day = .shut → t.ring.running = true → s.ring.running = true)
    (hm : t.clock.minutesDue = s.clock.minutesDue) (hp : t.clock.periodsDue = s.clock.periodsDue) : t.ShutLaw := by
  intro e
  obtain ⟨lanes, register, held, running, minutes, periods⟩ := h (hd e)
  refine ⟨fun i => ?_, hr.trans register, hh.trans held, ?_, hm.trans minutes, hp.trans periods⟩
  · obtain ⟨mode, stale, windows, grantLow⟩ := lanes i
    obtain ⟨mode', stale', windows', grantLow'⟩ := hl i
    exact ⟨mode'.trans mode, Bool.eq_false_iff.2 fun h => by simp [stale' h] at stale, windows'.trans windows,
      grantLow'.trans grantLow⟩
  · exact Bool.eq_false_iff.2 fun h => by simp [hg e h] at running

theorem Evolves.shutLaw {s t : State} (h : Evolves s t) (hs : s.ShutLaw) : t.ShutLaw := by
  induction h with
  | @keep s t h =>
    refine hs.of_lanes (fun e => ?_) (fun i => ?_) h.register (by rw [h.ring]) (fun _ => by rw [h.ring]; exact id) ?_ ?_
    · rw [h.clock] at e; exact e
    · exact ⟨(h.lanes i).mode, (h.lanes i).stale, (h.lanes i).windows, (h.lanes i).grantLow⟩
    · rw [h.clock]
    · rw [h.clock]
  | trans _ _ ih1 ih2 => exact ih2 (ih1 hs)
  | power s =>
    exact fun _ => ⟨fun i => by rw [powerReset_lane]; exact ⟨rfl, rfl, rfl, rfl⟩, rfl, rfl, rfl, rfl, rfl⟩
  | @ring s r held run =>
    refine hs.of_lanes id (fun i => ⟨rfl, id, rfl, rfl⟩) rfl held (fun e hr => ?_) rfl rfl
    rcases run hr with h | h
    · exact h
    · rw [State.dayOpen_eq_true.1 h] at e; cases e
  | second hd => exact .of_dayOpen hd rfl
  | @minute s n rest h => exact fun e => by rw [(hs e).2.2.2.2.1] at h; cases h
  | @period s d rest h => exact fun e => by rw [(hs e).2.2.2.2.2] at h; cases h
  | @mode s i m e publishes l h hd =>
    refine hd.elim (fun hd => .of_dayOpen hd rfl) fun hm => ?_
    exact fun e => absurd ((hs e).1 i).1 hm
  | issue h => exact .of_dayOpen (checkRequest_issue h).1 rfl
  | redeem hd => exact .of_dayOpen hd rfl
  | redeemCarried hd => exact .of_dayOpen hd rfl
  | @void s i ticket r hr h =>
    intro e
    have day : s.clock.day = .shut := by rw [← e]; unfold State.voidRecord; dsimp only; repeat' split
                                         all_goals rfl
    rw [(hs day).2.1] at hr
    cases hr
  | built hd offset => exact .of_open rfl
  | @emptied s hd h =>
    exact fun _ => ⟨fun i => by rw [dayEmptied_lane]; exact ⟨h i, rfl, rfl, rfl⟩, rfl, rfl, rfl, rfl, rfl⟩
  | @resolve s h =>
    intro e
    rw [resolveHead_clock] at e
    rw [(hs e).2.2.2.1] at h
    cases h
  | @write s t code index pairs lg h =>
    obtain ⟨hc, hr, hg, hl⟩ := writeTable_day h
    refine hs.of_lanes (by rw [hc]; exact id) (fun i => ?_) hg (by rw [hr]) (fun _ => by rw [hr]; exact id) (by rw [hc]) (by rw [hc])
    rcases hl i with e | ⟨-, e, -⟩ <;> rw [e] <;> exact ⟨rfl, id, rfl, rfl⟩

/-- Settles O4: every change of the day keeps the law, and a step makes changes alone. -/
theorem stepKeepsShutLaw : Obligations.StepKeepsShutLaw := fun _ _ hs h => (step_evolves h).shutLaw hs

/-! ## Lane records (R2, R3, R4) -/

/-- Lanes with the configurations they had meet the law of the records. -/
theorem State.LaneRecordLaw.of_config {s t : State} (h : s.LaneRecordLaw) (hc : ∀ i, (t.lane i).config = (s.lane i).config) :
    t.LaneRecordLaw := by
  unfold State.LaneRecordLaw
  simp only [hc]
  exact h

/-- A ride number after legalized pairs is the one it was, or one that passed the check of R4. -/
theorem ride_of_writes (c : LaneConfig) (pairs : List (Nat × Nat)) :
    ((TableId.lane.legalPairs pairs).foldl (fun c p => c.write p.1 p.2) c).ride = c.ride ∨
      ∃ p ∈ pairs, p.1 = 1 ∧ ((TableId.lane.legalPairs pairs).foldl (fun c p => c.write p.1 p.2) c).ride = legalLane 1 p.2 := by
  induction pairs generalizing c with
  | nil => exact .inl rfl
  | cons p rest ih =>
    have step : (c.write p.1 (TableId.lane.legalize p.1 p.2)).ride = c.ride ∨
        (p.1 = 1 ∧ (c.write p.1 (TableId.lane.legalize p.1 p.2)).ride = legalLane 1 p.2) := by
      by_cases h1 : p.1 = 1
      · exact .inr ⟨h1, by rw [h1]; rfl⟩
      · refine .inl ?_
        unfold LaneConfig.write
        split
        · contradiction
        all_goals rfl
    rcases ih (c.write p.1 (TableId.lane.legalize p.1 p.2)) with e | ⟨q, hq, h1, e⟩
    · rcases step with e' | ⟨h1, e'⟩
      · exact .inl (e.trans e')
      · exact .inr ⟨p, List.mem_cons_self, h1, e.trans e'⟩
    · exact .inr ⟨q, List.mem_cons_of_mem _ hq, h1, e⟩

theorem default_inRange : LaneConfig.default.InRange := by unfold LaneConfig.InRange; decide

theorem State.LaneRecordLaw.write {s t : State} {code index : Nat} {pairs : List (Nat × Nat)} {lg : Bool} (hs : s.LaneRecordLaw)
    (h : s.writeTable code index pairs = .accepted t lg) : t.LaneRecordLaw := by
  obtain ⟨-, -, -, hl⟩ := writeTable_day h
  obtain ⟨ranges, rides⟩ := hs
  /- A ride number that the written lane holds, other lanes do not. -/
  have fresh : ∀ i j : Fin 64, i ≠ j → i.val = index → (t.lane i).config.ride ≠ 0 →
      (t.lane i).config.ride ≠ (s.lane j).config.ride := by
    intro i j hij hi h0 e
    rcases hl i with hi' | ⟨-, hi', hp⟩
    · rw [hi'] at h0 e
      exact hij (rides i j h0 e)
    · rw [hi'] at h0 e
      rcases ride_of_writes (s.lane i).config pairs with hr | ⟨p, hm, h1, hr⟩
      · exact hij (rides i j (hr ▸ h0) (hr ▸ e))
      · have := (hp p hm).2
        simp only [State.duplicateRide, h1, TableId.legalize] at this
        simp only [hr] at h0 e
        have hj : j.val ≠ index := fun hj => hij (Fin.ext (hi.trans hj.symm))
        simp [h0] at this
        exact this j hj e.symm
  have other : ∀ i : Fin 64, i.val ≠ index → t.lane i = s.lane i := fun i hi =>
    (hl i).resolve_right fun h => hi h.1
  refine ⟨fun i => ?_, fun i j h0 e => ?_⟩
  · rcases hl i with e | ⟨-, e, -⟩ <;> rw [e]
    · exact ranges i
    · exact LaneConfig.writes_inRange (ranges i) pairs
  · by_contra hij
    by_cases hi : i.val = index
    · have hj : j.val ≠ index := fun hj => hij (Fin.ext (hi.trans hj.symm))
      rw [other j hj] at e
      exact fresh i j hij hi h0 e
    · by_cases hj : j.val = index
      · rw [other i hi] at h0 e
        exact fresh j i (Ne.symm hij) hj (e ▸ h0) e.symm
      · rw [other i hi] at h0 e
        rw [other j hj] at e
        exact hij (rides i j h0 e)

theorem Evolves.laneRecordLaw {s t : State} (h : Evolves s t) (hs : s.LaneRecordLaw) : t.LaneRecordLaw := by
  induction h with
  | keep h => exact hs.of_config fun i => (h.lanes i).config
  | trans _ _ ih1 ih2 => exact ih2 (ih1 hs)
  | power s =>
    refine ⟨fun i => ?_, fun i j h => ?_⟩
    · rw [powerReset_lane]; exact default_inRange
    · rw [powerReset_lane] at h; exact absurd rfl h
  | ring | second => exact hs.of_config fun _ => rfl
  | minute => exact hs.of_config fun i => by simp [State.lane, Lane.minuteBoundary, Lane.evaluateGrantLow]
  | @period s d rest h => exact hs.of_config fun i => by rw [State.lane, get_tabulate]; exact (periodLane_kept s d i).1
  | @mode s i m e publishes l h hd =>
    obtain ⟨f, hf, -⟩ := changeMode_adjusts h
    refine hs.of_config fun j => ?_
    rw [setLane_lane]
    split
    · next e => rw [e]; exact hf.config
    · rfl
  | issue | redeem =>
    refine hs.of_config fun j => ?_
    simp only [issuePass_lane, redeemIssued_lane]
    split
    · next e => rw [e]; rfl
    · rfl
  | redeemCarried => exact hs.of_config fun j => redeemCarried_config ..
  | @void s i ticket r hr h =>
    refine hs.of_config fun j => ?_
    by_cases e : j = i
    · obtain ⟨f, hf, -⟩ := voidRecord_adjusts s i r
      rw [e]; exact hf.config
    · rw [voidRecord_lane_other s r e]
  | built => exact hs.of_config fun i => dayBuilt_config ..
  | emptied => exact hs.of_config fun i => by rw [dayEmptied_lane]; rfl
  | @resolve s h => exact hs.of_config fun i => (resolveHead_adjusts s i).choose_spec.1.config
  | write h => exact hs.write h

/-- Settles O9: the records change at a table write alone, whose values are legalized and whose ride number is checked. -/
theorem stepKeepsLaneRecordLaw : Obligations.StepKeepsLaneRecordLaw := fun _ _ hs h => (step_evolves h).laneRecordLaw hs

end Sys2Proof.Machine
end

section
/-! Window lists and the register, kept by every change: order and bounds, spacing, keys, and the windows that records name. -/

namespace Sys2Proof.Machine

/-! ## Window lists: order and bounds (R2, R44) -/

/-- A list changed by window keeps its law when each window keeps its bounds. -/
theorem Lane.CalendarLaw.adjust {f : Window → Window} {l m : Lane} (h : l.CalendarLaw) (ha : l.Adjusts f m)
    (hb : ∀ w ∈ l.windows, w.issued ≤ w.capacity → w.capacity ≤ 4095 → (f w).issued ≤ (f w).capacity ∧ (f w).capacity ≤ 4095) :
    m.CalendarLaw := by
  obtain ⟨length, count, sorted, bounds⟩ := h
  refine ⟨by rw [ha.config]; exact length, by rw [ha.windows, List.length_map]; exact count, ?_, fun w hw => ?_⟩
  · refine sorted_of_starts ?_ sorted
    rw [ha.windows, List.map_map]
    exact List.map_congr_left fun w _ => ha.starts w
  · rw [ha.windows] at hw
    obtain ⟨x, hx, rfl⟩ := List.mem_map.mp hw
    obtain ⟨start, issued, capacity⟩ := bounds x hx
    exact ⟨by rw [ha.starts]; exact start, hb x hx issued capacity⟩

theorem Lane.CalendarLaw.of_windows {l m : Lane} (h : l.CalendarLaw) (hc : m.config = l.config) (hw : m.windows = l.windows) :
    m.CalendarLaw := h.adjust (.of_windows hc hw) fun _ _ hi hk => ⟨hi, hk⟩

theorem Lane.CalendarLaw.nil {l : Lane} (hl : 5 ≤ l.config.windowLength) (hw : l.windows = []) : l.CalendarLaw := by
  refine ⟨hl, ?_, ?_, ?_⟩ <;> simp [hw]

/-- The list at OPEN_DAY (R46). -/
theorem Lane.CalendarLaw.built {l : Lane} (hl : 5 ≤ l.config.windowLength) {start : Nat}
    (hw : l.windows = buildWindows Config.windowCapacity start l.config.windowLength) : l.CalendarLaw := by
  refine ⟨hl, ?_, ?_, fun w h => ?_⟩
  · rw [hw]; exact buildWindows_length ..
  · rw [hw]; exact buildWindows_sorted (by omega) _ _
  · rw [hw] at h
    obtain ⟨hn, -, hm⟩ := mem_buildWindows h
    rw [hn]
    exact ⟨hm, Nat.le_refl 0, Nat.zero_le _⟩

/-- The list after a minute boundary (R47, R52). -/
theorem Lane.CalendarLaw.after {l m : Lane} (h : l.CalendarLaw) {n : Nat} (hc : m.config = l.config)
    (hw : m.windows = l.windowsAfter n) : m.CalendarLaw := by
  obtain ⟨length, count, sorted, bounds⟩ := h
  refine ⟨by rw [hc]; exact length, ?_, ?_, fun w hm => ?_⟩ <;> rw [hw] at *
  · exact (windowsAfter_length l n).trans count
  · exact windowsAfter_spaced (d := 1) n (by omega) sorted
  · rcases mem_windowsAfter hm with ⟨x, hx, -, hs, hk, hi, -⟩ | ⟨newest, -, hn, -, hm⟩
    · rw [← hs, ← hk, ← hi]; exact bounds x hx
    · rw [hn]; exact ⟨hm, Nat.le_refl 0, Nat.zero_le _⟩

/-- A grant never leaves a window less capacity than it has issued, nor more than 4095 (R60). -/
theorem grantedCapacity_bounds {w : Window} (delta : Int) (hi : w.issued ≤ w.capacity) (hk : w.capacity ≤ 4095) :
    w.issued ≤ grantedCapacity w delta ∧ grantedCapacity w delta ≤ 4095 := by
  unfold grantedCapacity
  split
  · omega
  · split <;> omega

theorem LaneConfig.write_windowLength (c : LaneConfig) (field v : Nat) :
    (c.write field v).windowLength = if field = 9 then v else c.windowLength := by
  by_cases h : field = 9
  · rw [if_pos h, h]; rfl
  · rw [if_neg h]
    unfold LaneConfig.write
    split
    case h_9 => contradiction
    all_goals rfl

theorem windowLength_of_writes {c : LaneConfig} (h : 5 ≤ c.windowLength) (pairs : List (Nat × Nat)) :
    5 ≤ ((TableId.lane.legalPairs pairs).foldl (fun c p => c.write p.1 p.2) c).windowLength := by
  induction pairs generalizing c with
  | nil => exact h
  | cons p rest ih =>
    refine ih ?_
    dsimp only
    rw [LaneConfig.write_windowLength]
    split
    · next e => rw [e]; exact (legalWindowLength_range p.2).1
    · exact h

theorem Evolves.calendarLaw {s t : State} (h : Evolves s t) (hs : s.CalendarLaw) : t.CalendarLaw := by
  induction h with
  | keep h => exact fun i => (hs i).of_windows (h.lanes i).config (h.lanes i).windows
  | trans _ _ ih1 ih2 => exact ih2 (ih1 hs)
  | power s => exact fun i => by rw [powerReset_lane]; exact .nil (by decide) rfl
  | ring | second => exact hs
  | minute => exact fun i => by rw [State.lane, get_tabulate]; exact (hs i).after rfl rfl
  | @period s d rest h =>
    exact fun i => by rw [State.lane, get_tabulate]; exact (hs i).of_windows (periodLane_kept s d i).1 (periodLane_kept s d i).2
  | @mode s i m e publishes l h hd =>
    obtain ⟨f, hf, hk⟩ := changeMode_adjusts h
    intro j
    rw [setLane_lane]
    split
    · refine (hs i).adjust (f := f) ⟨hf.config, hf.windows, hf.starts⟩ fun w _ hi hc => ?_
      rw [(hk w).1, (hk w).2.1]
      exact ⟨hi, hc⟩
    · exact hs j
  | @issue s i ticket party w h =>
    obtain ⟨-, -, -, -, hf⟩ := checkRequest_issue h
    obtain ⟨hm, -, room⟩ := findWindow_some hf
    intro j
    rw [issuePass_lane]
    split
    · refine (hs i).adjust (adjustWindow_adjusts _ _ fun _ => rfl) fun x hx hi hc => ?_
      unfold Window.changedAt
      split
      · next e =>
        rw [window_eq_of_start (hs i).2.2.1 hx hm e]
        exact ⟨room, ((hs i).2.2.2 w hm).2.2⟩
      · exact ⟨hi, hc⟩
    · exact hs j
  | @redeem s i ticket start r hd hr h =>
    intro j
    rw [redeemIssued_lane]
    split
    · refine (hs i).adjust (adjustWindow_adjusts _ _ fun _ => rfl) fun x _ hi hc => ?_
      unfold Window.changedAt
      split <;> exact ⟨hi, hc⟩
    · exact hs j
  | redeemCarried => exact fun j => (hs j).of_windows (redeemCarried_config ..) (redeemCarried_windows ..)
  | @void s i ticket r hr h =>
    intro j
    by_cases e : j = i
    · subst e
      obtain ⟨f, ha, hf⟩ := voidRecord_adjusts s j r
      refine (hs j).adjust ha fun w _ hi hc => ?_
      rcases hf with rfl | ⟨start, -, rfl⟩
      · exact ⟨hi, hc⟩
      · unfold Window.changedAt
        split
        · exact ⟨(Nat.sub_le _ _).trans hi, hc⟩
        · exact ⟨hi, hc⟩
    · rw [voidRecord_lane_other s r e]; exact hs j
  | @built s hd offset =>
    intro i
    have hl : 5 ≤ ((s.dayBuilt (storedOffset offset)).lane i).config.windowLength := by rw [dayBuilt_config]; exact (hs i).1
    have hw := dayBuilt_windows s (storedOffset offset) i
    split at hw
    · exact .built hl (by rw [hw, dayBuilt_config])
    · exact .nil hl hw
  | emptied => exact fun i => by rw [dayEmptied_lane]; exact .nil (hs i).1 rfl
  | @resolve s h =>
    intro i
    obtain ⟨f, ha, hf⟩ := resolveHead_adjusts s i
    refine (hs i).adjust ha fun w _ hi hc => ?_
    rcases hf w with e | ⟨delta, e⟩ <;> rw [e]
    · exact ⟨hi, hc⟩
    · exact grantedCapacity_bounds delta hi hc
  | write h =>
    intro i
    rcases (writeTable_day h).2.2.2 i with e | ⟨-, e, -⟩ <;> rw [e]
    · exact hs i
    · exact ⟨windowLength_of_writes (hs i).1 _, (hs i).2⟩

/-! ## Window lists: spacing (R44, R46, R52) -/

theorem Lane.SpacingLaw.adjust {f : Window → Window} {l m : Lane} (h : l.SpacingLaw) (ha : l.Adjusts f m) : m.SpacingLaw := by
  unfold Lane.SpacingLaw
  rw [ha.config, ha.windows, List.pairwise_map]
  exact h.imp fun hab => by rw [ha.starts, ha.starts]; exact hab

theorem Lane.SpacingLaw.of_windows {l m : Lane} (h : l.SpacingLaw) (hc : m.config = l.config) (hw : m.windows = l.windows) :
    m.SpacingLaw := h.adjust (.of_windows hc hw)

theorem Lane.SpacingLaw.nil {l : Lane} (hw : l.windows = []) : l.SpacingLaw := by
  unfold Lane.SpacingLaw
  rw [hw]
  exact .nil

theorem windowLength_kept {c : LaneConfig} {pairs : List (Nat × Nat)} (h : ∀ p ∈ pairs, p.1 ≠ 9) :
    ((TableId.lane.legalPairs pairs).foldl (fun c p => c.write p.1 p.2) c).windowLength = c.windowLength := by
  induction pairs generalizing c with
  | nil => rfl
  | cons p rest ih =>
    refine (ih fun q hq => h q (List.mem_cons_of_mem _ hq)).trans ?_
    dsimp only
    rw [LaneConfig.write_windowLength, if_neg (h p List.mem_cons_self)]

/-- A write of the window length is SHUT only, and while the day is SHUT there is no window (R2, R44). -/
theorem State.SpacingLaw.write {s t : State} {code index : Nat} {pairs : List (Nat × Nat)} {lg : Bool} (hs : s.ShutLaw)
    (hp : s.SpacingLaw) (h : s.writeTable code index pairs = .accepted t lg) : t.SpacingLaw := by
  intro i
  rcases (writeTable_day h).2.2.2 i with e | ⟨-, e, hc⟩ <;> rw [e]
  · exact hp i
  · cases hd : s.dayOpen with
    | false => exact .nil (hs.windows_nil hd i)
    | true =>
      have length := windowLength_kept (c := (s.lane i).config) (pairs := pairs) fun p hm e => by
        simpa [hd, TableId.shutOnly, e] using (hc p hm).1
      have := hp i
      unfold Lane.SpacingLaw at this ⊢
      rw [length]
      exact this

theorem Evolves.spacingLaw {s t : State} (h : Evolves s t) (hs : s.ShutLaw) (hp : s.SpacingLaw) : t.SpacingLaw := by
  induction h with
  | keep h => exact fun i => (hp i).of_windows (h.lanes i).config (h.lanes i).windows
  | trans h _ ih1 ih2 => exact ih2 (h.shutLaw hs) (ih1 hs hp)
  | power s => exact fun i => by rw [powerReset_lane]; exact .nil rfl
  | ring | second => exact hp
  | minute => exact fun i => by rw [State.lane, get_tabulate]; exact windowsAfter_spaced _ (Nat.le_refl _) (hp i)
  | @period s d rest h =>
    exact fun i => by rw [State.lane, get_tabulate]; exact (hp i).of_windows (periodLane_kept s d i).1 (periodLane_kept s d i).2
  | @mode s i m e publishes l h hd =>
    obtain ⟨f, hf, -⟩ := changeMode_adjusts h
    intro j
    rw [setLane_lane]
    split
    · exact (hp i).adjust (f := f) ⟨hf.config, hf.windows, hf.starts⟩
    · exact hp j
  | issue | redeem =>
    intro j
    simp only [issuePass_lane, redeemIssued_lane]
    split
    · exact (hp _).adjust (adjustWindow_adjusts _ _ fun _ => rfl)
    · exact hp j
  | redeemCarried => exact fun j => (hp j).of_windows (redeemCarried_config ..) (redeemCarried_windows ..)
  | @void s i ticket r hr h =>
    intro j
    by_cases e : j = i
    · subst e; exact (hp j).adjust (voidRecord_adjusts s j r).choose_spec.1
    · rw [voidRecord_lane_other s r e]; exact hp j
  | @built s hd offset =>
    intro i
    unfold Lane.SpacingLaw
    rw [dayBuilt_windows, dayBuilt_config]
    split
    · exact buildWindows_spaced (Nat.le_refl _) _ _
    · exact .nil
  | emptied => exact fun i => by rw [dayEmptied_lane]; exact .nil rfl
  | @resolve s h => exact fun i => (hp i).adjust (resolveHead_adjusts s i).choose_spec.1
  | write h => exact hp.write hs h

end Sys2Proof.Machine
end

section
/-! The register and the promises of windows, kept by every change. -/

namespace Sys2Proof.Machine

/-! ## Records of one key -/

/-- A register in the order of its keys, cut at a record of it: what is left, and what a new state of the record makes of it. -/
theorem sum_removeRecord {register : List PassRecord} (hs : register.Pairwise fun a b => a.key < b.key) {r : PassRecord}
    (hr : r ∈ register) (g : PassRecord → Nat) :
    (register.map g).sum = g r + ((removeRecord register r.ticket r.lane).map g).sum := by
  induction register with
  | nil => cases hr
  | cons x rest ih =>
    rw [List.pairwise_cons] at hs
    unfold removeRecord
    rcases List.mem_cons.mp hr with rfl | hm
    · have others : rest.filter (fun q => q.key != passKey r.ticket r.lane) = rest :=
        List.filter_eq_self.mpr fun q hq => by
          have := hs.1 q hq
          simp only [bne_iff_ne, ne_eq]
          show ¬ q.key = r.key
          omega
      rw [List.filter_cons_of_neg (by simp [PassRecord.key]), others, List.map_cons, List.sum_cons]
    · have : x.key ≠ passKey r.ticket r.lane := by
        have := hs.1 r hm
        show x.key ≠ r.key
        omega
      rw [List.filter_cons_of_pos (by simpa using this), List.map_cons, List.sum_cons, List.map_cons, List.sum_cons, ih hs.2 hm]
      unfold removeRecord
      omega

theorem sum_restateRecord {register : List PassRecord} (hs : register.Pairwise fun a b => a.key < b.key) {r : PassRecord}
    (hr : r ∈ register) (st : PassState) (g : PassRecord → Nat) :
    ((restateRecord register r.ticket r.lane st).map g).sum =
      g { r with state := st } + ((removeRecord register r.ticket r.lane).map g).sum := by
  have h := sum_removeRecord hs hr fun q => g (if q.key = r.key then { q with state := st } else q)
  rw [if_pos rfl] at h
  rw [restateRecord, List.map_map]
  refine h.trans (congrArg (g _ + List.sum ·) (List.map_congr_left fun q hq => ?_))
  rw [if_neg]
  simpa [removeRecord, PassRecord.key] using (List.mem_filter.mp hq).2

/-! ## The register (R68) -/

theorem voidRecord_register (s : State) (i : Fin 64) (r : PassRecord) :
    (s.voidRecord i r).register = removeRecord s.register r.ticket i := by
  unfold State.voidRecord
  dsimp only
  repeat' split
  all_goals rfl

theorem Evolves.registerLaw {s t : State} (h : Evolves s t) (hs : s.RegisterLaw) : t.RegisterLaw := by
  /- A part of the register with the keys in their order meets the law. -/
  have sublist : ∀ {s t : State}, s.RegisterLaw → t.register.Sublist s.register → t.RegisterLaw := fun hs h =>
    ⟨hs.1.sublist h, h.length_le.trans hs.2.1, fun r hr => hs.2.2 r (h.subset hr)⟩
  have same : ∀ {s t : State}, s.RegisterLaw → t.register = s.register → t.RegisterLaw := fun hs h =>
    sublist hs (h ▸ .refl _)
  have empty : ∀ {t : State}, t.register = [] → t.RegisterLaw := fun h => by simp [State.RegisterLaw, h]
  induction h with
  | keep h => exact same hs h.register
  | trans _ _ ih1 ih2 => exact ih2 (ih1 hs)
  | power s => exact empty rfl
  | ring | second | period | mode | built => exact same hs rfl
  | @minute s n rest h =>
    obtain ⟨sorted, length, party⟩ := hs
    refine ⟨?_, (List.length_filterMap_le ..).trans length, fun q hq => ?_⟩
    · refine List.Pairwise.filterMap _ (fun a b hab a' ha b' hb => ?_) sorted
      rw [(sweepRecord_some ha).1, (sweepRecord_some hb).1]
      exact hab
    · obtain ⟨r, hr, e⟩ := List.mem_filterMap.mp hq
      rw [(sweepRecord_some e).2.1]
      exact party r hr
  | @issue s i ticket p w h =>
    obtain ⟨-, hp, none, room, -⟩ := checkRequest_issue h
    obtain ⟨sorted, length, party⟩ := hs
    refine ⟨insertRecord_sorted sorted fun x hx => findRecord_none none x hx, ?_, fun q hq => ?_⟩
    · exact (insertRecord_length ..).trans_le room
    · rcases mem_insertRecord.mp hq with rfl | hq
      · exact hp
      · exact party q hq
  | @redeem s i ticket start r hd hr h =>
    obtain ⟨sorted, length, party⟩ := hs
    have keys := restateRecord_keys s.register r.ticket i (.redeemed start)
    refine ⟨?_, (by simpa [State.redeemIssued] using congrArg List.length keys : _ = s.register.length).trans_le length, fun q hq => ?_⟩
    · have sorted' := List.pairwise_map.mpr sorted
      rw [← keys] at sorted'
      exact List.pairwise_map.mp sorted'
    · obtain ⟨x, hx, rfl⟩ := List.mem_map.mp hq
      split <;> exact party x hx
  | redeemCarried => exact sublist hs (removeRecord_sublist ..)
  | @void s i ticket r hr h =>
    exact sublist hs (by rw [voidRecord_register]; exact removeRecord_sublist ..)
  | emptied => exact empty rfl
  | resolve => exact same hs (by simp)
  | write h => exact same hs (writeTable_day h).2.2.1

/-! ## Records and the windows they name (R50) -/

/-- A window that has not retired stands in the list after the boundary, with its start (R49). -/
theorem start_mem_windowsAfter {l : Lane} {n : Nat} {x : Window} (hx : x ∈ l.windows) (hr : l.retires n x = false) :
    ∃ y ∈ l.windowsAfter n, y.start = x.start := by
  have hm : x.start ∈ (l.protectAt n).map Window.start := by
    rw [protectAt_starts]
    exact List.mem_map_of_mem hx
  obtain ⟨y, hy, e⟩ := List.mem_map.mp hm
  refine ⟨y, List.mem_append_left _ (List.mem_filter.mpr ⟨hy, ?_⟩), e⟩
  simpa [Lane.retires, e] using hr

/-- A window that retires is among the retired ones, and so is none that does not (R49). -/
theorem mem_retired_starts {l : Lane} {n : Nat} {x : Window} (hx : x ∈ l.windows) :
    ((l.retired n).any fun y => y.start == x.start) = l.retires n x := by
  have hm : x.start ∈ (l.protectAt n).map Window.start := by
    rw [protectAt_starts]
    exact List.mem_map_of_mem hx
  obtain ⟨z, hz, e⟩ := List.mem_map.mp hm
  rw [Bool.eq_iff_iff, List.any_eq_true]
  constructor
  · rintro ⟨y, hy, hs⟩
    have := (List.mem_filter.mp hy).2
    simpa [Lane.retires, eq_of_beq hs] using this
  · intro h
    exact ⟨z, List.mem_filter.mpr ⟨hz, by simpa [Lane.retires, e] using h⟩, by simp [e]⟩

/-- A record that the sweep keeps with a window names one that has not retired, and is the record it was (R50, R83). -/
theorem sweepRecord_window {gone : List Window} {n : Nat} {r q : PassRecord} (h : sweepRecord gone n r = some q) {w : Nat}
    (hw : q.windowStart = some w) : q = r ∧ (gone.any fun x => x.start == w) = false := by
  unfold sweepRecord at h
  split at h
  · next since hr => cases h; rw [PassRecord.windowStart, hr] at hw; cases hw
  · next v hr =>
    split at h
    · cases h
    · next hg =>
      cases h
      rw [PassRecord.windowStart, hr] at hw
      cases hw
      exact ⟨rfl, by simpa using hg⟩
  · next v hr =>
    split at h
    · next hg =>
      cases h
      rw [PassRecord.windowStart, hr] at hw
      cases hw
      exact ⟨rfl, by simpa using hg⟩
    · split at h
      · cases h; cases hw
      · cases h

theorem State.RecordLaw.of_starts {s t : State} (h : s.RecordLaw)
    (hr : ∀ r ∈ t.register, ∀ w, r.windowStart = some w → ∃ q ∈ s.register, q.lane = r.lane ∧ q.windowStart = some w)
    (hw : ∀ i, ∃ f, (s.lane i).Adjusts f (t.lane i)) : t.RecordLaw := by
  intro r hm w e
  obtain ⟨q, hq, hl, e'⟩ := hr r hm w e
  obtain ⟨x, hx, hxs⟩ := h q hq w e'
  obtain ⟨f, hf⟩ := hw r.lane
  rw [hl] at hx
  exact ⟨f x, by rw [hf.windows]; exact List.mem_map_of_mem hx, by rw [hf.starts]; exact hxs⟩

theorem State.RecordLaw.of_subset {s t : State} (h : s.RecordLaw) (hr : t.register ⊆ s.register)
    (hw : ∀ i, ∃ f, (s.lane i).Adjusts f (t.lane i)) : t.RecordLaw :=
  h.of_starts (fun r hm _ e => ⟨r, hr hm, rfl, e⟩) hw

theorem State.RecordLaw.nil {s : State} (h : s.register = []) : s.RecordLaw := by simp [State.RecordLaw, h]

theorem Evolves.recordLaw {s t : State} (h : Evolves s t) (hs : s.ShutLaw) (hr : s.RecordLaw) : t.RecordLaw := by
  have same : ∀ l : Lane, ∃ f, l.Adjusts f l := fun l => ⟨id, .of_windows rfl rfl⟩
  induction h with
  | keep h => exact hr.of_subset (by rw [h.register]; exact fun _ => id) fun i => ⟨id, .of_windows (h.lanes i).config (h.lanes i).windows⟩
  | trans h _ ih1 ih2 => exact ih2 (h.shutLaw hs) (ih1 hs hr)
  | power s => exact .nil rfl
  | ring | second => exact hr
  | @minute s n rest h =>
    intro q hq w e
    obtain ⟨r, hm, hsw⟩ := List.mem_filterMap.mp hq
    obtain ⟨rfl, hg⟩ := sweepRecord_window hsw e
    obtain ⟨x, hx, rfl⟩ := hr q hm w e
    rw [mem_retired_starts hx] at hg
    rw [State.lane, get_tabulate]
    exact start_mem_windowsAfter hx hg
  | @period s d rest h =>
    exact hr.of_subset (fun _ => id) fun i =>
      ⟨id, (Lane.Adjusts.of_windows (periodLane_kept s d i).1 (periodLane_kept s d i).2).congr (get_tabulate ..)⟩
  | @mode s i m e publishes l h hd =>
    obtain ⟨f, hf, -⟩ := changeMode_adjusts h
    refine hr.of_subset (fun _ => id) fun j => ?_
    rw [setLane_lane]
    split
    · next e => rw [e]; exact ⟨f, hf.config, hf.windows, hf.starts⟩
    · exact same _
  | @issue s i ticket p w h =>
    obtain ⟨-, -, -, -, hf⟩ := checkRequest_issue h
    have adjusts : ∀ j, ∃ f, (s.lane j).Adjusts f ((s.issuePass i ticket p w).lane j) := fun j => by
      rw [issuePass_lane]
      split
      · next e => rw [e]; exact ⟨_, adjustWindow_adjusts _ _ fun _ => rfl⟩
      · exact same _
    intro q hq v e
    rcases mem_insertRecord.mp hq with rfl | hq
    · cases e
      obtain ⟨f, hf'⟩ := adjusts i
      refine ⟨f w, ?_, hf'.starts w⟩
      show f w ∈ ((s.issuePass i ticket p w).lane i).windows
      rw [hf'.windows]
      exact List.mem_map_of_mem (findWindow_some hf).1
    · exact State.RecordLaw.of_subset (t := { s.issuePass i ticket p w with register := s.register }) hr (fun _ => id) adjusts q hq v e
  | @redeem s i ticket start r hd hf h =>
    refine hr.of_starts (fun q hq w e => ?_) fun j => ?_
    · obtain ⟨x, hx, rfl⟩ := List.mem_map.mp hq
      split at e
      · next hk =>
        obtain ⟨hm, -, hl⟩ := findRecord_some hf
        cases e
        refine ⟨r, hm, ?_, by simp [PassRecord.windowStart, h]⟩
        rw [hl]; split
        · exact (PassRecord.key_eq.mp hk).2.symm
        · contradiction
      · next hk => exact ⟨x, hx, by split <;> rfl, e⟩
    · rw [redeemIssued_lane]
      split
      · next e => rw [e]; exact ⟨_, adjustWindow_adjusts _ _ fun _ => rfl⟩
      · exact same _
  | redeemCarried =>
    exact hr.of_subset (removeRecord_sublist ..).subset fun j =>
      ⟨id, .of_windows (redeemCarried_config ..) (redeemCarried_windows ..)⟩
  | @void s i ticket r hf h =>
    refine hr.of_subset (by rw [voidRecord_register]; exact (removeRecord_sublist ..).subset) fun j => ?_
    by_cases e : j = i
    · subst e; exact ⟨_, (voidRecord_adjusts s j r).choose_spec.1⟩
    · rw [voidRecord_lane_other s r e]; exact same _
  | built hd => exact .nil (hs.register_nil hd)
  | emptied => exact .nil rfl
  | @resolve s h => exact hr.of_subset (by rw [resolveHead_register]; exact fun _ => id) fun i => ⟨_, (resolveHead_adjusts s i).choose_spec.1⟩
  | write h =>
    obtain ⟨-, -, hg, hl⟩ := writeTable_day h
    intro q hq w e
    rw [hg] at hq
    rcases hl q.lane with e' | ⟨-, e', -⟩ <;> rw [e'] <;> exact hr q hq w e

/-! ## Promises (R44, R50) -/

/-- What a record adds to the riders of lane `i` in state `st`. -/
def PassRecord.ridersIn (r : PassRecord) (i : Fin 64) (st : PassState) : Nat := if r.lane = i ∧ r.state = st then r.party else 0

theorem riders_eq (s : State) (i : Fin 64) (st : PassState) :
    s.riders i st = (s.register.map fun r => r.ridersIn i st).sum := by
  unfold State.riders
  induction s.register with
  | nil => rfl
  | cons r rest ih =>
    rw [List.map_cons, List.sum_cons, ← ih, PassRecord.ridersIn]
    by_cases h : r.lane = i ∧ r.state = st
    · rw [if_pos h, List.filter_cons_of_pos (by simpa using h), List.map_cons, List.sum_cons]
    · rw [if_neg h, List.filter_cons_of_neg (by simpa using h), Nat.zero_add]

theorem riders_congr {s t : State} (h : t.register = s.register) (i : Fin 64) (st : PassState) : t.riders i st = s.riders i st := by
  rw [State.riders, State.riders, h]

/-- No record names a start at which the lane has no window. -/
theorem State.RecordLaw.riders_zero {s : State} (h : s.RecordLaw) {i : Fin 64} {a : Nat} (ha : ∀ x ∈ (s.lane i).windows, x.start ≠ a) :
    s.riders i (.issued a) = 0 ∧ s.riders i (.redeemed a) = 0 := by
  have none : ∀ st, (∀ r : PassRecord, r.state = st → r.windowStart = some a) → s.riders i st = 0 := by
    intro st hst
    have : s.register.filter (fun r => r.lane == i && r.state == st) = [] := by
      refine List.filter_eq_nil_iff.mpr fun r hr e => ?_
      simp only [Bool.and_eq_true, beq_iff_eq] at e
      obtain ⟨x, hx, hs⟩ := h r hr a (hst r e.2)
      exact ha x (e.1 ▸ hx) hs
    rw [State.riders, this]
    rfl
  exact ⟨none _ fun r hr => by simp [PassRecord.windowStart, hr], none _ fun r hr => by simp [PassRecord.windowStart, hr]⟩

/-- The riders of a window that does not retire are swept by no boundary (R50). -/
theorem riders_swept {s t : State} {n : Nat}
    (h : t.register = s.register.filterMap fun r => sweepRecord ((s.lane r.lane).retired n) n r) {i : Fin 64} {a : Nat}
    (ha : (((s.lane i).retired n).any fun x => x.start == a) = false) :
    t.riders i (.issued a) = s.riders i (.issued a) ∧ t.riders i (.redeemed a) = s.riders i (.redeemed a) := by
  have kept : ∀ st, st = .issued a ∨ st = .redeemed a → t.riders i st = s.riders i st := by
    intro st hst
    rw [riders_eq, riders_eq, h]
    induction s.register with
    | nil => rfl
    | cons r rest ih =>
      have one : ((sweepRecord ((s.lane r.lane).retired n) n r).elim 0 fun q => q.ridersIn i st) = r.ridersIn i st := by
        by_cases hr : r.lane = i ∧ r.state = st
        · obtain ⟨rfl, rfl⟩ := hr
          have : sweepRecord ((s.lane r.lane).retired n) n r = some r := by
            unfold sweepRecord
            rcases hst with e | e <;> rw [e]
            · have : ((s.lane r.lane).retired n).find? (fun x => x.start == a) = none := by
                simpa using ha
              simp only [this]
            · simp [ha]
          rw [this]; rfl
        · rw [PassRecord.ridersIn, if_neg hr]
          cases hsw : sweepRecord ((s.lane r.lane).retired n) n r with
          | none => rfl
          | some q =>
            obtain ⟨-, -, hl, hq⟩ := sweepRecord_some hsw
            show q.ridersIn i st = 0
            rw [PassRecord.ridersIn, if_neg]
            rintro ⟨e1, e2⟩
            rcases hq with rfl | hq
            · exact hr ⟨e1, e2⟩
            · rw [hq] at e2
              rcases hst with e | e <;> rw [e] at e2 <;> cases e2
      rw [List.filterMap_cons, List.map_cons, List.sum_cons, ← one, ← ih]
      cases sweepRecord ((s.lane r.lane).retired n) n r <;> simp
  exact ⟨kept _ (.inl rfl), kept _ (.inr rfl)⟩

/-- The promise of one window, to the riders that records hold. -/
def Window.PromiseTo (w : Window) (issued redeemed : Nat) : Prop :=
  w.redeemed = redeemed ∧ w.redeemed ≤ w.issued ∧ issued + redeemed ≤ w.issued

theorem State.PromiseLaw.window {s : State} (h : s.PromiseLaw) {i : Fin 64} {w : Window} (hw : w ∈ (s.lane i).windows) :
    w.PromiseTo (s.riders i (.issued w.start)) (s.riders i (.redeemed w.start)) := h i w hw

/-- The law window by window, for lists changed by window. -/
theorem State.PromiseLaw.adjust {s t : State} (h : ∀ i, ∃ f, (s.lane i).Adjusts f (t.lane i) ∧ ∀ w ∈ (s.lane i).windows,
    (f w).PromiseTo (t.riders i (.issued w.start)) (t.riders i (.redeemed w.start))) : t.PromiseLaw := by
  intro i w hw
  obtain ⟨f, hf, hp⟩ := h i
  rw [hf.windows] at hw
  obtain ⟨x, hx, rfl⟩ := List.mem_map.mp hw
  have := hp x hx
  rw [← hf.starts x] at this
  exact this

/-- Lists whose windows keep their counts, under the register as it was. -/
theorem State.PromiseLaw.of_counts {s t : State} (hp : s.PromiseLaw) (hr : t.register = s.register)
    (h : ∀ i, ∃ f, (s.lane i).Adjusts f (t.lane i) ∧ ∀ w, (f w).issued = w.issued ∧ (f w).redeemed = w.redeemed) :
    t.PromiseLaw :=
  .adjust (s := s) fun i => by
    obtain ⟨f, hf, hc⟩ := h i
    refine ⟨f, hf, fun w hw => ?_⟩
    have := hp.window hw
    rw [riders_congr hr, riders_congr hr]
    unfold Window.PromiseTo at this ⊢
    rw [(hc w).1, (hc w).2]
    exact this

theorem State.PromiseLaw.of_windows {s t : State} (hp : s.PromiseLaw) (hr : t.register = s.register)
    (h : ∀ i, (s.lane i).Adjusts id (t.lane i)) : t.PromiseLaw :=
  hp.of_counts hr fun i => ⟨id, h i, fun _ => ⟨rfl, rfl⟩⟩

theorem State.PromiseLaw.of_no_windows {s : State} (h : ∀ i, (s.lane i).windows = []) : s.PromiseLaw := fun i w hw => by
  rw [h i] at hw; cases hw

/-- Issuance: the party joins the riders and the issued count of the window issued into, and of no other (R76). -/
theorem State.PromiseLaw.issue {s : State} (hp : s.PromiseLaw) (i : Fin 64) (ticket party : Nat) (w : Window) :
    (s.issuePass i ticket party w).PromiseLaw := by
  have riders : ∀ j st, (s.issuePass i ticket party w).riders j st =
      s.riders j st + if i = j ∧ PassState.issued w.start = st then party else 0 := by
    intro j st
    rw [riders_eq, riders_eq]
    have := ((insertRecord_perm s.register (s.issuedRecord i ticket party w)).map fun r => r.ridersIn j st).sum_eq
    rw [List.map_cons, List.sum_cons, Nat.add_comm] at this
    exact this
  refine .adjust (s := s) fun j => ?_
  by_cases e : j = i
  · subst e
    refine ⟨Window.changedAt w.start fun x => { x with issued := x.issued + party }, ?_, fun x hx => ?_⟩
    · rw [issuePass_lane, if_pos rfl]
      exact adjustWindow_adjusts _ _ fun _ => rfl
    · obtain ⟨h1, h2, h3⟩ := hp.window hx
      rw [riders, riders]
      simp only [true_and, reduceCtorEq, and_false, if_false, Nat.add_zero, PassState.issued.injEq]
      unfold Window.changedAt Window.PromiseTo
      by_cases e : x.start = w.start
      · rw [if_pos e, if_pos e.symm]
        exact ⟨h1, by dsimp only; omega, by dsimp only; omega⟩
      · rw [if_neg e, if_neg (Ne.symm e)]
        exact ⟨h1, h2, h3⟩
  · refine ⟨id, .of_windows ?_ ?_, fun x hx => ?_⟩
    · rw [issuePass_lane, if_neg e]
    · rw [issuePass_lane, if_neg e]
    · rw [riders, riders, if_neg fun h => e h.1.symm, if_neg fun h => e h.1.symm]
      exact hp.window hx

/-- The riders with a record of the register taken out. -/
theorem riders_split {s : State} (hs : s.RegisterLaw) {i : Fin 64} {ticket : Nat} {r : PassRecord}
    (hr : findRecord s.register ticket i = some r) (j : Fin 64) (st : PassState) :
    s.riders j st = r.ridersIn j st + ((removeRecord s.register r.ticket i).map fun q => q.ridersIn j st).sum := by
  obtain ⟨hm, -, rfl⟩ := findRecord_some hr
  rw [riders_eq, sum_removeRecord hs.1 hm]

/-- Redemption of an ISSUED record: the party goes from the issued riders of its window to the redeemed ones (R81). -/
theorem State.PromiseLaw.redeem {s : State} (hp : s.PromiseLaw) (hs : s.RegisterLaw) {i : Fin 64} {ticket start : Nat}
    {r : PassRecord} (hr : findRecord s.register ticket i = some r) (h : r.state = .issued start) :
    (s.redeemIssued i r start).PromiseLaw := by
  obtain ⟨hm, -, hl⟩ := findRecord_some hr
  have after : ∀ j st, (s.redeemIssued i r start).riders j st = (if i = j ∧ PassState.redeemed start = st then r.party else 0) +
      ((removeRecord s.register r.ticket i).map fun q => q.ridersIn j st).sum := by
    intro j st
    rw [riders_eq, ← hl]
    exact sum_restateRecord hs.1 hm _ _
  have before : ∀ j st, s.riders j st = (if i = j ∧ PassState.issued start = st then r.party else 0) +
      ((removeRecord s.register r.ticket i).map fun q => q.ridersIn j st).sum := by
    intro j st
    rw [riders_split hs hr, PassRecord.ridersIn, hl, h]
  refine .adjust (s := s) fun j => ?_
  by_cases e : j = i
  · subst e
    refine ⟨Window.changedAt start fun x => { x with redeemed := x.redeemed + r.party }, ?_, fun x hx => ?_⟩
    · rw [redeemIssued_lane, if_pos rfl]
      exact adjustWindow_adjusts _ _ fun _ => rfl
    · obtain ⟨h1, h2, h3⟩ := hp.window hx
      rw [before, before] at h3
      rw [before] at h1
      rw [after, after]
      simp only [true_and, reduceCtorEq, and_false, if_false, PassState.issued.injEq, PassState.redeemed.injEq] at h1 h3 ⊢
      unfold Window.changedAt
      by_cases e : x.start = start
      · rw [if_pos e]
        rw [if_pos e.symm] at h3 ⊢
        exact ⟨by dsimp only; omega, by dsimp only; omega, by dsimp only; omega⟩
      · rw [if_neg e]
        rw [if_neg (Ne.symm e)] at h3 ⊢
        exact ⟨h1, h2, h3⟩
  · refine ⟨id, .of_windows ?_ ?_, fun x hx => ?_⟩
    · rw [redeemIssued_lane, if_neg e]
    · rw [redeemIssued_lane, if_neg e]
    · have := hp.window hx
      rw [before, before, if_neg fun h => e h.1.symm, if_neg fun h => e h.1.symm] at this
      rw [after, after, if_neg fun h => e h.1.symm, if_neg fun h => e h.1.symm]
      exact this

/-- A record removed takes its riders with it, and from a FUTURE window the seats (R80, R85). -/
theorem State.PromiseLaw.remove {s t : State} (hp : s.PromiseLaw) (hs : s.RegisterLaw) {i : Fin 64} {ticket : Nat} {r : PassRecord}
    (hr : findRecord s.register ticket i = some r) (hn : ∀ w, r.state ≠ .redeemed w)
    (ht : t.register = removeRecord s.register r.ticket i) (other : ∀ j, j ≠ i → t.lane j = s.lane j)
    (same : ∃ f, (s.lane i).Adjusts f (t.lane i) ∧ (f = id ∨ ∃ start, r.state = .issued start ∧
      f = Window.changedAt start fun w => { w with issued := w.issued - r.party })) : t.PromiseLaw := by
  obtain ⟨hm, -, hl⟩ := findRecord_some hr
  have before : ∀ j st, s.riders j st = r.ridersIn j st + t.riders j st := by
    intro j st
    rw [riders_split hs hr, riders_eq t, ht]
  have redeemed : ∀ j w, s.riders j (.redeemed w) = t.riders j (.redeemed w) := fun j w => by
    rw [before, PassRecord.ridersIn, if_neg fun h => hn w h.2, Nat.zero_add]
  refine .adjust (s := s) fun j => ?_
  by_cases e : j = i
  · subst e
    obtain ⟨f, hf, hc⟩ := same
    refine ⟨f, hf, fun x hx => ?_⟩
    obtain ⟨h1, h2, h3⟩ := hp.window hx
    rw [redeemed] at h1 h3
    rw [before] at h3
    rcases hc with rfl | ⟨start, hst, rfl⟩
    · exact ⟨h1, h2, show _ ≤ x.issued by omega⟩
    · unfold Window.changedAt
      split
      · next e =>
        rw [PassRecord.ridersIn, if_pos ⟨hl, by rw [hst, e]⟩] at h3
        exact ⟨h1, by dsimp only; omega, by dsimp only; omega⟩
      · exact ⟨h1, h2, by omega⟩
  · refine ⟨id, .of_windows (by rw [other j e]) (by rw [other j e]), fun x hx => ?_⟩
    have := hp.window hx
    rw [redeemed, before, PassRecord.ridersIn, if_neg fun h => e (h.1.symm.trans hl), Nat.zero_add] at this
    exact this

/-- A minute boundary: a window that has not retired keeps its riders, and a new one has none (R50, R52). -/
theorem State.PromiseLaw.minute {s t : State} (hp : s.PromiseLaw) (hc : s.CalendarLaw) (hr : s.RecordLaw) {n : Nat}
    (hw : ∀ i, (t.lane i).windows = (s.lane i).windowsAfter n)
    (ht : t.register = s.register.filterMap fun r => sweepRecord ((s.lane r.lane).retired n) n r) : t.PromiseLaw := by
  intro i w hm
  rw [hw] at hm
  rcases mem_windowsAfter hm with ⟨x, hx, hret, hs, -, hi, hrd⟩ | ⟨newest, hn, hnew, hle, -⟩
  · obtain ⟨issued, redeemed⟩ := riders_swept ht (i := i) (a := x.start) (by rw [mem_retired_starts hx]; exact hret)
    have := hp.window hx
    unfold Window.PromiseTo at this
    rw [← hs, issued, redeemed, ← hi, ← hrd]
    exact this
  · have length : 5 ≤ (s.lane i).config.windowLength := (hc i).1
    have below : ∀ x ∈ (s.lane i).windows, x.start ≤ newest := fun x hx => start_le_newest (d := 1) (hc i).2.2.1 hn hx
    have gone : (((s.lane i).retired n).any fun x => x.start == w.start) = false := by
      refine List.any_eq_false.mpr fun x hx e => ?_
      have hst : x.start ∈ (s.lane i).windows.map Window.start := by
        rw [← protectAt_starts _ n]
        exact List.mem_map_of_mem (List.mem_filter.mp hx).1
      obtain ⟨y, hy, ey⟩ := List.mem_map.mp hst
      have := below y hy
      have := eq_of_beq e
      omega
    obtain ⟨issued, redeemed⟩ := riders_swept ht gone
    obtain ⟨zero_issued, zero_redeemed⟩ := hr.riders_zero (i := i) (a := w.start) fun x hx e => by
      have := below x hx
      omega
    rw [issued, redeemed, zero_issued, zero_redeemed, hnew]
    exact ⟨rfl, Nat.le_refl 0, Nat.le_refl 0⟩

theorem Evolves.promiseLaw {s t : State} (h : Evolves s t) (hs : s.ShutLaw) (hg : s.RegisterLaw) (hr : s.RecordLaw)
    (hc : s.CalendarLaw) (hp : s.PromiseLaw) : t.PromiseLaw := by
  induction h with
  | keep h => exact hp.of_windows h.register fun i => .of_windows (h.lanes i).config (h.lanes i).windows
  | trans h _ ih1 ih2 =>
    exact ih2 (h.shutLaw hs) (h.registerLaw hg) (h.recordLaw hs hr) (h.calendarLaw hc) (ih1 hs hg hr hc hp)
  | power s => exact .of_no_windows fun i => by rw [powerReset_lane]; rfl
  | ring | second => exact hp
  | @minute s n rest h => exact hp.minute hc hr (n := n) (fun i => by rw [State.lane, get_tabulate]; rfl) rfl
  | @period s d rest h =>
    exact hp.of_windows rfl fun i =>
      (Lane.Adjusts.of_windows (periodLane_kept s d i).1 (periodLane_kept s d i).2).congr (get_tabulate ..)
  | @mode s i m e publishes l h hd =>
    obtain ⟨f, hf, hk⟩ := changeMode_adjusts h
    refine hp.of_counts rfl fun j => ?_
    rw [setLane_lane]
    split
    · next e => rw [e]; exact ⟨f, ⟨hf.config, hf.windows, hf.starts⟩, fun w => (hk w).2⟩
    · exact ⟨id, .of_windows rfl rfl, fun _ => ⟨rfl, rfl⟩⟩
  | issue => exact hp.issue _ _ _ _
  | redeem hd hf h => exact hp.redeem hg hf h
  | @redeemCarried s i ticket since r hd hf h =>
    refine hp.remove hg hf (by simp [h]) rfl (fun j e => get_put_other _ _ e) ⟨id, ?_, .inl rfl⟩
    exact .of_windows (redeemCarried_config ..) (redeemCarried_windows ..)
  | @void s i ticket r hf h =>
    exact hp.remove hg hf h (voidRecord_register ..) (fun j e => voidRecord_lane_other s r e) (voidRecord_adjusts s i r)
  | @built s hd offset =>
    intro i w hw
    rw [dayBuilt_windows] at hw
    have new : w = newWindow w.start := by
      split at hw
      · exact (mem_buildWindows hw).1
      · cases hw
    have zero : ∀ st, (s.dayBuilt (storedOffset offset)).riders i st = 0 := fun st => by
      have empty : (s.dayBuilt (storedOffset offset)).register = [] := hs.register_nil hd
      rw [State.riders, empty]
      rfl
    rw [zero, zero, new]
    exact ⟨rfl, Nat.le_refl 0, Nat.le_refl 0⟩
  | emptied => exact .of_no_windows fun i => by rw [dayEmptied_lane]; rfl
  | @resolve s h =>
    refine hp.of_counts (by simp) fun i => ?_
    obtain ⟨f, hf, hk⟩ := resolveHead_adjusts s i
    refine ⟨f, hf, fun w => ?_⟩
    rcases hk w with e | ⟨delta, e⟩ <;> rw [e] <;> exact ⟨rfl, rfl⟩
  | write h =>
    obtain ⟨-, -, hg', hl⟩ := writeTable_day h
    intro i w hw
    rw [riders_congr hg', riders_congr hg']
    rcases hl i with e | ⟨-, e, -⟩ <;> rw [e] at hw <;> exact hp i w hw

/-- Settles O8: every change of the day keeps the three laws, each with the laws it leans on, and a step makes changes alone. -/
theorem stepKeepsCalendarLaw : Obligations.StepKeepsCalendarLaw :=
  ⟨fun _ _ hc h => (step_evolves h).calendarLaw hc, fun _ _ ⟨hs, hp⟩ h => (step_evolves h).spacingLaw hs hp,
    fun _ _ ⟨hs, hg, hr, hc, hp⟩ h => (step_evolves h).promiseLaw hs hg hr hc hp⟩

end Sys2Proof.Machine
end

section
/-! Lane actions: counting, ride status, and the actions for an unused lane. -/

namespace Sys2Proof.Machine

/-! ## The gates of a lane action (R1, R23) -/

theorem onLaneInUse_used {s : State} {i : Fin 64} (h : (s.lane i).config.ride ≠ 0) (f : State → State) :
    s.onLaneInUse i f = f s := if_pos (Lane.inUse_eq_true.2 h)

theorem onLaneInUse_unused {s : State} {i : Fin 64} (h : (s.lane i).config.ride = 0) (f : State → State) :
    s.onLaneInUse i f = { s with counters := { s.counters with unmapped := min 65535 (s.counters.unmapped + 1) } } :=
  if_neg (by simp [Lane.inUse_eq_false.2 h])

theorem onOpenDay_open {s : State} (h : s.clock.day = .opened) (f : State → State) : s.onOpenDay f = f s :=
  if_pos (State.dayOpen_eq_true.2 h)

theorem onOpenDay_shut {s : State} (h : s.clock.day = .shut) (f : State → State) :
    s.onOpenDay f = { s with counters := { s.counters with offDay := min 65535 (s.counters.offDay + 1) } } :=
  if_neg (by simp [State.dayOpen_eq_false.2 h])

theorem DayState.ne_shut {d : DayState} : d ≠ .shut ↔ d = .opened := by cases d <;> simp

/-- Settles O25: the gates in turn, and the count. -/
theorem countEntryCounts : Obligations.CountEntryCounts := by
  intro s i c hs
  rw [exec, execCountEntry, takeAction_serving hs]
  dsimp only
  congr 1
  by_cases hr : (s.lane i).config.ride = 0
  · rw [if_pos hr]
    exact onLaneInUse_unused (s := s.atAction _) hr _
  · rw [if_neg hr, onLaneInUse_used (s := s.atAction _) hr]
    by_cases hd : s.clock.day = .shut
    · rw [if_pos hd]
      exact onOpenDay_shut (s := s.atAction _) hd _
    · rw [if_neg hd]
      exact onOpenDay_open (s := s.atAction _) (DayState.ne_shut.1 hd) _

/-! ## Reports after a change at lanes -/

/-- Lanes that have changed in nothing that the Unit is not given, and the reports of the destinations touched re-evaluated: the reports
follow (R160 to R162, R164). -/
theorem touched_reportsFollow {s u : State} {given : Fin 64 → List AttnKind} {ds : List Port} (hd : ∀ d ∈ u.touched given, d ∈ ds)
    (ha : u.attn = s.attn) (ht : ∀ d, (u.port d).tx = (s.port d).tx)
    (hp : ∀ (i : Fin 64), ∀ k ∈ laneKinds, k ∉ given i → u.laneKindPending k i = s.laneKindPending k i)
    (hs : u.segments = s.segments) (hk : u.park = s.park) (hr : ∀ i, (u.lane i).config.ride = (s.lane i).config.ride)
    (hh : u.ring.headHeld = s.ring.headHeld) : s.ReportsFollow (u.evaluateEach ds) :=
  evaluateEach_reportsFollow (fun d => by rw [State.attnPort, State.attnPort, ha]) ht fun d hn =>
    report_of_not_touched (fun h => hn (hd d h)) hp hs hk hr hh (by rw [ha])

theorem mem_touched {s : State} {given : Fin 64 → List AttnKind} {d : Port} :
    d ∈ s.touched given ↔ ∃ i, ∃ k ∈ given i, s.laneRoute k i = d := by
  simp [State.touched, mem_allPorts]

/-- A lane kind at a lane that differs in nothing the kind reads. -/
theorem laneKindPending_congr {s u : State} {i : Fin 64} (hd : u.dayOpen = s.dayOpen)
    (hr : (u.lane i).config.ride = (s.lane i).config.ride) (k : AttnKind)
    (h : match k with
      | .laneDown => (u.lane i).live.mode = (s.lane i).live.mode
      | .laneStale => (u.lane i).live.stale = (s.lane i).live.stale
      | .countSkew => (u.lane i).countSkew = (s.lane i).countSkew
      | .grantLow => (u.lane i).grantLow = (s.lane i).grantLow
      | _ => True) : u.laneKindPending k i = s.laneKindPending k i := by
  have hu : (u.lane i).inUse = (s.lane i).inUse := by rw [Lane.inUse, Lane.inUse, hr]
  cases k <;> simp_all [State.laneKindPending]

/-! ## Boarding (R25, R26) -/

theorem LaneLive.countBoarding_eq (v : LaneLive) (c c2 : Nat) : v.countBoarding c c2 = { v with
    q := v.q - c
    skew := if v.q < c then min 65535 (v.skew + (c - v.q)) else v.skew
    bs := min 65535 (v.bs + c)
    bp := min 65535 (v.bp + c2)
    stalePeriods := if v.mode.isOpen = true ∧ 0 < c + c2 then 0 else v.stalePeriods
    stale := if v.mode.isOpen = true ∧ 0 < c + c2 then false else v.stale } := by
  unfold LaneLive.countBoarding
  by_cases h : v.mode.isOpen = true ∧ 0 < c + c2
  · rw [if_pos (by simpa using h), if_pos h, if_pos h]; rfl
  · rw [if_neg (by simpa using h), if_neg h, if_neg h]; rfl

/-- A boarding taken on an OPEN day: the lane's counts, and then at most the report that LANE_STALE goes to. -/
theorem takeBoarding_open {s : State} (hd : s.clock.day = .opened) (i : Fin 64) (c c2 : Nat) :
    let u := s.setLane i { s.lane i with live := (s.lane i).live.countBoarding c c2 }
    u.OnlyReports (s.takeBoarding i c c2) ∧ s.ReportsFollow (s.takeBoarding i c c2) := by
  intro u
  have lanes : ∀ j, (u.lane j).config = (s.lane j).config ∧ (u.lane j).live.mode = (s.lane j).live.mode ∧
      (u.lane j).countSkew = (s.lane j).countSkew ∧ (u.lane j).grantLow = (s.lane j).grantLow ∧
      (j ≠ i → (u.lane j).live.stale = (s.lane j).live.stale) := by
    intro j
    simp only [u, setLane_lane]
    split
    · next e => subst e; exact ⟨rfl, (countBoarding_keeps _ c c2).1, rfl, rfl, fun h => absurd rfl h⟩
    · exact ⟨rfl, rfl, rfl, rfl, fun _ => rfl⟩
  have pending : ∀ j, ∀ k ∈ laneKinds, (k = .laneStale → (u.lane j).live.stale = (s.lane j).live.stale) →
      u.laneKindPending k j = s.laneKindPending k j := by
    intro j k _ hk
    obtain ⟨config, mode, skew, low, -⟩ := lanes j
    refine laneKindPending_congr (s := s) (u := u) rfl (by rw [config]) k ?_
    cases k <;> first | exact mode | exact skew | exact low | exact hk rfl | trivial
  have run : s.takeBoarding i c c2 =
      if (u.lane i).live.stale = (s.lane i).live.stale then u else u.evaluate (u.laneRoute .laneStale i) := onOpenDay_open hd _
  rw [run]
  split
  · next same =>
    refine ⟨.refl u, ?_⟩
    refine touched_reportsFollow (u := u) (given := fun _ => []) (ds := []) (fun d h => ?_) rfl (fun _ => rfl) (fun j k hk _ => ?_) rfl rfl
      (fun j => by rw [(lanes j).1]) rfl
    · simp [mem_touched] at h
    · refine pending j k hk fun _ => ?_
      by_cases e : j = i
      · rw [e]; exact same
      · exact (lanes j).2.2.2.2 e
  · refine ⟨evaluate_onlyReports .., ?_⟩
    refine touched_reportsFollow (u := u) (given := fun j => if j = i then [.laneStale] else []) (ds := [_]) (fun d h => ?_) rfl
      (fun _ => rfl) (fun j k hk hn => pending j k hk fun e => ?_) rfl rfl (fun j => by rw [(lanes j).1]) rfl
    · obtain ⟨j, k, hk, rfl⟩ := mem_touched.1 h
      split at hk
      · next e => rw [e, List.mem_singleton.1 hk]; exact List.mem_singleton.2 rfl
      · cases hk
    · refine (lanes j).2.2.2.2 fun e' => hn ?_
      rw [if_pos e', e]
      exact List.mem_singleton.2 rfl

/-- A lane action for an unused lane grows the unmapped counter alone (R1). -/
theorem takeAction_unused {s : State} (hs : s.Serving) {i : Fin 64} (h : (s.lane i).config.ride = 0) (a : ScanAction)
    (f : State → State) : takeAction a s (fun s => s.onLaneInUse i f) =
      .next { s.atAction a with counters := { s.counters with unmapped := min 65535 (s.counters.unmapped + 1) } } := by
  rw [takeAction_serving hs]
  exact congrArg _ (onLaneInUse_unused (s := s.atAction a) h f)

/-- Settles O26: the gates in turn, and a boarding's counts with the report of LANE_STALE. -/
theorem countBoardingCounts : Obligations.CountBoardingCounts := by
  refine ⟨fun s i c c2 hs hr hd => ?_, fun s i c c2 hs hr hd => ?_, fun s i hs hr => ?_⟩
  · refine ⟨(s.atAction (.countBoarding i c c2)).takeBoarding i c c2, ?_, ?_⟩
    · rw [exec, execCountBoarding, takeAction_serving hs, onLaneInUse_used (s := s.atAction _) hr]
    · have h := takeBoarding_open (s := s.atAction (.countBoarding i c c2)) hd i c c2
      rw [LaneLive.countBoarding_eq] at h
      exact h
  · rw [exec, execCountBoarding, takeAction_serving hs, onLaneInUse_used (s := s.atAction _) hr]
    exact congrArg _ (onOpenDay_shut (s := s.atAction _) hd _)
  · exact ⟨fun _ _ => takeAction_unused hs hr _ _, fun _ _ _ => takeAction_unused hs hr _ _,
      fun _ _ _ _ => takeAction_unused hs hr _ _, fun _ => takeAction_unused hs hr _ _⟩

/-! ## Ride status (R16 to R18) -/

/-- An UP restarts a DOWN lane into its auto-restart mode (R18). -/
theorem autoRestart_eq (s : State) (i : Fin 64) : s.autoRestart i =
    if (s.lane i).live.mode = .down ∧ (s.lane i).config.autoRestart = .run then s.changeMode i .run false
    else if (s.lane i).live.mode = .down ∧ (s.lane i).config.autoRestart = .passOnly then s.changeMode i .passOnly false
    else if (s.lane i).live.mode = .down ∧ (s.lane i).config.autoRestart = .standbyOnly then s.changeMode i .standbyOnly false
    else s := by
  unfold State.autoRestart
  by_cases hm : (s.lane i).live.mode = .down
  · cases h : (s.lane i).config.autoRestart <;> simp [AutoRestart.target, hm, h]
  · cases h : (s.lane i).config.autoRestart <;> simp [AutoRestart.target, hm, h]

theorem recordStatus_lane (s : State) (i : Fin 64) (r : RideStatus) :
    (s.recordStatus i r).lane i = { s.lane i with live := { (s.lane i).live with lastStatus := some r } } :=
  setLane_lane_same ..

theorem rideStatusOfCode_other {status : Nat} (h1 : status ≠ 1) (h2 : status ≠ 2) : rideStatusOfCode status = none := by
  unfold rideStatusOfCode
  split <;> simp_all

/-- Settles O27: the status decides, and an auto-down or auto-restart reads the lane as it was. -/
theorem rideStatusIsTaken : Obligations.RideStatusIsTaken := by
  intro s i status hs hr
  rw [exec, execRideStatus, takeAction_serving hs, onLaneInUse_used (s := s.atAction _) hr]
  dsimp only
  congr 1
  by_cases h1 : status = 1
  · subst h1
    rw [if_pos rfl]
    refine (autoRestart_eq ((s.atAction (.rideStatus i 1)).recordStatus i .up) i).trans ?_
    rw [recordStatus_lane]
    rfl
  · rw [if_neg h1]
    by_cases h2 : status = 2
    · subst h2
      rw [if_pos rfl]
      show ((s.atAction (.rideStatus i 2)).recordStatus i .fault).autoDown i = _
      unfold State.autoDown
      dsimp only
      rw [recordStatus_lane]
      simp only [Bool.and_eq_true]
      rfl
    · rw [if_neg h2, State.takeRideStatus, rideStatusOfCode_other h1 h2]
      rfl

end Sys2Proof.Machine
end

section
/-! Changes of mode: what each leaves of the lane, what it publishes, and the reports that follow. -/

namespace Sys2Proof.Machine

/-! ## The lane's own change (R9 to R15) -/

theorem Lane.changeMode_same {l : Lane} (e : Bool) (n : Nat) : l.changeMode l.live.mode e n = none := if_pos rfl

theorem LaneMode.isOpen_iff {m : LaneMode} : m.isOpen = true ↔ m = .run ∨ m = .passOnly ∨ m = .standbyOnly := by
  cases m <;> simp [LaneMode.isOpen]

theorem Lane.changeMode_opening {l : Lane} {m : LaneMode} (h : l.live.mode = .closed) (hm : m.isOpen = true) (e : Bool) (n : Nat) :
    l.changeMode m e n = some (l.opening m, true) := by
  unfold Lane.changeMode
  rcases LaneMode.isOpen_iff.1 hm with rfl | rfl | rfl <;> rw [h] <;> rfl

theorem Lane.changeMode_moved {l : Lane} {m : LaneMode} (h : l.live.mode.isOpen = true) (hm : m.isOpen = true) (hn : m ≠ l.live.mode)
    (e : Bool) (n : Nat) : l.changeMode m e n = some (l.moved m, false) := by
  unfold Lane.changeMode
  rw [if_neg hn]
  rcases LaneMode.isOpen_iff.1 h with h | h | h <;> rcases LaneMode.isOpen_iff.1 hm with rfl | rfl | rfl <;> rw [h]

theorem Lane.changeMode_closing {l : Lane} (h : l.live.mode ≠ .closed) (e : Bool) (n : Nat) :
    l.changeMode .closed e n = some (l.closing, true) := by
  unfold Lane.changeMode
  rw [if_neg (Ne.symm h)]
  split <;> simp_all

theorem Lane.changeMode_down {l : Lane} (h : l.live.mode.isOpen = true) (e : Bool) (n : Nat) :
    l.changeMode .down e n = some (l.downEntry n, true) := by
  unfold Lane.changeMode
  rcases LaneMode.isOpen_iff.1 h with h | h | h <;> rw [h] <;> rfl

theorem Lane.changeMode_restart {l : Lane} {m : LaneMode} (h : l.live.mode = .down) (hm : m.isOpen = true) (e : Bool) (n : Nat) :
    l.changeMode m e n = some (l.restart m e, true) := by
  unfold Lane.changeMode
  rcases LaneMode.isOpen_iff.1 hm with rfl | rfl | rfl <;> rw [h] <;> rfl

/-- A change of mode ends in the mode asked for, and touches neither configuration nor COUNT_SKEW. -/
theorem Lane.changeMode_some {l l' : Lane} {m : LaneMode} {e b : Bool} {n : Nat} (h : l.changeMode m e n = some (l', b)) :
    l'.live.mode = m ∧ l'.config = l.config ∧ l'.countSkew = l.countSkew := by
  unfold Lane.changeMode at h
  split at h
  · cases h
  · split at h <;> cases h
    all_goals exact ⟨rfl, rfl, rfl⟩

/-- No change is made for the mode that stands, and for CLOSED to DOWN (R9, R15). -/
theorem Lane.changeMode_none {l : Lane} {m : LaneMode} {e : Bool} {n : Nat} (h : l.changeMode m e n = none) :
    l.live.mode = m ∨ (l.live.mode = .closed ∧ m = .down) := by
  unfold Lane.changeMode at h
  split at h
  · next hm => exact .inl hm.symm
  · split at h <;> simp_all

/-- GRANT_LOW in the terms of R53. -/
theorem Lane.grantLowHolds_eq (l : Lane) (n : Nat) : l.grantLowHolds n =
    (decide (l.live.mode = .run ∨ l.live.mode = .passOnly) && decide (l.config.ride ≠ 0) && decide (l.config.grantLowMark ≠ 0) &&
      decide (l.futureSeats n < l.config.grantLowMark)) := by
  unfold Lane.grantLowHolds Lane.inUse
  cases l.live.mode <;> simp <;> rfl

/-- The seats of the FUTURE windows are those of the windows that start later. -/
theorem Lane.futureSeats_eq (l : Lane) (n : Nat) : l.futureSeats n =
    ((l.windows.filter fun w => decide (n < w.start)).map fun w => w.capacity - w.issued).sum := by
  unfold Lane.futureSeats
  congr 2
  refine List.filter_congr fun w _ => ?_
  rw [Bool.eq_iff_iff, beq_iff_eq, decide_eq_true_iff, Window.state_future]

/-! ## What is published (R130 to R132, R135) -/

theorem Lane.displayKind_closed {l : Lane} (hu : l.config.ride ≠ 0) (h : l.live.mode = .closed) : l.displayKind true = .closed := by
  simp [Lane.displayKind, Lane.inUse_eq_true.2 hu, h]

theorem Lane.displayKind_down {l : Lane} (hu : l.config.ride ≠ 0) (h : l.live.mode = .down) : l.displayKind true = .down := by
  simp [Lane.displayKind, Lane.inUse_eq_true.2 hu, h]

theorem Lane.displayKind_open {l : Lane} (hu : l.config.ride ≠ 0) (h : l.live.mode.isOpen = true) (hs : l.live.stale = false) :
    l.displayKind true = if l.live.mode = .passOnly then .passOnly else .wait := by
  rcases LaneMode.isOpen_iff.1 h with hm | hm | hm <;> simp [Lane.displayKind, Lane.inUse_eq_true.2 hu, hm, hs]

/-- The next return of an open lane that is not stale (R131, R132). -/
theorem Lane.shownNext_open {l : Lane} (hu : l.config.ride ≠ 0) (h : l.live.mode.isOpen = true) (hs : l.live.stale = false)
    (offset n : Nat) : l.shownNext (l.displayKind true) offset n =
      if l.live.mode = .standbyOnly then .absent else l.nextReturn offset n := by
  rw [Lane.displayKind_open hu h hs]
  rcases LaneMode.isOpen_iff.1 h with hm | hm | hm <;> simp [Lane.shownNext, hm]

/-- The search looks at configuration, mode, raw wait and windows alone. -/
theorem Lane.findWindow_congr {l m : Lane} (hc : m.config = l.config) (hl : m.live = l.live) (hw : m.windows = l.windows) (n party : Nat) :
    m.findWindow n party = l.findWindow n party := by
  unfold Lane.findWindow Lane.searchFrom Lane.issuanceTarget
  rw [hc, hl, hw]

/-- An immediate publish calls for one run of offers at each port where the lane has an enabled line (R135, R138). -/
theorem singleton_runs (s : State) (i : Fin 64) (p : Port) :
    ((List.finRange 64).filter fun j => (j == i) && s.hasLine j p).length = if s.hasLine i p = true then 1 else 0 := by
  have only : (List.finRange 64).filter (fun j => j == i) = [i] := by revert i; decide
  have order : (List.finRange 64).filter (fun j => (j == i) && s.hasLine j p) =
      ((List.finRange 64).filter fun j => j == i).filter fun j => s.hasLine j p := by
    rw [List.filter_filter]
    exact List.filter_congr fun j _ => Bool.and_comm ..
  rw [order, only]
  cases h : s.hasLine i p <;> simp [h]

/-! ## The change in the state -/

/-- The reports follow the change of a lane's conditions by a change of mode (R8, R160). -/
theorem changeMode_touched {s u : State} {i : Fin 64} {l : Lane} (hl : l.config = (s.lane i).config)
    (hk : l.countSkew = (s.lane i).countSkew) (lane : ∃ p, u.lane i = { l with publish := p })
    (others : ∀ j, j ≠ i → u.lane j = s.lane j)
    (frame : u = { s with lanes := u.lanes, lines := u.lines, ports := u.ports }) (ht : ∀ d, (u.port d).tx = (s.port d).tx) :
    s.ReportsFollow (u.evaluateEach
      (u.touched fun j => if j = i then [.laneDown, .laneStale] ++ changedGrantLow (s.lane i) l else [])) := by
  obtain ⟨p, lane⟩ := lane
  have rides : ∀ j, (u.lane j).config.ride = (s.lane j).config.ride := fun j => by
    by_cases e : j = i
    · subst e; rw [lane, hl]
    · rw [others j e]
  have day : u.dayOpen = s.dayOpen := (congrArg State.dayOpen frame :)
  refine touched_reportsFollow (fun _ => id) (congrArg State.attn frame :) ht (fun j k hkind hn => ?_)
    (congrArg State.segments frame :) (congrArg State.park frame :) rides (congrArg (·.ring.headHeld) frame :)
  by_cases e : j = i
  · subst e
    rw [if_pos rfl] at hn
    refine laneKindPending_congr day (rides j) k ?_
    cases k with
    | laneDown | laneStale => simp at hn
    | countSkew => rw [lane]; exact hk
    | grantLow =>
      rw [lane]
      by_contra h
      refine hn ?_
      rw [changedGrantLow, if_neg (Ne.symm h)]
      simp
    | _ => trivial
  · refine laneKindPending_congr day (rides j) k ?_
    rw [others j e]
    cases k <;> first | rfl | trivial

theorem oweBoardRuns_tx (s : State) (p : Port) (n : Nat) (d : Port) : ((s.oweBoardRuns p n).port d).tx = (s.port d).tx := by
  unfold State.oweBoardRuns
  split
  · rw [setPort_port]
    split
    · next e => rw [e]
    · rfl
  · rfl

theorem oweRuns_tx (s : State) (runs : Port → Nat) (d : Port) : ((s.oweRuns runs).port d).tx = (s.port d).tx := by
  unfold State.oweRuns
  generalize allPorts = ps
  induction ps generalizing s with
  | nil => rfl
  | cons p ps ih => exact (ih _).trans (oweBoardRuns_tx ..)

theorem publishLane_tx (s : State) (i : Fin 64) (n : Nat) (d : Port) : ((s.publishLane i n).port d).tx = (s.port d).tx := by
  rw [State.publishLane, State.markPublished, oweRuns_tx]
  rfl

/-- The state with other ports and attention slots: what a re-evaluation of reports can change (R164, R165). -/
def State.withReports (ports : Vector PortState 7) (slots : Vector AttnPort 7) (s : State) : State :=
  { s with ports := ports, attn := { s.attn with ports := slots } }

/-- The state a change of mode has reached before the reports are re-evaluated (R10 to R14, R134). -/
def State.modeSet (s : State) (i : Fin 64) (l : Lane) (publishes : Bool) : State :=
  if publishes then (s.setLane i l).publishLane i s.minute else s.setLane i l

theorem changeMode_eq {s : State} {i : Fin 64} {m : LaneMode} {e b : Bool} {l : Lane}
    (h : (s.lane i).changeMode m e s.minute = some (l, b)) : s.changeMode i m e =
      let u := s.modeSet i (l.evaluateGrantLow s.minute) b
      u.evaluateEach (u.touched fun j => if j = i then
        [.laneDown, .laneStale] ++ changedGrantLow (s.lane i) (l.evaluateGrantLow s.minute) else []) := by
  unfold State.changeMode
  rw [h]
  rfl

theorem publishLane_lane (s : State) (i : Fin 64) (n : Nat) (j : Fin 64) : (s.publishLane i n).lane j =
    if j = i then (s.lane i).published s.dayOpen s.clock.dayOffset n else s.lane j := by
  unfold State.publishLane
  rw [State.lane, markPublished_lanes]
  exact setLane_lane ..

/-- The content that a publish state gives the lines of its lane (R131). -/
def PublishState.content (p : PublishState) : LineContent := contentOf p.kind p.lastPublished p.next

/-- A publish marks the enabled lines of the lane with the content just published, on an OPEN day and for a lane in use (R129, R135). -/
theorem publishLane_lines {s : State} {i : Fin 64} (n : Nat) (hd : s.clock.day = .opened) (hu : (s.lane i).config.ride ≠ 0)
    (j : Fin 192) : (s.publishLane i n).lines.get j =
      if (s.lines.get j).enable = true ∧ (s.lines.get j).lane = i then
        { s.lines.get j with pending := some ((s.lane i).published s.dayOpen s.clock.dayOffset n).publish.content }
      else s.lines.get j := by
  have content : ∀ b : BoardLine, b.lane = i →
      (s.setLane i ((s.lane i).published s.dayOpen s.clock.dayOffset n)).lineContent b =
        ((s.lane i).published s.dayOpen s.clock.dayOffset n).publish.content := by
    rintro b rfl
    rw [State.lineContent, setLane_lane_same]
    refine if_pos ?_
    rw [setLane_dayOpen, State.dayOpen_eq_true.2 hd, Bool.true_and]
    exact Lane.inUse_eq_true.2 hu
  rw [State.publishLane, State.markPublished, oweRuns_lines, State.markLines, get_tabulate]
  by_cases h : (s.lines.get j).enable = true ∧ (s.lines.get j).lane = i
  · have picked : ((s.lines.get j).enable && (s.lines.get j).lane == i) = true := by simpa using h
    rw [if_pos h, ← content _ h.2]
    exact if_pos picked
  · have left : ¬ ((s.lines.get j).enable && (s.lines.get j).lane == i) = true := by simpa using h
    rw [if_neg h]
    exact if_neg left

/-- The state of a published change, before the reports: one lane changed and published, and its lines marked. -/
theorem modeSet_published {s : State} {i : Fin 64} {l : Lane} (hd : s.clock.day = .opened) (hu : l.config.ride ≠ 0) :
    let u := s.modeSet i l true
    u.lane i = l.published true s.clock.dayOffset s.minute ∧ (∀ j, j ≠ i → u.lane j = s.lane j) ∧ s.LinesPublished u i ∧
      u = { s with lanes := u.lanes, lines := u.lines, ports := u.ports } ∧ s.PortsKept u ∧
      s.RunsOwed u fun p => if s.hasLine i p = true then 1 else 0 := by
  intro u
  have lane : u.lane i = l.published true s.clock.dayOffset s.minute := by
    show ((s.setLane i l).publishLane i s.minute).lane i = _
    rw [publishLane_lane, if_pos rfl, setLane_lane_same, setLane_dayOpen, State.dayOpen_eq_true.2 hd]
    rfl
  refine ⟨lane, fun j e => ?_, fun j => ?_, ?_, ?_, fun p => ?_⟩
  · show ((s.setLane i l).publishLane i s.minute).lane j = _
    rw [publishLane_lane, if_neg e, setLane_lane_other _ _ e]
  · rw [lane]
    have := publishLane_lines (s := s.setLane i l) (i := i) s.minute hd (by rw [setLane_lane_same]; exact hu) j
    rw [setLane_lane_same, setLane_dayOpen, State.dayOpen_eq_true.2 hd] at this
    exact this
  · exact (s.setLane i l).publishLane_frame i s.minute
  · exact State.PortsKept.trans (t := s.setLane i l) (.of_ports rfl) (publishLane_portsKept _ i s.minute)
  · have := markPublished_runsOwed ((s.setLane i l).setLane i
      (((s.setLane i l).lane i).published (s.setLane i l).dayOpen (s.setLane i l).clock.dayOffset s.minute)) (fun j => j == i) p
    dsimp only at this
    rw [singleton_runs] at this
    rw [setLane_linkUp, setLane_linkUp] at this
    exact this

/-- What a published change leaves: the one lane changed, its lines marked, a run of offers owed to each UP port of them, and the reports
following (R8, R134, R135, R138, R164). -/
structure State.PublishedAs (s t : State) (i : Fin 64) (l : Lane) : Prop where
  lane : t.lane i = l
  others : ∀ j, j ≠ i → t.lane j = s.lane j
  lines : s.LinesPublished t i
  frame : t = { s with lanes := t.lanes, lines := t.lines, ports := t.ports, attn := { s.attn with ports := t.attn.ports } }
  ports : s.PortsKept t
  reports : s.ReportsFollow t
  runs : s.RunsOwed t fun p => if s.hasLine i p = true then 1 else 0

/-- A change of mode that publishes, on an OPEN day and for a lane in use. -/
theorem changeMode_published {s : State} {i : Fin 64} {m : LaneMode} {e : Bool} {l : Lane} (hd : s.clock.day = .opened)
    (hu : (s.lane i).config.ride ≠ 0) (h : (s.lane i).changeMode m e s.minute = some (l, true)) :
    s.PublishedAs (s.changeMode i m e) i ((l.evaluateGrantLow s.minute).published true s.clock.dayOffset s.minute) := by
  obtain ⟨-, hc, hk⟩ := Lane.changeMode_some h
  obtain ⟨lane, others, lines, frame, ports, runs⟩ :=
    modeSet_published (s := s) (i := i) (l := l.evaluateGrantLow s.minute) hd (by rw [Lane.evaluateGrantLow, hc]; exact hu)
  have follow := changeMode_touched (l := l.evaluateGrantLow s.minute) hc hk ⟨_, lane⟩ others frame
    (publishLane_tx (s.setLane i _) i s.minute)
  rw [changeMode_eq h]
  dsimp only
  revert follow
  generalize s.modeSet i (l.evaluateGrantLow s.minute) true = u at *
  generalize u.touched _ = ds
  intro follow
  have same : ∀ j, (u.evaluateEach ds).lane j = u.lane j := fun j => by rw [State.lane, State.lane, evaluateEach_lanes]
  refine ⟨by rw [same, lane], fun j e => by rw [same, others j e], fun j => ?_, ?_, ports.trans (evaluateEach_portsKept u ds), follow,
    fun p => ?_⟩
  · rw [evaluateEach_lines, same]
    exact lines j
  · rw [evaluateEach_lanes, evaluateEach_lines]
    exact Eq.trans (u.evaluateEach_frame ds) (congrArg (State.withReports (u.evaluateEach ds).ports (u.evaluateEach ds).attn.ports) frame :)
  · rw [evaluateEach_boardRuns]
    exact runs p

end Sys2Proof.Machine
end

section
/-! The changes of mode of R10 to R14. -/

namespace Sys2Proof.Machine

/-- What a publish at once leaves of an open lane that is not stale (R131, R132, R135). -/
theorem Lane.published_open {l : Lane} (hu : l.config.ride ≠ 0) (h : l.live.mode.isOpen = true) (hs : l.live.stale = false)
    (offset n : Nat) : (l.published true offset n).publish =
      ⟨if l.live.mode = .passOnly then .passOnly else .wait, l.live.posted,
        if l.live.mode = .standbyOnly then .absent else (l.published true offset n).nextReturn offset n, 0⟩ := by
  have next : (l.published true offset n).nextReturn offset n = l.nextReturn offset n := by
    unfold Lane.nextReturn
    rw [Lane.findWindow_congr (m := l.published true offset n) (l := l) rfl rfl rfl]
  rw [next, ← Lane.shownNext_open hu h hs, ← Lane.displayKind_open hu h hs]
  rfl

/-- GRANT_LOW of a lane in use, its free seats written out (R53). -/
theorem Lane.grantLowHolds_used {l : Lane} (hu : l.config.ride ≠ 0) (n : Nat) : l.grantLowHolds n =
    (decide (l.live.mode = .run ∨ l.live.mode = .passOnly) && decide (l.config.grantLowMark ≠ 0) &&
      decide (((l.windows.filter fun w => decide (n < w.start)).map fun w => w.capacity - w.issued).sum < l.config.grantLowMark)) := by
  rw [Lane.grantLowHolds_eq, decide_eq_true hu, Bool.and_true, Lane.futureSeats_eq]

/-- Down entry marks the windows that have started, and no other (R48). -/
theorem Lane.protectRunning_eq (l : Lane) (n : Nat) : l.protectRunning n =
    l.windows.map fun w => if w.start ≤ n then { w with marked := true } else w := by
  refine List.map_congr_left fun w _ => ?_
  by_cases h : n < w.start
  · rw [if_pos (Window.state_future.2 h), if_neg (by omega)]
  · rw [if_neg (mt Window.state_future.1 h), if_pos (by omega)]

/-- A move among open modes, its lane put in place and its reports re-evaluated (R8, R11). -/
theorem changeMode_move {s : State} {i : Fin 64} {m : LaneMode} (e : Bool) (h : (s.lane i).live.mode.isOpen = true)
    (hm : m.isOpen = true) (hn : m ≠ (s.lane i).live.mode) :
    State.OnlyReports (s.setLane i (((s.lane i).moved m).evaluateGrantLow s.minute)) (s.changeMode i m e) ∧
      s.ReportsFollow (s.changeMode i m e) := by
  rw [changeMode_eq (Lane.changeMode_moved h hm hn e s.minute)]
  have lane := setLane_lane_same s i (((s.lane i).moved m).evaluateGrantLow s.minute)
  exact ⟨evaluateEach_onlyReports _ _, changeMode_touched (l := ((s.lane i).moved m).evaluateGrantLow s.minute) rfl rfl
    ⟨_, lane⟩ (fun j e => setLane_lane_other _ _ e) rfl (fun _ => rfl)⟩

/-- Settles O30: the change of mode for the two pairs of modes, with what a publish leaves of an open lane. -/
theorem openingAndMoving : Obligations.OpeningAndMoving := by
  refine ⟨fun s i m e hd hu h hm => ?_, fun s i m e h hm hn => ?_⟩
  · intro t free
    have done := changeMode_published hd hu (Lane.changeMode_opening h hm e s.minute)
    refine ⟨?_, ?_, ?_, ?_, ?_, ?_, done.others, done.lines, done.frame, done.ports, done.reports, done.runs⟩
    · rw [done.lane]; rfl
    · rw [done.lane]; rfl
    · rw [done.lane]; rfl
    · rw [done.lane]; rfl
    · rw [done.lane]
      exact Lane.grantLowHolds_used (l := (s.lane i).opening m) hu s.minute
    · rw [done.lane]
      exact Lane.published_open (l := ((s.lane i).opening m).evaluateGrantLow s.minute) hu hm rfl s.clock.dayOffset s.minute
  · obtain ⟨only, follow⟩ := changeMode_move e h hm hn
    have low := Lane.grantLowHolds_eq ((s.lane i).moved m) s.minute
    refine ⟨?_, follow⟩
    rw [Lane.evaluateGrantLow, low] at only
    exact only

/-- Settles O31: closing and down entry, in whose modes GRANT_LOW cannot hold and the content has no next return. -/
theorem stoppingKeepsTheEstimate : Obligations.StoppingKeepsTheEstimate := by
  rintro s i m e hd hu (⟨rfl, h⟩ | ⟨rfl, h⟩)
  · intro t
    have done := changeMode_published hd hu (Lane.changeMode_closing h e s.minute)
    refine ⟨?_, ?_, ?_, ?_, ?_, ?_, done.others, done.lines, done.frame, done.ports, done.reports, done.runs⟩
    · rw [done.lane]; rfl
    · rw [done.lane]; rfl
    · rw [done.lane]; rfl
    · rw [done.lane]
      exact Lane.grantLowHolds_used (l := (s.lane i).closing) hu s.minute
    · rw [done.lane]
      exact (List.map_id _).symm
    · rw [done.lane, Lane.published, Lane.displayKind_closed (l := (s.lane i).closing.evaluateGrantLow s.minute) hu rfl]
      rfl
  · intro t
    have done := changeMode_published hd hu (Lane.changeMode_down h e s.minute)
    refine ⟨?_, ?_, ?_, ?_, ?_, ?_, done.others, done.lines, done.frame, done.ports, done.reports, done.runs⟩
    · rw [done.lane]; rfl
    · rw [done.lane]; rfl
    · rw [done.lane]; rfl
    · rw [done.lane]
      exact Lane.grantLowHolds_used (l := (s.lane i).downEntry s.minute) hu s.minute
    · rw [done.lane]
      refine (Lane.protectRunning_eq (s.lane i) s.minute).trans (List.map_congr_left fun w _ => ?_)
      rw [if_congr (and_iff_right rfl) rfl rfl]
      rfl
    · rw [done.lane, Lane.published, Lane.displayKind_down (l := ((s.lane i).downEntry s.minute).evaluateGrantLow s.minute) hu rfl]
      rfl

/-- Settles O32: a restart leaves an open lane that is not stale, whose wait R35 gives. -/
theorem restartResumesService : Obligations.RestartResumesService := by
  intro s i m e hd hu h hm t l warm q rate wRaw free
  have done := changeMode_published hd hu (Lane.changeMode_restart h hm e s.minute)
  refine ⟨?_, ?_, ?_, ?_, ?_, ?_, done.others, done.lines, done.frame, done.ports, done.reports, done.runs⟩
  · rw [done.lane]; rfl
  · rw [done.lane]; rfl
  · rw [done.lane]; rfl
  · rw [done.lane]; rfl
  · rw [done.lane]
    exact Lane.grantLowHolds_used (l := (s.lane i).restart m e) hu s.minute
  · rw [done.lane]
    exact Lane.published_open (l := ((s.lane i).restart m e).evaluateGrantLow s.minute) hu hm rfl s.clock.dayOffset s.minute

end Sys2Proof.Machine
end

section
/-! What a request's arguments say, how a refusal is answered, and SET_MODE. -/

namespace Sys2Proof.Machine

/-! ## Requests carried out and refused -/

theorem takeRequest_answered {s t : State} {req : MgmtRequest} {f : State → Carried} {st : Status} {content : List Byte} {e : Bool}
    (h : s.TakesRequest req) (hf : f s.atRequest = ⟨t, st, content, e⟩) : takeRequest req s f = .next (t.reply req st content e) := by
  rw [takeRequest_takes h, hf]

theorem takeRequest_refused {s : State} {req : MgmtRequest} {f : State → Carried} {st : Status} {content : List Byte}
    (h : s.TakesRequest req) (hf : f s.atRequest = refuse s.atRequest st content) :
    takeRequest req s f = .next (s.atRequest.reply req st content false) :=
  takeRequest_answered h hf

/-! ## Fields of the arguments -/

theorem fieldAt_drop (bs : List Byte) (k p w : Nat) : fieldAt (bs.drop k) p w = fieldAt bs (k + p) w := by
  rw [fieldAt, fieldAt, List.drop_drop]

/-- Only 16 bits of a value are sent. -/
theorem le16_mod (n : Nat) : le16 (n % 65536) = le16 n := by
  simp only [le16, List.cons.injEq, and_true]
  constructor <;> refine BitVec.eq_of_toNat_eq ?_ <;> rw [byteOf_toNat, byteOf_toNat] <;> omega

/-- The grants of a POST_GRANTS, by their places in the arguments (R55, R197). -/
theorem parseGrants_eq {n : Nat} : ∀ {bs : List Byte}, bs.length = 4 * n → parseGrants bs =
    (List.range n).map fun g => (fieldAt bs (4 * g) 1, fieldAt bs (4 * g + 1) 2, signed8 (fieldAt bs (4 * g + 3) 1)) := by
  induction n with
  | zero => intro bs h; rw [List.length_eq_zero_iff.1 h]; rfl
  | succ n ih =>
    intro bs h
    obtain ⟨l, m0, m1, d, rest, rfl⟩ : ∃ l m0 m1 d rest, bs = l :: m0 :: m1 :: d :: rest := by
      match bs, h with
      | l :: m0 :: m1 :: d :: rest, _ => exact ⟨l, m0, m1, d, rest, rfl⟩
    have shift : ∀ p w, fieldAt rest p w = fieldAt (l :: m0 :: m1 :: d :: rest) (4 + p) w := fieldAt_drop (l :: m0 :: m1 :: d :: rest) 4
    rw [parseGrants, ih (by simpa [Nat.mul_add] using h), List.range_succ_eq_map, List.map_cons, List.map_map]
    refine List.cons_eq_cons.2 ⟨?_, List.map_congr_left fun g _ => ?_⟩
    · simp [fieldAt, fromLe]
    simp [shift, Nat.mul_add, Nat.add_comm, Nat.add_left_comm]

/-- Some grant has a property exactly when the one at some place has it. -/
theorem parseGrants_any {bs : List Byte} {n : Nat} (h : bs.length = 4 * n) (bad : Nat → Nat → Bool) :
    ((parseGrants bs).any fun g => bad g.1 g.2.1) = true ↔ ∃ g, g < n ∧ bad (fieldAt bs (4 * g) 1) (fieldAt bs (4 * g + 1) 2) = true := by
  rw [parseGrants_eq h]
  simp

/-- The arguments of a WRITE_TABLE (R179, R197). -/
def writeArgs (number : Byte) (index : Nat) (pairs : List (Nat × Nat)) : List Byte :=
  [number] ++ le16 index ++ [byteOf pairs.length] ++ pairs.flatMap fun p => byteOf p.1 :: le16 p.2

theorem parsePairs_flatMap {pairs : List (Nat × Nat)} (h : ∀ p ∈ pairs, p.1 < 256 ∧ p.2 < 65536) :
    parsePairs (pairs.flatMap fun p => byteOf p.1 :: le16 p.2) = pairs := by
  induction pairs with
  | nil => rfl
  | cons p ps ih =>
    obtain ⟨⟨hf, hv⟩, hps⟩ := List.forall_mem_cons.1 h
    have value : (byteOf p.2).toNat + 256 * (byteOf (p.2 / 256)).toNat = p.2 := by rw [byteOf_toNat, byteOf_toNat]; omega
    simp only [List.flatMap_cons, le16, List.cons_append, List.nil_append, parsePairs, byteOf_toNat_of_lt hf, value]
    rw [show (List.flatMap (fun p => [byteOf p.1, byteOf p.2, byteOf (p.2 / 256)]) ps) =
      ps.flatMap fun p => byteOf p.1 :: le16 p.2 from rfl, ih hps]

theorem writeArgs_length (number : Byte) (index : Nat) (pairs : List (Nat × Nat)) :
    (writeArgs number index pairs).length = 4 + 3 * pairs.length := by
  simp [writeArgs, le16, List.length_flatMap]
  omega

section
variable (s : State) (number : Byte) {index : Nat} {pairs : List (Nat × Nat)} (hi : index < 65536) (h1 : 1 ≤ pairs.length)
  (h12 : pairs.length ≤ 12) (hp : ∀ p ∈ pairs, p.1 < 256 ∧ p.2 < 65536)

theorem writeArgs_number (index : Nat) (pairs : List (Nat × Nat)) : fieldAt (writeArgs number index pairs) 0 1 = number.toNat :=
  fieldAt_byte ..

include hi in
theorem writeArgs_index (pairs : List (Nat × Nat)) : fieldAt (writeArgs number index pairs) 1 2 = index := fromLe_le16 hi

include h12 in
theorem writeArgs_count (index : Nat) : fieldAt (writeArgs number index pairs) 3 1 = pairs.length :=
  (fieldAt_byte ..).trans (byteOf_toNat_of_lt (by omega))

include hp in
theorem writeArgs_pairs (index : Nat) : parsePairs ((writeArgs number index pairs).drop 4) = pairs := parsePairs_flatMap hp

theorem writeContent_args (index : Nat) (pairs : List (Nat × Nat)) (n : Nat) (j : Option Nat) :
    writeContent (writeArgs number index pairs) n j = [number] ++ le16 index ++ [byteOf n, byteOf (j.getD 0xFF)] := by
  rw [writeContent, writeArgs_length, if_pos (by omega)]
  rfl

include hi h1 h12 hp

/-- WRITE_TABLE answers what the table makes of the pairs (R179). -/
theorem carryWriteTable_refused {st : Status} {pair : Option Nat} (h : s.writeTable number.toNat index pairs = .refused st pair) :
    carryWriteTable (writeArgs number index pairs) s = refuse s st ([number] ++ le16 index ++ [0, byteOf (pair.getD 0xFF)]) := by
  unfold carryWriteTable
  dsimp only
  rw [writeArgs_count number h12, writeArgs_number, writeArgs_index number hi, writeArgs_pairs number hp, writeArgs_length,
    if_neg (by omega), h]
  exact congrArg (refuse s st) (writeContent_args number index pairs 0 pair)

theorem carryWriteTable_accepted {t : State} {legalized : Bool} (h : s.writeTable number.toNat index pairs = .accepted t legalized) :
    carryWriteTable (writeArgs number index pairs) s =
      ⟨t, if legalized then .okLegalized else .ok, [number] ++ le16 index ++ [byteOf pairs.length, 0xFF], false⟩ := by
  unfold carryWriteTable
  dsimp only
  rw [writeArgs_count number h12, writeArgs_number, writeArgs_index number hi, writeArgs_pairs number hp, writeArgs_length,
    if_neg (by omega), h]
  dsimp only
  rw [writeContent_args]
  rfl

end

/-! ## SET_MODE (R9) -/

theorem modeOfCode_modeCode (m : LaneMode) : modeOfCode (modeCode m) = some m := by cases m <;> rfl

theorem modeCode_lt (m : LaneMode) : modeCode m < 256 := by cases m <;> decide

theorem changeMode_same {s : State} {i : Fin 64} {m : LaneMode} (h : (s.lane i).live.mode = m) (e : Bool) : s.changeMode i m e = s := by
  unfold State.changeMode
  rw [← h, Lane.changeMode_same]

/-- Every change of mode reaches the mode asked for, but for CLOSED to DOWN (R9, R15). -/
theorem changeMode_reaches {s : State} {i : Fin 64} {m : LaneMode} (e : Bool) (h : ¬ ((s.lane i).live.mode = .closed ∧ m = .down)) :
    ((s.changeMode i m e).lane i).live.mode = m := by
  cases hc : (s.lane i).changeMode m e s.minute with
  | none =>
    have same := (Lane.changeMode_none hc).resolve_right h
    rw [changeMode_same same, same]
  | some c =>
    obtain ⟨l, b⟩ := c
    obtain ⟨mode, -, -⟩ := Lane.changeMode_some hc
    rw [changeMode_eq hc, State.lane, evaluateEach_lanes]
    cases b with
    | true =>
      show (((s.setLane i _).publishLane i s.minute).lane i).live.mode = m
      rw [publishLane_lane, if_pos rfl, setLane_lane_same]
      exact mode
    | false =>
      show ((s.setLane i _).lane i).live.mode = m
      rw [setLane_lane_same]
      exact mode

section
variable {u : State} {args : List Byte} {i : Fin 64} (hl : args.length = 3) (hi : fieldAt args 0 1 = i.val)
include hl hi

/-- SET_MODE past the checks of R9. -/
theorem carrySetMode_accepted {m : LaneMode} (hm : modeOfCode (fieldAt args 1 1) = some m) (hd : u.clock.day = .opened)
    (hu : (u.lane i).config.ride ≠ 0) (hn : ¬ ((u.lane i).live.mode = .closed ∧ m = .down)) :
    carrySetMode args u = ⟨u.changeMode i m (fieldAt args 2 1 != 0), .ok, modeContent i.val m, false⟩ := by
  rw [carrySetMode, withLength_eq hl]
  simp only [hi, hm, Fin.is_lt, dif_pos, Fin.eta]
  rw [if_neg (by rw [State.dayOpen_eq_true.2 hd]; decide), if_neg (by rw [Lane.inUse_eq_true.2 hu]; decide), if_neg hn,
    changeMode_reaches _ hn]

theorem carrySetMode_badMode (hm : modeOfCode (fieldAt args 1 1) = none) :
    carrySetMode args u = refuse u .badRequest (modeContent i.val (u.lane i).live.mode) := by
  rw [carrySetMode, withLength_eq hl]
  simp only [hi, hm, Fin.is_lt, dif_pos, Fin.eta]

theorem carrySetMode_badState {m : LaneMode} (hm : modeOfCode (fieldAt args 1 1) = some m)
    (h : u.clock.day = .shut ∨ (u.lane i).config.ride = 0 ∨ ((u.lane i).live.mode = .closed ∧ m = .down)) :
    carrySetMode args u = refuse u .refusedState (modeContent i.val (u.lane i).live.mode) := by
  rw [carrySetMode, withLength_eq hl]
  simp only [hi, hm, Fin.is_lt, dif_pos, Fin.eta]
  rcases h with h | h | h
  · rw [if_pos (by rw [State.dayOpen_eq_false.2 h]; rfl)]
  · rw [Lane.inUse_eq_false.2 h, Bool.not_false, if_pos rfl, ite_self]
  · rw [if_pos h, ite_self, ite_self]

end

/-- Settles O28: the checks of R9 pass, and the reply shows the mode that every change reaches. -/
theorem setModeChangesTheMode : Obligations.SetModeChangesTheMode := by
  intro s h i m evacuated args req hd hu hn
  have lane : fieldAt args 0 1 = i.val := (fieldAt_byte ..).trans (byteOf_toNat_of_lt (by omega))
  have mode : modeOfCode (fieldAt args 1 1) = some m := by
    rw [show fieldAt args 1 1 = modeCode m from (fieldAt_byte ..).trans (byteOf_toNat_of_lt (modeCode_lt m)), modeOfCode_modeCode]
  have flag : (fieldAt args 2 1 != 0) = decide (evacuated ≠ 0) := by
    rw [show fieldAt args 2 1 = evacuated.toNat from fieldAt_byte .., Bool.eq_iff_iff, bne_iff_ne, decide_eq_true_iff]
    exact not_congr ⟨fun e => BitVec.eq_of_toNat_eq e, fun e => by rw [e]; rfl⟩
  have carried := carrySetMode_accepted (u := s.atRequest) rfl lane mode hd hu hn
  rw [flag] at carried
  refine ⟨_, rfl, ?_, ?_⟩
  · split
    · next same => exact same
    · exact changeMode_reaches (s := s.atRequest) _ hn
  · rw [show (if (s.lane i).live.mode = m then s.atRequest else s.atRequest.changeMode i m (decide (evacuated ≠ 0))) =
      s.atRequest.changeMode i m (decide (evacuated ≠ 0)) from
        ite_eq_right_iff.2 fun same => (changeMode_same (s := s.atRequest) same _).symm]
    exact takeRequest_answered req carried

end Sys2Proof.Machine
end

section
/-! Requests refused, and requests of another length: the checks of each request in their order. -/

namespace Sys2Proof.Machine

/-! ## SET_MODE, OPEN_DAY and CLOSE_DAY (R9, R146, R148) -/

theorem modeOfCode_none {n : Nat} (h : 4 < n) : modeOfCode n = none := by
  unfold modeOfCode
  split <;> first | omega | rfl

theorem modeOfCode_some {n : Nat} (h : n ≤ 4) : ∃ m, modeOfCode n = some m ∧ (n = 4 → m = .down) := by
  interval_cases n <;> exact ⟨_, rfl, by decide⟩

theorem setMode_refused (s : State) (h : MgmtHeader) (lane mode evacuated : Byte)
    (req : s.TakesRequest ⟨h.source, h.tag, 3, [lane, mode, evacuated]⟩) :
    let refused := fun (st : Status) (m : Byte) => exec (.setMode h [lane, mode, evacuated]) s =
      .next (s.atRequest.reply ⟨h.source, h.tag, 3, [lane, mode, evacuated]⟩ st [lane, m] false)
    (63 < lane.toNat → refused .badIndex 0) ∧
    ∀ i : Fin 64, i.val = lane.toNat →
      (4 < mode.toNat → refused .badRequest (byteOf (modeCode (s.lane i).live.mode))) ∧
      (mode.toNat ≤ 4 →
        s.clock.day = .shut ∨ (s.lane i).config.ride = 0 ∨ ((s.lane i).live.mode = .closed ∧ mode.toNat = 4) →
        refused .refusedState (byteOf (modeCode (s.lane i).live.mode))) := by
  have atLane : fieldAt [lane, mode, evacuated] 0 1 = lane.toNat := fieldAt_byte ..
  have atMode : fieldAt [lane, mode, evacuated] 1 1 = mode.toNat := fieldAt_byte ..
  refine ⟨fun hl => takeRequest_refused req ?_, fun i hi => ⟨fun hm => takeRequest_refused req ?_, fun hm hc =>
    takeRequest_refused req ?_⟩⟩
  · rw [carrySetMode, withLength_eq (n := 3) (args := [lane, mode, evacuated]) rfl]
    simp only [atLane]
    rw [dif_neg (by omega), modeContent, byteOf_val]
    rfl
  · rw [carrySetMode_badMode (i := i) rfl (atLane.trans hi.symm) (by rw [atMode, modeOfCode_none hm]), modeContent, hi, byteOf_val]
    rfl
  · obtain ⟨m, known, down⟩ := modeOfCode_some hm
    rw [carrySetMode_badState (u := s.atRequest) (i := i) (m := m) rfl (atLane.trans hi.symm) (by rw [atMode, known])
      (hc.imp id (Or.imp id (And.imp id down))), modeContent, hi, byteOf_val]
    rfl

/-- The lane a refused CLOSE_DAY names is the lowest that is not CLOSED (R148). -/
theorem firstOpenLane_lowest {s : State} {i : Fin 64} (h : (s.lane i).live.mode ≠ .closed)
    (lower : ∀ j : Fin 64, j < i → (s.lane j).live.mode = .closed) : s.firstOpenLane = some i := by
  rw [State.firstOpenLane, List.find?_eq_some_iff_getElem]
  refine ⟨bne_iff_ne.2 h, i.val, by simp, by simp, fun j hj => ?_⟩
  rw [List.getElem_finRange, lower _ (by simpa [Fin.lt_def] using hj)]
  rfl

theorem openDay_refused (s : State) (h : MgmtHeader) (w : Nat) (req : s.TakesRequest ⟨h.source, h.tag, 4, le32 w⟩)
    (hd : s.clock.day = .opened) : exec (.openDay h (le32 w)) s =
      .next (s.atRequest.reply ⟨h.source, h.tag, 4, le32 w⟩ .refusedState (le32 s.clock.dayOffset) false) := by
  refine takeRequest_refused req ?_
  rw [carryOpenDay, withLength_eq (n := 4) (args := le32 w) rfl]
  exact if_pos (State.dayOpen_eq_true.2 hd)

theorem closeDay_shut (s : State) (h : MgmtHeader) (req : s.TakesRequest ⟨h.source, h.tag, 5, []⟩) (hd : s.clock.day = .shut) :
    ∃ content : List Byte, content[0]? = some 0xFF ∧
      exec (.closeDay h []) s = .next (s.atRequest.reply ⟨h.source, h.tag, 5, []⟩ .refusedState content false) := by
  refine ⟨absentByte :: unstated codeCloseDay 1 6, rfl, takeRequest_refused req ?_⟩
  rw [carryCloseDay, withLength_eq (n := 0) (args := []) rfl]
  refine if_pos ?_
  rw [(State.dayOpen_eq_false (s := s.atRequest)).2 hd, Bool.not_false]

theorem closeDay_running (s : State) (h : MgmtHeader) (i : Fin 64) (req : s.TakesRequest ⟨h.source, h.tag, 5, []⟩)
    (hd : s.clock.day = .opened) (ho : (s.lane i).live.mode ≠ .closed) (lower : ∀ j : Fin 64, j < i → (s.lane j).live.mode = .closed) :
    ∃ content : List Byte, content[0]? = some (byteOf i.val) ∧
      exec (.closeDay h []) s = .next (s.atRequest.reply ⟨h.source, h.tag, 5, []⟩ .refusedState content false) := by
  refine ⟨byteOf i.val :: unstated codeCloseDay 1 6, rfl, takeRequest_refused req ?_⟩
  rw [carryCloseDay, withLength_eq (n := 0) (args := []) rfl, (State.dayOpen_eq_true (s := s.atRequest)).2 hd,
    firstOpenLane_lowest (s := s.atRequest) ho lower]
  rfl

/-! ## WRITE_TABLE (R179) -/

/-- The pair at place `n` is bad, and none before it. -/
def FirstBad (pairs : List (Nat × Nat)) (bad : Nat × Nat → Prop) (n : Nat) : Prop :=
  (∃ p, pairs[n]? = some p ∧ bad p) ∧ ∀ (m : Nat) (p : Nat × Nat), m < n → pairs[m]? = some p → ¬ bad p

theorem firstPair_some {pairs : List (Nat × Nat)} {bad : Nat × Nat → Prop} {test : Nat × Nat → Bool} {n : Nat}
    (ht : ∀ p, test p = true ↔ bad p) (h : FirstBad pairs bad n) : firstPair pairs test = some (n + 1) := by
  obtain ⟨⟨p, at_, hp⟩, before⟩ := h
  obtain ⟨hn, rfl⟩ := List.getElem?_eq_some_iff.1 at_
  rw [firstPair, List.findIdx?_eq_some_iff_getElem.2 ⟨hn, (ht _).2 hp, fun m hm => (ht _).not.2 (before m _ hm (List.getElem?_eq_getElem _))⟩]
  rfl

theorem firstPair_none {pairs : List (Nat × Nat)} {bad : Nat × Nat → Prop} {test : Nat × Nat → Bool}
    (ht : ∀ p, test p = true ↔ bad p) (h : ∀ p ∈ pairs, ¬ bad p) : firstPair pairs test = none := by
  rw [firstPair, Option.map_eq_none_iff, List.findIdx?_eq_none_iff]
  exact fun p hp => Bool.eq_false_iff.2 ((ht p).not.2 (h p hp))

/-- Check 4 of R179 for one pair. -/
theorem TableId.badField_iff (t : TableId) (pairs : List (Nat × Nat)) (p : Nat × Nat) : t.badField pairs p = true ↔
    p.1 = 0 ∨ t.writable < p.1 ∨ 2 ≤ (pairs.filter fun q => decide (q.1 = p.1)).length := by
  simp only [TableId.badField, Bool.or_eq_true, beq_iff_eq, decide_eq_true_iff, or_assoc]
  rfl

/-- Check 5 of R179 for one pair. -/
theorem shutOnly_iff (s : State) (t : TableId) (p : Nat × Nat) : (s.dayOpen && t.shutOnly p.1) = true ↔
    s.clock.day = .opened ∧ t = .lane ∧ (p.1 = 1 ∨ p.1 = 9 ∨ p.1 = 10) := by
  simp only [TableId.shutOnly, Bool.and_eq_true, State.dayOpen_eq_true, beq_iff_eq, Bool.or_eq_true, or_assoc]

/-- Check 6 of R179 for one pair. -/
theorem duplicateRide_iff (s : State) (t : TableId) (index : Nat) (p : Nat × Nat) : s.duplicateRide t index p = true ↔
    t = .lane ∧ p.1 = 1 ∧ p.2 ≠ 0 ∧ ∃ j : Fin 64, j.val ≠ index ∧ (s.lane j).config.ride = min 250 p.2 := by
  have value : min 250 p.2 ≠ 0 ↔ p.2 ≠ 0 := by omega
  obtain ⟨field, v⟩ := p
  by_cases ht : t = .lane ∧ field = 1
  · obtain ⟨rfl, rfl⟩ := ht
    rw [← value]
    simp [State.duplicateRide, TableId.legalize, legalLane]
  · constructor
    · intro h
      simp only [State.duplicateRide, Bool.and_eq_true, beq_iff_eq] at h
      exact absurd h.1.1 ht
    · rintro ⟨rfl, rfl, -⟩
      exact absurd ⟨rfl, rfl⟩ ht

section
variable {u : State} {code index : Nat} {pairs : List (Nat × Nat)} {t : TableId}

theorem writeTable_badTable (h : tableOfCode code = none) : u.writeTable code index pairs = .refused .badTable none := by
  unfold State.writeTable
  rw [h]

theorem writeTable_badIndex (h : tableOfCode code = some t) (hi : t.entries ≤ index) :
    u.writeTable code index pairs = .refused .badIndex none := by
  unfold State.writeTable
  rw [h]
  exact if_pos hi

theorem writeTable_badField (h : tableOfCode code = some t) (hi : index < t.entries) {n : Nat}
    (bad : FirstBad pairs (fun p => p.1 = 0 ∨ t.writable < p.1 ∨ 2 ≤ (pairs.filter fun q => decide (q.1 = p.1)).length) n) :
    u.writeTable code index pairs = .refused .badField (some (n + 1)) := by
  unfold State.writeTable
  simp only [h, if_neg (Nat.not_le.2 hi), firstPair_some (t.badField_iff pairs) bad]

theorem writeTable_shutOnly (h : tableOfCode code = some t) (hi : index < t.entries) {n : Nat}
    (fields : ∀ p ∈ pairs, ¬ (p.1 = 0 ∨ t.writable < p.1 ∨ 2 ≤ (pairs.filter fun q => decide (q.1 = p.1)).length))
    (bad : FirstBad pairs (fun p => u.clock.day = .opened ∧ t = .lane ∧ (p.1 = 1 ∨ p.1 = 9 ∨ p.1 = 10)) n) :
    u.writeTable code index pairs = .refused .refusedState (some (n + 1)) := by
  unfold State.writeTable
  simp only [h, if_neg (Nat.not_le.2 hi), firstPair_none (t.badField_iff pairs) fields, firstPair_some (shutOnly_iff u t) bad]

theorem writeTable_duplicate (h : tableOfCode code = some t) (hi : index < t.entries) {n : Nat}
    (fields : ∀ p ∈ pairs, ¬ (p.1 = 0 ∨ t.writable < p.1 ∨ 2 ≤ (pairs.filter fun q => decide (q.1 = p.1)).length))
    (shut : ∀ p ∈ pairs, ¬ (u.clock.day = .opened ∧ t = .lane ∧ (p.1 = 1 ∨ p.1 = 9 ∨ p.1 = 10)))
    (bad : FirstBad pairs (fun p => t = .lane ∧ p.1 = 1 ∧ p.2 ≠ 0 ∧
      ∃ j : Fin 64, j.val ≠ index ∧ (u.lane j).config.ride = min 250 p.2) n) :
    u.writeTable code index pairs = .refused .duplicate (some (n + 1)) := by
  unfold State.writeTable
  simp only [h, if_neg (Nat.not_le.2 hi), firstPair_none (t.badField_iff pairs) fields, firstPair_none (shutOnly_iff u t) shut,
    firstPair_some (duplicateRide_iff u t index) bad]

end

theorem tableOfCode_none {number : Byte} (h : number = 0 ∨ 8 < number.toNat) : tableOfCode number.toNat = none := by
  rcases h with rfl | h
  · rfl
  · unfold tableOfCode
    split <;> first | omega | rfl

/-- WRITE_TABLE refused by a check of R179 answers with the failing pair, and writes no pair. -/
theorem exec_writeTable_refused {s : State} {h : MgmtHeader} {number : Byte} {index : Nat} {pairs : List (Nat × Nat)} {st : Status}
    {pair : Option Nat} (hi : index < 65536) (h1 : 1 ≤ pairs.length) (h12 : pairs.length ≤ 12)
    (hp : ∀ p ∈ pairs, p.1 < 256 ∧ p.2 < 65536) (req : s.TakesRequest ⟨h.source, h.tag, 2, writeArgs number index pairs⟩)
    (hw : s.atRequest.writeTable number.toNat index pairs = .refused st pair) :
    exec (.writeTable h (writeArgs number index pairs)) s = .next (s.atRequest.reply ⟨h.source, h.tag, 2, writeArgs number index pairs⟩
      st ([number] ++ le16 index ++ [0, byteOf (pair.getD 0xFF)]) false) :=
  takeRequest_refused req (carryWriteTable_refused s.atRequest number hi h1 h12 hp hw)

/-- The arguments of a write of one pair. -/
theorem writeArgs_single (number field : Byte) (index v : Nat) :
    writeArgs number index [(field.toNat, v % 65536)] = [number] ++ le16 index ++ [1, field] ++ le16 v := by
  rw [← le16_mod v]
  simp [writeArgs, byteOf_val]
  rfl

theorem le16_small {n : Nat} (h : n < 256) : le16 n = [byteOf n, 0] := by
  rw [le16, Nat.div_eq_of_lt h]
  rfl

theorem exec_writeTable_single {s : State} {h : MgmtHeader} {number field : Byte} {index v : Nat} {args : List Byte} {st : Status}
    {pair : Option Nat} {named : Byte} (hi : index < 65536) (ha : args = [number] ++ le16 index ++ [1, field] ++ le16 v)
    (req : s.TakesRequest ⟨h.source, h.tag, 2, args⟩)
    (hw : s.atRequest.writeTable number.toNat index [(field.toNat, v % 65536)] = .refused st pair) (hn : byteOf (pair.getD 0xFF) = named) :
    exec (.writeTable h args) s = .next (s.atRequest.reply ⟨h.source, h.tag, 2, args⟩
      st ([number] ++ le16 index ++ [0, named]) false) := by
  rw [ha, ← writeArgs_single] at req ⊢
  rw [← hn]
  exact exec_writeTable_refused hi (Nat.le_refl 1) (Nat.le_add_left 1 11) (by simp; omega) req hw

/-- The only pair of a write is the first bad one when it is bad. -/
theorem firstBad_single {p : Nat × Nat} {bad : Nat × Nat → Prop} (h : bad p) : FirstBad [p] bad 0 :=
  ⟨⟨p, rfl, h⟩, fun _ _ hm => absurd hm (Nat.not_lt_zero _)⟩

/-- One pair cannot be named twice. -/
theorem fields_single {t : TableId} {field v : Nat} (h0 : field ≠ 0) (ht : field ≤ t.writable) : ∀ p ∈ [(field, v)],
    ¬ (p.1 = 0 ∨ t.writable < p.1 ∨ 2 ≤ ([(field, v)].filter fun q => decide (q.1 = p.1)).length) := by
  simp [h0, ht]

theorem writeTable_lane_refused (s : State) (h : MgmtHeader) (i : Fin 64) (v : Nat) (hv : v < 65536) :
    let args := fun field : Byte => [2, byteOf i.val, 0, 1, field] ++ le16 v
    let req := fun field : Byte => MgmtRequest.mk h.source h.tag 2 (args field)
    let refused := fun (field : Byte) (st : Status) => exec (.writeTable h (args field)) s =
      .next (s.atRequest.reply (req field) st [2, byteOf i.val, 0, 0, 1] false)
    (∀ field : Byte, field = 1 ∨ field = 9 ∨ field = 10 → s.TakesRequest (req field) → s.clock.day = .opened →
      refused field .refusedState) ∧
    (∀ j : Fin 64, j ≠ i → s.TakesRequest (req 1) → s.clock.day = .shut → min 250 v ≠ 0 →
      (s.lane j).config.ride = min 250 v → refused 1 .duplicate) := by
  intro args req refused
  have split : ∀ field, args field = [2] ++ le16 i.val ++ [1, field] ++ le16 v := fun field => by
    rw [le16_small (show i.val < 256 by omega)]
    rfl
  have reply : ∀ {field : Byte} {st : Status}, s.TakesRequest (req field) →
      s.atRequest.writeTable 2 i.val [(field.toNat, v % 65536)] = .refused st (some 1) → refused field st := fun hr hw => by
    have answer := exec_writeTable_single (number := 2) (by omega) (split _) hr hw rfl
    rw [le16_small (show i.val < 256 by omega)] at answer
    exact answer
  refine ⟨fun field hf hr hd => reply hr ?_, fun j hj hr hd hv0 hride => reply hr ?_⟩
  · have code : field.toNat = 1 ∨ field.toNat = 9 ∨ field.toNat = 10 := by rcases hf with rfl | rfl | rfl <;> decide
    exact writeTable_shutOnly (t := .lane) rfl i.isLt (fields_single (by omega) (show field.toNat ≤ 19 by omega))
      (firstBad_single ⟨hd, rfl, code⟩)
  · refine writeTable_duplicate (t := .lane) rfl i.isLt (fields_single (by decide) (by decide)) (fun p _ hp => ?_)
      (firstBad_single ⟨rfl, rfl, ?_, j, Fin.val_ne_of_ne hj, ?_⟩)
    · exact absurd (hd.symm.trans hp.1) (by decide)
    · show v % 65536 ≠ 0
      omega
    · rw [show (s.atRequest.lane j).config.ride = min 250 v from hride, Nat.mod_eq_of_lt hv]

theorem writeTable_misfit (s : State) (h : MgmtHeader) (args : List Byte) (req : s.TakesRequest ⟨h.source, h.tag, 2, args⟩)
    (hm : args.length ≠ 4 + 3 * fieldAt args 3 1 ∨ fieldAt args 3 1 = 0 ∨ 12 < fieldAt args 3 1) :
    ∃ content : List Byte, exec (.writeTable h args) s =
      .next (s.atRequest.reply ⟨h.source, h.tag, 2, args⟩ .badRequest content false) :=
  ⟨writeContent args 0 none, takeRequest_refused req (if_pos hm)⟩

theorem writeTable_single_refused (s : State) (h : MgmtHeader) (table field : Byte) (index v : Nat) (hi : index < 65536) :
    let args := [table] ++ le16 index ++ [1, field] ++ le16 v
    let req : MgmtRequest := ⟨h.source, h.tag, 2, args⟩
    let refused := fun (st : Status) (pair : Byte) =>
      exec (.writeTable h args) s = .next (s.atRequest.reply req st ([table] ++ le16 index ++ [0, pair]) false)
    s.TakesRequest req →
    (table = 0 ∨ 8 < table.toNat → refused .badTable 0xFF) ∧
    ∀ t : TableId, tableOfCode table.toNat = some t →
      (t.entries ≤ index → refused .badIndex 0xFF) ∧
      (index < t.entries → field = 0 ∨ t.writable < field.toNat → refused .badField 1) := by
  intro args req refused hr
  have reply : ∀ {st : Status} {pair : Option Nat} {named : Byte},
      s.atRequest.writeTable table.toNat index [(field.toNat, v % 65536)] = .refused st pair → byteOf (pair.getD 0xFF) = named →
      refused st named := fun hw hn => exec_writeTable_single hi rfl hr hw hn
  refine ⟨fun ht => reply (writeTable_badTable (tableOfCode_none ht)) rfl, fun t ht =>
    ⟨fun hl => reply (writeTable_badIndex ht hl) rfl, fun hl hf => reply (writeTable_badField ht hl (firstBad_single ?_)) rfl⟩⟩
  exact hf.imp (fun e => by rw [e]; rfl) .inl

/-- The checks of R179 on a write of 1 to 12 pairs, in their order. -/
theorem writeTable_pairs_refused (s : State) (h : MgmtHeader) (number : Byte) (index : Nat) (pairs : List (Nat × Nat))
    (hi : index < 65536) (h1 : 1 ≤ pairs.length) (h12 : pairs.length ≤ 12) (hp : ∀ p ∈ pairs, p.1 < 256 ∧ p.2 < 65536) :
    let args := writeArgs number index pairs
    let req : MgmtRequest := ⟨h.source, h.tag, 2, args⟩
    let refused := fun (st : Status) (pair : Byte) =>
      exec (.writeTable h args) s = .next (s.atRequest.reply req st ([number] ++ le16 index ++ [0, pair]) false)
    s.TakesRequest req →
    (number = 0 ∨ 8 < number.toNat → refused .badTable 0xFF) ∧
    ∀ t : TableId, tableOfCode number.toNat = some t →
      let badField := fun p : Nat × Nat =>
        p.1 = 0 ∨ t.writable < p.1 ∨ 2 ≤ (pairs.filter fun q => decide (q.1 = p.1)).length
      let shutOnly := fun p : Nat × Nat => s.clock.day = .opened ∧ t = .lane ∧ (p.1 = 1 ∨ p.1 = 9 ∨ p.1 = 10)
      let duplicate := fun p : Nat × Nat => t = .lane ∧ p.1 = 1 ∧ p.2 ≠ 0 ∧
        ∃ j : Fin 64, j.val ≠ index ∧ (s.lane j).config.ride = min 250 p.2
      (t.entries ≤ index → refused .badIndex 0xFF) ∧
      (index < t.entries →
        (∀ n : Nat, FirstBad pairs badField n → refused .badField (byteOf (n + 1))) ∧
        ((∀ p ∈ pairs, ¬ badField p) → ∀ n : Nat, FirstBad pairs shutOnly n → refused .refusedState (byteOf (n + 1))) ∧
        ((∀ p ∈ pairs, ¬ badField p ∧ ¬ shutOnly p) → ∀ n : Nat, FirstBad pairs duplicate n →
          refused .duplicate (byteOf (n + 1)))) := by
  intro args req refused hr
  have reply : ∀ {st : Status} {pair : Option Nat} {named : Byte}, s.atRequest.writeTable number.toNat index pairs = .refused st pair →
      byteOf (pair.getD 0xFF) = named → refused st named := fun hw hn => hn ▸ exec_writeTable_refused hi h1 h12 hp hr hw
  exact ⟨fun ht => reply (writeTable_badTable (tableOfCode_none ht)) rfl, fun t ht =>
    ⟨fun hl => reply (writeTable_badIndex ht hl) rfl, fun hl =>
      ⟨fun n bad => reply (writeTable_badField ht hl bad) rfl, fun fields n bad => reply (writeTable_shutOnly ht hl fields bad) rfl,
        fun checked n bad =>
          reply (writeTable_duplicate ht hl (fun p hp => (checked p hp).1) (fun p hp => (checked p hp).2) bad) rfl⟩⟩⟩

/-! ## POST_GRANTS, VOID_PASS and QUERY_PASS (R56, R85, R86) -/

theorem postGrants_refused (s : State) (h : MgmtHeader) (args : List Byte) :
    let req : MgmtRequest := ⟨h.source, h.tag, 6, args⟩
    let count := fieldAt args 0 1
    let lane := fun g : Nat => fieldAt args (1 + 4 * g) 1
    let minute := fun g : Nat => fieldAt args (2 + 4 * g) 2
    let misfit := args.length ≠ 1 + 4 * count ∨ count = 0 ∨ 20 < count
    let refused := fun st : Status => ∃ accepted : Byte, exec (.postGrants h args) s =
      .next (s.atRequest.reply req st (accepted :: le16 s.ring.grants.length) false)
    s.TakesRequest req →
    (misfit → refused .badRequest) ∧
    (¬ misfit → (∃ g : Nat, g < count ∧ 63 < lane g) → refused .badIndex) ∧
    (¬ misfit → (∀ g : Nat, g < count → lane g ≤ 63) → (∃ g : Nat, g < count ∧ 2879 < minute g) → refused .badField) := by
  intro req count lane minute misfit refused hr
  have reply : ∀ st, carryPostGrants args s.atRequest = refuse s.atRequest st (unstated codePostGrants 0 1 ++ le16 s.ring.grants.length) →
      refused st := fun st hc => ⟨_, takeRequest_refused hr hc⟩
  have fits : ¬ misfit → (args.drop 1).length = 4 * count := fun hm => by
    have : args.length = 1 + 4 * count := by by_contra e; exact hm (.inl e)
    rw [List.length_drop]
    omega
  have badLane : ¬ misfit → (((parseGrants (args.drop 1)).any fun g => decide (63 < g.1)) = true ↔ ∃ g, g < count ∧ 63 < lane g) :=
    fun hm => (parseGrants_any (fits hm) fun l _ => decide (63 < l)).trans (by simp only [fieldAt_drop, decide_eq_true_iff]; rfl)
  have badMinute : ¬ misfit →
      (((parseGrants (args.drop 1)).any fun g => decide (Config.lastMinute < g.2.1)) = true ↔ ∃ g, g < count ∧ 2879 < minute g) :=
    fun hm => (parseGrants_any (fits hm) fun _ m => decide (Config.lastMinute < m)).trans (by
      have place : ∀ g, 1 + (4 * g + 1) = 2 + 4 * g := fun g => by omega
      simp only [fieldAt_drop, decide_eq_true_iff, place]
      rfl)
  refine ⟨fun hm => reply _ ?_, fun hm hb => reply _ ?_, fun hm hl hb => reply _ ?_⟩
  · exact if_pos hm
  · exact (if_neg hm).trans (if_pos ((badLane hm).2 hb))
  · have lanes : ¬ ∃ g, g < count ∧ 63 < lane g := fun ⟨g, hg, h⟩ => absurd (hl g hg) (by omega)
    exact (if_neg hm).trans ((if_neg (mt (badLane hm).1 lanes)).trans (if_pos ((badMinute hm).2 hb)))

theorem pass_badLane (s : State) (h : MgmtHeader) (args : List Byte) (hl : args.length = 5) (hb : 63 < fieldAt args 4 1) :
    (s.TakesRequest ⟨h.source, h.tag, 7, args⟩ → exec (.voidPass h args) s =
      .next (s.atRequest.reply ⟨h.source, h.tag, 7, args⟩ .badIndex (args ++ [0, 0, 0xFF, 0xFF]) false)) ∧
    (s.TakesRequest ⟨h.source, h.tag, 8, args⟩ → exec (.queryPass h args) s =
      .next (s.atRequest.reply ⟨h.source, h.tag, 8, args⟩ .badIndex [0, 0xFF] false)) := by
  refine ⟨fun hr => takeRequest_refused hr ?_, fun hr => takeRequest_refused hr ?_⟩
  · rw [carryVoidPass, withLength_eq hl]
    exact dif_neg (by omega)
  · rw [carryQueryPass, withLength_eq hl]
    exact if_pos hb

theorem takeRequest_badRequest {s : State} {req : MgmtRequest} {f : State → Carried} (h : s.TakesRequest req)
    (hf : ∃ content, f s.atRequest = refuse s.atRequest .badRequest content) :
    ∃ content, takeRequest req s f = .next (s.atRequest.reply req .badRequest content false) :=
  hf.imp fun _ hc => takeRequest_refused h hc

/-- A request of another length than its code calls for (R175). -/
theorem misfits_refused (s : State) (h : MgmtHeader) (args : List Byte) :
    let refused := fun (code : Nat) (request : Instr) => s.TakesRequest ⟨h.source, h.tag, code, args⟩ →
      ∃ content : List Byte, exec request s =
        .next (s.atRequest.reply ⟨h.source, h.tag, code, args⟩ .badRequest content false)
    (args.length ≠ 6 → refused 1 (.readTable h args)) ∧
    (args.length ≠ 3 → refused 3 (.setMode h args)) ∧
    (args.length ≠ 4 → refused 4 (.openDay h args)) ∧
    (args.length ≠ 0 → refused 5 (.closeDay h args)) ∧
    (args.length ≠ 5 → refused 7 (.voidPass h args) ∧ refused 8 (.queryPass h args)) ∧
    (args.length ≠ 4 → refused 9 (.clearAttention h args)) ∧
    (args.length ≠ 2 → refused 10 (.injectNotice h args)) ∧
    (∀ given : Nat, args.length ≠ 3 → refused 12 (.flashRead h args given)) ∧
    (args.length ≠ 3 + fieldAt args 2 1 → refused 13 (.flashWrite h args)) ∧
    (args.length ≠ 0 → refused 14 (.flashStatus h args)) ∧
    (args.length ≠ 1 → refused 15 (.readStatus h args)) := by
  refine ⟨fun hl hr => takeRequest_badRequest hr ?readTable, fun hl hr => takeRequest_badRequest hr ?setMode,
    fun hl hr => takeRequest_badRequest hr ?openDay, fun hl hr => takeRequest_badRequest hr ?closeDay,
    fun hl => ⟨fun hr => takeRequest_badRequest hr ?voidPass, fun hr => takeRequest_badRequest hr ?queryPass⟩,
    fun hl hr => takeRequest_badRequest hr ?clearAttention, fun hl hr => takeRequest_badRequest hr ?injectNotice,
    fun given hl hr => takeRequest_badRequest hr ?flashRead, fun hl hr => takeRequest_badRequest hr ⟨_, if_pos hl⟩,
    fun hl hr => takeRequest_badRequest hr ?flashStatus, fun hl hr => takeRequest_badRequest hr ?readStatus⟩
  case readTable => unfold carryReadTable; exact ⟨_, withLength_ne hl ..⟩
  case setMode => unfold carrySetMode; exact ⟨_, withLength_ne hl ..⟩
  case openDay => unfold carryOpenDay; exact ⟨_, withLength_ne hl ..⟩
  case closeDay => unfold carryCloseDay; exact ⟨_, withLength_ne hl ..⟩
  case voidPass => unfold carryVoidPass; exact ⟨_, withLength_ne hl ..⟩
  case queryPass => unfold carryQueryPass; exact ⟨_, withLength_ne hl ..⟩
  case clearAttention => unfold carryClearAttention; exact ⟨_, withLength_ne hl ..⟩
  case injectNotice => unfold carryInjectNotice; exact ⟨_, withLength_ne hl ..⟩
  case flashRead => unfold carryFlashRead; exact ⟨_, withLength_ne hl ..⟩
  case flashStatus => unfold carryFlashStatus; exact ⟨_, withLength_ne hl ..⟩
  case readStatus => unfold carryReadStatus; exact ⟨_, withLength_ne hl ..⟩

/-- Settles O29: each request's checks, one lemma a request. -/
theorem refusedRequestsChangeNothing : Obligations.RefusedRequestsChangeNothing :=
  ⟨setMode_refused, fun s h => ⟨openDay_refused s h, closeDay_shut s h, closeDay_running s h⟩, writeTable_lane_refused,
    writeTable_misfit, writeTable_single_refused, writeTable_pairs_refused, postGrants_refused, pass_badLane, misfits_refused⟩

end Sys2Proof.Machine
end

section
/-! The link-up notice, and the ENGINE reset that gives it to every link that comes up. -/

namespace Sys2Proof.Machine

/-! ## One link-up notice (R112, R141, R166) -/

theorem linkUpNotice_report (s : State) (p d : Port) : (s.linkUpNotice p).report d = s.report d :=
  (congrArg (State.report · d) (s.linkUpNotice_frame p)).trans rfl

theorem linkUpNotice_attnFrame (s : State) (p d : Port) (r : Report) : (s.linkUpNotice p).attnFrame d r = s.attnFrame d r :=
  (congrArg (State.attnFrame · d r) (s.linkUpNotice_frame p)).trans rfl

theorem linkUpNotice_lineContent (s : State) (p : Port) (b : BoardLine) : (s.linkUpNotice p).lineContent b = s.lineContent b :=
  (congrArg (State.lineContent · b) (s.linkUpNotice_frame p)).trans rfl

theorem linkUpNotice_linkUp (s : State) (p d : Port) : (s.linkUpNotice p).linkUp d = s.linkUp d :=
  (congrArg (State.linkUp · d) (s.linkUpNotice_frame p)).trans rfl

/-- The state in which a link-up notice produces the report: lines marked and a run owed. -/
def State.linesSent (s : State) (p : Port) : State := (s.markLines fun b => b.port == p).oweBoardRuns p 1

theorem linesSent_attnPort (s : State) (p d : Port) : (s.linesSent p).attnPort d = s.attnPort d := by
  rw [State.attnPort, State.linesSent, oweBoardRuns_attn, markLines_attn]
  rfl

theorem linesSent_report (s : State) (p d : Port) : (s.linesSent p).report d = s.report d :=
  (congrArg (State.report · d) ((s.markLines fun b => b.port == p).oweBoardRuns_frame p 1)).trans rfl

theorem linesSent_attnFrame (s : State) (p d : Port) (r : Report) : (s.linesSent p).attnFrame d r = s.attnFrame d r :=
  (congrArg (State.attnFrame · d r) ((s.markLines fun b => b.port == p).oweBoardRuns_frame p 1)).trans rfl

theorem linesSent_port (s : State) (p d : Port) : (s.linesSent p).port d = { s.port d with
    boardRuns := (s.port d).boardRuns + if d = p ∧ s.linkUp p = true then 1 else 0 } := by
  unfold State.linesSent State.oweBoardRuns
  rw [markLines_linkUp]
  split
  · next up =>
    rw [setPort_port]
    split
    · next e =>
      subst e
      rw [if_pos ⟨rfl, up⟩]
      rfl
    · next e =>
      rw [if_neg (not_and_of_not_left _ e)]
      rfl
  · next down =>
    rw [if_neg (not_and_of_not_right _ down)]
    rfl

theorem linkUpNotice_lines (s : State) (p : Port) (j : Fin 192) : (s.linkUpNotice p).lines.get j =
    if (s.lines.get j).enable = true ∧ (s.lines.get j).port = p then
      { s.lines.get j with pending := some (s.lineContent (s.lines.get j)) } else s.lines.get j := by
  rw [State.linkUpNotice, State.resend, oweOffer_lines, produceQuietly_lines, oweBoardRuns_lines, State.markLines, get_tabulate]
  by_cases h : (s.lines.get j).enable = true ∧ (s.lines.get j).port = p
  · rw [if_pos h]
    exact if_pos (by simpa using h)
  · rw [if_neg h]
    exact if_neg (by simpa using h)

/-- A report produced into a slot that is not QUEUED is PREPARED (R165). -/
theorem produceQuietly_prepared {s : State} {d : Port} (h : (s.attnPort d).slot ≠ .queued) : s.produceQuietly d =
    s.setAttnPort d { s.attnPort d with last := s.report d, slot := .prepared (s.attnFrame d (s.report d)) } := by
  unfold State.produceQuietly
  dsimp only
  split
  · next hq => exact absurd hq h
  · rfl

/-- A report produced into a QUEUED slot rewrites the waiting frame (R165). -/
theorem produceQuietly_queued {s : State} {d : Port} (h : (s.attnPort d).slot = .queued) : s.produceQuietly d =
    (s.setPort d { s.port d with tx := rewriteWaiting (s.port d).sending (s.port d).tx (s.attnFrame d (s.report d)) }).setAttnPort d
      { s.attnPort d with last := s.report d } := by
  unfold State.produceQuietly
  simp only [h]

theorem oweOffer_prepared {s : State} {d : Port} {f : List Byte} (h : (s.attnPort d).slot = .prepared f) :
    s.oweOffer d = s.setAttnPort d { s.attnPort d with offersDue := (s.attnPort d).offersDue + 1 } := by
  unfold State.oweOffer
  simp only [h]

theorem oweOffer_none {s : State} {d : Port} (h : ∀ f, (s.attnPort d).slot ≠ .prepared f) : s.oweOffer d = s := by
  unfold State.oweOffer
  split
  · next f hf => exact absurd hf (h f)
  · rfl

theorem setAttnPort_again (s : State) (d : Port) (a b : AttnPort) : (s.setAttnPort d a).setAttnPort d b = s.setAttnPort d b := by
  simp [State.setAttnPort, put]

/-- The notice to a destination whose slot is not QUEUED. -/
theorem linkUpNotice_prepared {s : State} {p : Port} (h : (s.attnPort p).slot ≠ .queued) : s.linkUpNotice p =
    (s.linesSent p).setAttnPort p ⟨s.report p, .prepared (s.attnFrame p (s.report p)), (s.attnPort p).offersDue + 1⟩ := by
  show ((s.linesSent p).produceQuietly p).oweOffer p = _
  rw [produceQuietly_prepared (by rwa [linesSent_attnPort]), linesSent_attnPort, linesSent_report, linesSent_attnFrame,
    oweOffer_prepared (congrArg AttnPort.slot (setAttnPort_attnPort_same ..)), setAttnPort_again, setAttnPort_attnPort_same]

/-- The notice to a destination whose frame waits in the queue. -/
theorem linkUpNotice_queued {s : State} {p : Port} (h : (s.attnPort p).slot = .queued) : s.linkUpNotice p =
    ((s.linesSent p).setPort p { (s.linesSent p).port p with
      tx := rewriteWaiting ((s.linesSent p).port p).sending ((s.linesSent p).port p).tx (s.attnFrame p (s.report p)) }).setAttnPort p
      { s.attnPort p with last := s.report p } := by
  show ((s.linesSent p).produceQuietly p).oweOffer p = _
  rw [produceQuietly_queued (by rwa [linesSent_attnPort]), linesSent_attnPort, linesSent_report, linesSent_attnFrame,
    oweOffer_none fun f => by rw [setAttnPort_attnPort_same, h]; exact nofun]

theorem linkUpNotice_attnPort_other (s : State) {p d : Port} (h : d ≠ p) : (s.linkUpNotice p).attnPort d = s.attnPort d := by
  by_cases hq : (s.attnPort p).slot = .queued
  · rw [linkUpNotice_queued hq, setAttnPort_attnPort_other _ _ h, setPort_attnPort, linesSent_attnPort]
  · rw [linkUpNotice_prepared hq, setAttnPort_attnPort_other _ _ h, linesSent_attnPort]

theorem linkUpNotice_attnPort {s : State} {p : Port} (h : (s.attnPort p).slot ≠ .queued) :
    (s.linkUpNotice p).attnPort p = ⟨s.report p, .prepared (s.attnFrame p (s.report p)), (s.attnPort p).offersDue + 1⟩ := by
  rw [linkUpNotice_prepared h, setAttnPort_attnPort_same]

/-- The notice leaves the current report the last one (R141). -/
theorem linkUpNotice_last (s : State) (p : Port) : ((s.linkUpNotice p).attnPort p).last = s.report p := by
  by_cases hq : (s.attnPort p).slot = .queued
  · rw [linkUpNotice_queued hq, setAttnPort_attnPort_same]
  · rw [linkUpNotice_attnPort hq]

theorem linkUpNotice_port_other (s : State) {p d : Port} (h : d ≠ p) : (s.linkUpNotice p).port d = s.port d := by
  have sent : (s.linesSent p).port d = s.port d := by
    rw [linesSent_port, if_neg (not_and_of_not_left _ h)]
    rfl
  by_cases hq : (s.attnPort p).slot = .queued
  · rw [linkUpNotice_queued hq, setAttnPort_port, setPort_port_other _ _ h, sent]
  · rw [linkUpNotice_prepared hq, setAttnPort_port, sent]

theorem linkUpNotice_port {s : State} {p : Port} (h : (s.attnPort p).slot ≠ .queued) (up : s.linkUp p = true) :
    (s.linkUpNotice p).port p = { s.port p with boardRuns := (s.port p).boardRuns + 1 } := by
  rw [linkUpNotice_prepared h, setAttnPort_port, linesSent_port, if_pos ⟨rfl, up⟩]

/-! ## The links that come up together (R188, R193) -/

/-- Each of several ports given its link-up notice once, over slots and ports that were empty. -/
structure State.Notified (s t : State) (ps : List Port) : Prop where
  frame : t = { s with lines := t.lines, ports := t.ports, attn := { s.attn with ports := t.attn.ports } }
  lines : ∀ j, t.lines.get j = if (s.lines.get j).enable = true ∧ (s.lines.get j).port ∈ ps then
    { s.lines.get j with pending := some (s.lineContent (s.lines.get j)) } else s.lines.get j
  ports : ∀ d, t.port d = { s.port d with boardRuns := (s.port d).boardRuns + if d ∈ ps then 1 else 0 }
  slots : ∀ d, t.attnPort d =
    if d ∈ ps then ⟨s.report d, .prepared (s.attnFrame d (s.report d)), (s.attnPort d).offersDue + 1⟩ else s.attnPort d

theorem linkUpNotice_notified {s : State} {p : Port} (h : (s.attnPort p).slot ≠ .queued) (up : s.linkUp p = true) :
    s.Notified (s.linkUpNotice p) [p] where
  frame := s.linkUpNotice_frame p
  lines j := by simp only [linkUpNotice_lines, List.mem_singleton]
  ports d := by
    by_cases e : d = p
    · subst e
      rw [linkUpNotice_port h up, if_pos (List.mem_singleton.2 rfl)]
    · rw [linkUpNotice_port_other s e, if_neg (mt List.mem_singleton.1 e)]
      rfl
  slots d := by
    by_cases e : d = p
    · subst e
      rw [linkUpNotice_attnPort h, if_pos (List.mem_singleton.2 rfl)]
    · rw [linkUpNotice_attnPort_other s e, if_neg (mt List.mem_singleton.1 e)]

theorem linkUpNotices_notified {ps : List Port} (hn : ps.Nodup) : ∀ {s : State}, (∀ p ∈ ps, (s.attnPort p).slot ≠ .queued) →
    (∀ p ∈ ps, s.linkUp p = true) → s.Notified (ps.foldl State.linkUpNotice s) ps := by
  induction ps with
  | nil => exact fun _ _ => ⟨rfl, fun j => (if_neg (by simp)).symm, fun d => rfl, fun d => rfl⟩
  | cons p ps ih =>
    intro s hq up
    obtain ⟨fresh, hn⟩ := List.nodup_cons.1 hn
    have one := linkUpNotice_notified (hq p (.head _)) (up p (.head _))
    have rest := ih hn (s := s.linkUpNotice p)
      (fun q hm => by rw [linkUpNotice_attnPort_other s (ne_of_mem_of_not_mem hm fresh)]; exact hq q (.tail _ hm))
      (fun q hm => by rw [linkUpNotice_linkUp]; exact up q (.tail _ hm))
    rw [List.foldl_cons]
    refine ⟨s.linkUpNotices_frame (p :: ps), fun j => ?_, fun d => ?_, fun d => ?_⟩
    · rw [rest.lines, one.lines, linkUpNotice_lineContent]
      by_cases e : (s.lines.get j).port = p <;> by_cases he : (s.lines.get j).enable = true <;> simp [e, he, fresh]
    · rw [rest.ports, one.ports]
      by_cases e : d = p
      · subst e; simp [fresh]
      · simp [e]
    · rw [rest.slots, one.slots, linkUpNotice_report, linkUpNotice_attnFrame]
      by_cases e : d = p
      · subst e; simp [fresh]
      · simp [e]


theorem refuseOwed_empty {s : State} {d : Port} (h : s.attnPort d = .empty) : s.refuseOwed d = s := by
  have same : put s.attn.ports (portIndex d) AttnPort.empty = s.attn.ports := by
    rw [← h]
    exact put_get_self ..
  rw [refuseOwed_eq, h]
  exact congrArg (fun ports => { s with attn := { s.attn with ports := ports } }) same

theorem refuseOwedEach_empty {s : State} (h : ∀ d, s.attnPort d = .empty) (ds : List Port) : ds.foldl State.refuseOwed s = s := by
  induction ds with
  | nil => rfl
  | cons d ds ih => rw [List.foldl_cons, refuseOwed_empty (h d), ih]

/-- A loader that becomes READY over empty slots gives the link-up notice to the links that come up, and nothing else (R112). -/
theorem loaderReady_notified {s : State} {outcome : LoaderOutcome} (h : ∀ d, s.attnPort d = .empty)
    (hl : { s.loader with state := .ready, outcome := outcome } = s.loader) :
    s.Notified (s.loaderReady outcome) (allPorts.filter fun p => s.linkUp p) := by
  unfold State.loaderReady
  rw [hl]
  dsimp only
  rw [refuseOwedEach_empty h]
  exact linkUpNotices_notified (List.Nodup.filter _ (by decide)) (fun p _ => by rw [h p]; exact nofun)
    (fun p hp => (List.mem_filter.1 hp).2)

/-! ## The ENGINE reset (R187, R188) -/

/-- What is cleared before the links come up; of the flash only the bytes of an abandoned write are not the ones before. -/
theorem engineCleared_frame (s : State) : s.engineCleared = { s with
    lanes := tabulate fun i => { s.lane i with countSkew := false }
    rules := tabulate fun j => { s.rules.get j with hits := 0 }
    lines := tabulate fun j => { s.lines.get j with pending := none }
    ring := { s.ring with running := false }
    ports := Vector.replicate 7 .empty
    counters := .zero
    attn := .clear
    agent := .idle
    flash := { s.flash with
      access := if s.flash.access = .busy then .unverified else s.flash.access, mem := s.engineCleared.flash.mem }
    loader := s.loader.afterEngine s.park.reload
    handed := []
    engineResetDue := false
    segmentResetsDue := Vector.replicate 6 0
    freeDraws := s.engineCleared.freeDraws } := by
  obtain ⟨mem, draws, h⟩ : ∃ mem draws, s.abandonWrite = { s with flash := { s.flash with mem := mem }, freeDraws := draws } :=
    ⟨_, _, s.abandonWrite_frame⟩
  simp only [State.engineCleared, h, Flash.afterEngine]
  split <;> rfl

section
variable (s : State)

theorem engineCleared_lane (i : Fin 64) : s.engineCleared.lane i = { s.lane i with countSkew := false } := get_tabulate ..

theorem engineCleared_port (p : Port) : s.engineCleared.port p = .empty := get_replicate ..

theorem engineCleared_attnPort (p : Port) : s.engineCleared.attnPort p = .empty := get_replicate ..

theorem engineCleared_resetHeld : s.engineCleared.resetHeld = s.resetHeld := (congrArg State.resetHeld (engineCleared_frame s) :)

theorem engineCleared_lineContent (b : BoardLine) : s.engineCleared.lineContent b = s.lineContent b := by
  have day : s.engineCleared.dayOpen = s.dayOpen := (congrArg State.dayOpen (engineCleared_frame s) :)
  rw [State.lineContent, engineCleared_lane, day]
  rfl

theorem engineCleared_linkUp (h : s.resetHeld = false) (p : Port) : s.engineCleared.linkUp p = (!s.park.reload && s.portEnabled p) := by
  have ports : s.engineCleared.portEnabled p = s.portEnabled p := by
    rw [(engineCleared_frame s)]
    cases p <;> rfl
  rw [State.linkUp, State.inService, ports, engineCleared_resetHeld, h]
  show ((s.loader.afterEngine s.park.reload).state == .ready && _) = _
  cases s.park.reload <;> rfl

/-- With reload ON no link comes up, and with reload OFF the enabled ones do (R188). -/
theorem engineReset_notified (h : s.resetHeld = false) :
    s.engineCleared.Notified s.engineReset (allPorts.filter fun p => s.engineCleared.linkUp p) := by
  unfold State.engineReset
  dsimp only
  cases hr : s.park.reload with
  | true =>
    have down : (allPorts.filter fun p => s.engineCleared.linkUp p) = [] := by simp [engineCleared_linkUp s h, hr]
    rw [if_pos rfl, down]
    exact linkUpNotices_notified .nil nofun nofun
  | false =>
    refine loaderReady_notified (engineCleared_attnPort s) ?_
    have ready : s.engineCleared.loader.state = .ready := by
      show (s.loader.afterEngine s.park.reload).state = .ready
      rw [hr]
      rfl
    rw [← ready]

end

/-- The state with other lines, ports and attention slots: what link-up notices can change. -/
def State.withLinks (lines : Vector BoardLine 192) (ports : Vector PortState 7) (slots : Vector AttnPort 7) (s : State) : State :=
  { s with lines := lines, ports := ports, attn := { s.attn with ports := slots } }

/-- Settles O14: what the reset clears, and then one notice to each link that comes up. -/
theorem engineResetKeepsAndClears : Obligations.EngineResetKeepsAndClears := by
  intro s released due
  have done := engineReset_notified s released
  have frame := done.frame
  have cleared := (engineCleared_frame s)
  have up : ∀ p, s.engineReset.linkUp p = s.engineCleared.linkUp p := fun p => (congrArg (State.linkUp · p) frame).trans rfl
  have report : ∀ p, s.engineReset.report p = s.engineCleared.report p := fun p => (congrArg (State.report · p) frame).trans rfl
  have attnFrame : ∀ p r, s.engineReset.attnFrame p r = s.engineCleared.attnFrame p r :=
    fun p r => (congrArg (State.attnFrame · p r) frame).trans rfl
  have links : ∀ p, p ∈ (allPorts.filter fun p => s.engineCleared.linkUp p) ↔ s.engineReset.linkUp p = true := fun p => by
    rw [List.mem_filter, up]
    exact and_iff_right (mem_allPorts p)
  have flash : s.engineReset.flash = s.engineCleared.flash := (congrArg State.flash frame :)
  have draws : s.engineReset.freeDraws = s.engineCleared.freeDraws := (congrArg State.freeDraws frame :)
  refine ⟨s.engineReset, ?_, ?_, fun i => ?_, fun j => ?_, fun j => ?_, fun p => ⟨?_, ?_, ?_⟩, ?_, ?_, ?_, fun idle => ?_, fun a ha => ?_⟩
  · show whileReleased s _ = _
    rw [whileReleased_released released, if_pos due]
  · have lanes : s.engineReset.lanes = s.engineCleared.lanes := (congrArg State.lanes frame :)
    have rules : s.engineReset.rules = s.engineCleared.rules := (congrArg State.rules frame :)
    have attn : s.engineReset.attn = { s.engineCleared.attn with ports := s.engineReset.attn.ports } := (congrArg State.attn frame :)
    have loader : s.engineReset.loader = s.engineCleared.loader := (congrArg State.loader frame :)
    rw [lanes, rules, attn, loader, draws, flash, (congrArg State.flash cleared :)]
    exact frame.trans (congrArg (State.withLinks s.engineReset.lines s.engineReset.ports s.engineReset.attn.ports) cleared)
  · exact (congrArg (State.lane · i) frame).trans (engineCleared_lane s i)
  · exact (congrArg (fun u => u.rules.get j) frame).trans (get_tabulate ..)
  · rw [done.lines, if_congr (and_congr_right fun _ => links _) rfl rfl, engineCleared_lineContent]
    have line : s.engineCleared.lines.get j = { s.lines.get j with pending := none } := get_tabulate ..
    have loaded : s.engineReset.linkUp (s.lines.get j).port = true → s.park.reload = false := fun h => by
      rw [up, engineCleared_linkUp s released] at h
      simpa using (Bool.and_eq_true_iff.1 h).1
    rw [line]
    by_cases marked : (s.lines.get j).enable = true ∧ s.engineReset.linkUp (s.lines.get j).port = true
    · rw [if_pos marked, if_pos ⟨loaded marked.2, marked⟩]
      rfl
    · rw [if_neg marked, if_neg (not_and_of_not_right _ marked)]
  · rw [done.ports, engineCleared_port, if_congr (links p) rfl rfl]
    exact congrArg (PortState.mk [] [] false .zero) (Nat.zero_add _)
  · rw [up, engineCleared_linkUp s released]
  · rw [done.slots, engineCleared_attnPort, if_congr (links p) rfl rfl, report, attnFrame]
    rfl
  · exact (congrArg State.attn frame :)
  · exact (congrArg State.loader frame :)
  · rw [flash]
    exact (congrArg State.flash cleared :)
  · rw [flash]
    rw [draws]
    have kept : s.abandonWrite = s := if_neg idle
    have flash : s.abandonWrite.flash.afterEngine = s.flash := by rw [kept, Flash.afterEngine, if_neg idle]
    have free : s.abandonWrite.freeDraws = s.freeDraws := congrArg State.freeDraws kept
    exact ⟨flash, free⟩
  · have mem : s.abandonWrite.flash.afterEngine.mem = s.abandonWrite.flash.mem := by
      unfold Flash.afterEngine
      split <;> rfl
    rw [flash, show s.engineCleared.flash.mem = s.abandonWrite.flash.mem from mem]
    exact abandonWrite_read ha

end Sys2Proof.Machine
end

section
/-! What an accepted table write stores in the entry it names. -/

namespace Sys2Proof.Machine

/-! ## Codes that read back as they were written (R200) -/

theorem flagCode_beq {v : Nat} (h : v ≤ 1) : flagCode (v == 1) = v := by
  interval_cases v <;> rfl

theorem legalFlag_le {other : Nat} (h : other ≤ 1) (v : Nat) : legalFlag other v ≤ 1 := by
  unfold legalFlag
  split <;> omega

theorem flagCode_legalFlag {other : Nat} (h : other ≤ 1) (v : Nat) : flagCode (legalFlag other v == 1) = legalFlag other v :=
  flagCode_beq (legalFlag_le h v)

theorem legalCode_le {top other : Nat} (h : other ≤ top) (v : Nat) : legalCode top other v ≤ top := by
  unfold legalCode
  split <;> omega

theorem autoRestartCode_ofCode {v : Nat} (h : v ≤ 3) : autoRestartCode (autoRestartOfCode v) = v := by
  interval_cases v <;> rfl

theorem selectorCode_ofCode {v : Nat} (h : v ≤ 5) : selectorCode (selectorOfCode v) = v := by
  interval_cases v <;> rfl

theorem operatorCode_ofCode {v : Nat} (h : v ≤ 3) : operatorCode (operatorOfCode v) = v := by
  interval_cases v <;> rfl

theorem actionCode_ofCode {v : Nat} (h : v ≤ 7) : actionCode (actionOfCode v) = v := by
  interval_cases v <;> rfl

theorem defaultActionCode_ofCode {v : Nat} (h : v ≤ 2) : defaultActionCode (defaultActionOfCode v) = v := by
  interval_cases v <;> rfl

theorem loaderRateCode_ofCode {v : Nat} (h : v ≤ 1) : loaderRateCode (loaderRateOfCode v) = v := by
  interval_cases v <;> rfl

theorem portCode_ofCode {v : Nat} (h : v ≤ 6) : (portIndex ((portOfCode v).getD .tp)).val = v := by
  interval_cases v <;> rfl

theorem unsigned16_signed16 {v : Nat} (h : v < 65536) : unsigned16 (signed16 v) = v := by
  unfold unsigned16 signed16
  split <;> omega

/-! ## One field written (R177, R201) -/

theorem parkFields_write (k : Park) {f : Nat} (h1 : 1 ≤ f) (h : f ≤ 9) (v : Nat) :
    parkFields (k.write f (legalPark f v)) = (parkFields k).set (f - 1) (legalPark f v) := by
  rcases (by omega : f ≤ 3 ∨ f = 4 ∨ f = 5 ∨ f = 6 ∨ f = 7 ∨ f = 8 ∨ f = 9) with hf | rfl | rfl | rfl | rfl | rfl | rfl
  · interval_cases f <;> rfl
  · simp [parkFields, Park.write, legalPark, defaultActionCode_ofCode, legalCode_le]
  · rfl
  · rfl
  · simp [parkFields, Park.write, legalPark, flagCode_legalFlag]
  · simp [parkFields, Park.write, legalPark, loaderRateCode_ofCode, legalFlag_le]
  · simp [parkFields, Park.write, legalPark]

theorem laneFields_write (c : LaneConfig) {f : Nat} (h1 : 1 ≤ f) (h : f ≤ 19) (v : Nat) :
    laneFields (c.write f (legalLane f v)) = (laneFields c).set (f - 1) (legalLane f v) := by
  rcases (by omega : f ≤ 17 ∨ f = 18 ∨ f = 19) with hf | rfl | rfl
  · interval_cases f <;> rfl
  · simp [laneFields, LaneConfig.write, legalLane, flagCode_legalFlag]
  · simp [laneFields, LaneConfig.write, legalLane, autoRestartCode_ofCode, legalCode_le]

theorem overrideCode_legal (v : Nat) : overrideCode (if h : legalRule 8 v < 64 then some ⟨legalRule 8 v, h⟩ else none) = legalRule 8 v := by
  by_cases h : v < 64
  · have legal : legalRule 8 v = v := if_pos h
    rw [dif_pos (by rwa [legal])]
    rfl
  · have legal : legalRule 8 v = 0xFFFF := if_neg h
    rw [dif_neg (by rw [legal]; decide), legal]
    rfl

theorem ruleFields_write (r : Rule) {f : Nat} (h1 : 1 ≤ f) (h : f ≤ 8) (v : Nat) :
    ruleFields (r.write f (legalRule f v)) = (ruleFields r).set (f - 1) (legalRule f v) := by
  interval_cases f
  · simp [ruleFields, Rule.write, legalRule, flagCode_legalFlag]
  · simp [ruleFields, Rule.write, legalRule, flagCode_legalFlag]
  · simp [ruleFields, Rule.write, legalRule, selectorCode_ofCode, legalCode_le]
  · simp [ruleFields, Rule.write, legalRule, operatorCode_ofCode, legalCode_le]
  · rfl
  · rfl
  · simp [ruleFields, Rule.write, legalRule, actionCode_ofCode, legalCode_le]
  · simp [ruleFields, Rule.write, overrideCode_legal]

theorem segmentFields_write (g : Segment) {f : Nat} (h1 : 1 ≤ f) (h : f ≤ 11) (v : Nat) :
    segmentFields (g.write f (legalSegment f v)) = (segmentFields g).set (f - 1) (legalSegment f v) := by
  interval_cases f
  · simp [segmentFields, Segment.write, legalSegment, flagCode_legalFlag]
  · rfl
  · rfl
  · simp [segmentFields, Segment.write, legalSegment, flagCode_legalFlag]
  · rfl
  · rfl
  · simp [segmentFields, Segment.write, legalSegment, flagCode_legalFlag]
  · have top : unsigned16 (legalTrim v) < 65536 := by unfold unsigned16; omega
    simp [segmentFields, Segment.write, legalSegment, unsigned16_signed16 top]
  · rfl
  · simp [segmentFields, Segment.write, legalSegment]
  · simp [segmentFields, Segment.write, legalSegment]

theorem lineFields_write (b : BoardLine) {f : Nat} (h1 : 1 ≤ f) (h : f ≤ 5) (v : Nat) :
    lineFields (b.write f (legalLine f v)) = (lineFields b).set (f - 1) (legalLine f v) := by
  interval_cases f
  · simp [lineFields, BoardLine.write, legalLine, flagCode_legalFlag]
  · rfl
  · rfl
  · have top : min 63 v < 64 := by omega
    simp [lineFields, BoardLine.write, legalLine, top]
  · simp [lineFields, BoardLine.write, legalLine, portCode_ofCode, legalCode_le]

/-! ## Every pair written (R180) -/

/-- The field values that a request stores, in the terms of the table's fields. -/
def storedFields (table : TableId) (pairs : List (Nat × Nat)) (entry : List Nat) : List Nat :=
  pairs.foldl (fun e p => e.set (p.1 - 1) (table.legalize p.1 p.2)) entry

/-- Writing legalized pairs one after another sets their fields one after another. -/
theorem fields_legalPairs {α : Type} {table : TableId} {fields : α → List Nat} {write : α → Nat → Nat → α}
    (one : ∀ (a : α) (f v : Nat), 1 ≤ f → f ≤ table.writable → fields (write a f (table.legalize f v)) =
      (fields a).set (f - 1) (table.legalize f v)) {pairs : List (Nat × Nat)} (hp : ∀ p ∈ pairs, 1 ≤ p.1 ∧ p.1 ≤ table.writable) :
    ∀ a, fields ((table.legalPairs pairs).foldl (fun a p => write a p.1 p.2) a) = storedFields table pairs (fields a) := by
  induction pairs with
  | nil => exact fun _ => rfl
  | cons p ps ih =>
    intro a
    obtain ⟨⟨h1, ht⟩, rest⟩ := List.forall_mem_cons.1 hp
    exact (ih rest _).trans (congrArg (storedFields table ps) (one a p.1 p.2 h1 ht))

section
variable {s : State} {pairs : List (Nat × Nat)}

theorem writeEntry_park_fields (hp : ∀ p ∈ pairs, 1 ≤ p.1 ∧ p.1 ≤ TableId.park.writable) :
    (s.writeEntry .park 0 (TableId.park.legalPairs pairs)).readEntry .park 0 = storedFields .park pairs (s.readEntry .park 0) := by
  have park : (s.writePark (TableId.park.legalPairs pairs)).park = _ := (congrArg State.park (writePark_frame ..) :)
  refine (congrArg parkFields park).trans ?_
  exact fields_legalPairs (table := .park) (write := Park.write) (fun k f v h1 h => parkFields_write k h1 h v) hp s.park

theorem writeEntry_lane_fields (i : Fin 64) (hp : ∀ p ∈ pairs, 1 ≤ p.1 ∧ p.1 ≤ TableId.lane.writable) :
    (s.writeEntry .lane i.val (TableId.lane.legalPairs pairs)).readEntry .lane i.val =
      storedFields .lane pairs (s.readEntry .lane i.val) := by
  have read : ∀ u : State, u.readEntry .lane i.val = laneFields (u.lane i).config := fun u => dif_pos i.isLt
  rw [read, read, writeEntry_lane, if_pos ⟨rfl, rfl⟩]
  exact fields_legalPairs (table := .lane) (write := LaneConfig.write) (fun k f v h1 h => laneFields_write k h1 h v) hp _

theorem writeEntry_segment_eq (u : State) (k : Fin 6) (pairs : List (Nat × Nat)) : u.writeEntry .segment k.val pairs = u.writeSegment k pairs :=
  dif_pos k.isLt

theorem writeSegment_segment (u : State) (k j : Fin 6) (pairs : List (Nat × Nat)) : (u.writeSegment k pairs).segment j =
    if j = k then pairs.foldl (fun g p => g.write p.1 p.2) (u.segment k) else u.segment j := by
  rw [writeSegment_frame]
  exact get_put ..

theorem writeEntry_segment_fields (k : Fin 6) (hp : ∀ p ∈ pairs, 1 ≤ p.1 ∧ p.1 ≤ TableId.segment.writable) :
    (s.writeEntry .segment k.val (TableId.segment.legalPairs pairs)).readEntry .segment k.val =
      storedFields .segment pairs (s.readEntry .segment k.val) := by
  have read : ∀ u : State, u.readEntry .segment k.val = segmentFields (u.segment k) := fun u => dif_pos k.isLt
  rw [read, read, writeEntry_segment_eq, writeSegment_segment, if_pos rfl]
  exact fields_legalPairs (table := .segment) (write := Segment.write) (fun g f v h1 h => segmentFields_write g h1 h v) hp _

end

end Sys2Proof.Machine
end

section
/-! WRITE_TABLE accepted: the answer, and the writes of one field of a LANE, RULE or BOARD_LINE entry. -/

namespace Sys2Proof.Machine

/-! ## The answer of an accepted write (R179) -/

/-- Checks 4 to 6 of R179 find nothing. -/
def State.WriteChecked (u : State) (table : TableId) (index : Nat) (pairs : List (Nat × Nat)) : Prop :=
  ∀ p ∈ pairs, ¬ (p.1 = 0 ∨ table.writable < p.1 ∨ 2 ≤ (pairs.filter fun q => decide (q.1 = p.1)).length) ∧
    ¬ (u.clock.day = .opened ∧ table = .lane ∧ (p.1 = 1 ∨ p.1 = 9 ∨ p.1 = 10)) ∧
    ¬ (table = .lane ∧ p.1 = 1 ∧ p.2 ≠ 0 ∧ ∃ j : Fin 64, j.val ≠ index ∧ (u.lane j).config.ride = min 250 p.2)

theorem writeTable_checked {u : State} {code index : Nat} {pairs : List (Nat × Nat)} {table : TableId}
    (h : tableOfCode code = some table) (hi : index < table.entries) (hc : u.WriteChecked table index pairs) :
    u.writeTable code index pairs = .accepted (u.writeEntry table index (table.legalPairs pairs))
      (pairs.any fun p => table.legalizes p.1 p.2) := by
  unfold State.writeTable
  simp only [h, if_neg (Nat.not_le.2 hi), firstPair_none (table.badField_iff pairs) fun p hp => (hc p hp).1,
    firstPair_none (shutOnly_iff u table) fun p hp => (hc p hp).2.1,
    firstPair_none (duplicateRide_iff u table index) fun p hp => (hc p hp).2.2]

/-- The status of an accepted write (R179). -/
def writeStatus (table : TableId) (pairs : List (Nat × Nat)) : Status :=
  if pairs.any fun p => table.legalizes p.1 p.2 then .okLegalized else .ok

theorem exec_writeTable_accepted {s : State} {h : MgmtHeader} {number : Byte} {index : Nat} {pairs : List (Nat × Nat)} {table : TableId}
    (hi : index < 65536) (h1 : 1 ≤ pairs.length) (h12 : pairs.length ≤ 12) (hp : ∀ p ∈ pairs, p.1 < 256 ∧ p.2 < 65536)
    (ht : tableOfCode number.toNat = some table) (hl : index < table.entries) (hc : s.WriteChecked table index pairs)
    (req : s.TakesRequest ⟨h.source, h.tag, 2, writeArgs number index pairs⟩) :
    exec (.writeTable h (writeArgs number index pairs)) s =
      .next ((s.atRequest.writeEntry table index (table.legalPairs pairs)).reply ⟨h.source, h.tag, 2, writeArgs number index pairs⟩
        (writeStatus table pairs) ([number] ++ le16 index ++ [byteOf pairs.length, 0xFF]) false) :=
  takeRequest_answered req (carryWriteTable_accepted s.atRequest number hi h1 h12 hp (writeTable_checked ht hl hc))

/-- An accepted write of one pair. -/
theorem exec_writeTable_one {s t : State} {h : MgmtHeader} {number field : Byte} {index v : Nat} {args content : List Byte}
    {table : TableId} {st : Status} (hv : v < 65536) (hi : index < 65536) (ht : tableOfCode number.toNat = some table)
    (hl : index < table.entries) (ha : args = [number] ++ le16 index ++ [1, field] ++ le16 v)
    (hn : content = [number] ++ le16 index ++ [1, 0xFF]) (hc : s.WriteChecked table index [(field.toNat, v)])
    (hs : writeStatus table [(field.toNat, v)] = st)
    (he : s.atRequest.writeEntry table index [(field.toNat, table.legalize field.toNat v)] = t)
    (req : s.TakesRequest ⟨h.source, h.tag, 2, args⟩) :
    exec (.writeTable h args) s = .next (t.reply ⟨h.source, h.tag, 2, args⟩ st content false) := by
  have single := writeArgs_single number field index v
  rw [Nat.mod_eq_of_lt hv] at single
  rw [ha, ← single] at req ⊢
  rw [hn, ← hs, ← he]
  exact exec_writeTable_accepted hi (Nat.le_refl 1) (Nat.le_add_left 1 11) (by simp; omega) ht hl hc req

/-- One writable field of any table, but for the SHUT-only fields of a lane. -/
theorem writeChecked_one (u : State) {table : TableId} (index : Nat) {f v : Nat} (h1 : 1 ≤ f) (h : f ≤ table.writable)
    (hs : table = .lane → f ≠ 1 ∧ f ≠ 9 ∧ f ≠ 10) : u.WriteChecked table index [(f, v)] := by
  intro p hp
  refine ⟨fields_single (by omega) h p hp, ?_⟩
  obtain rfl := List.mem_singleton.1 hp
  exact ⟨fun ⟨_, lane, hf⟩ => by have := hs lane; omega, fun ⟨lane, ride, _⟩ => (hs lane).1 ride⟩

theorem writeStatus_one (table : TableId) (f v : Nat) :
    writeStatus table [(f, v)] = if table.legalizes f v = true then .okLegalized else .ok := by
  simp [writeStatus]

/-! ## One field of a LANE, RULE or BOARD_LINE entry -/

/-- A write of an any-day field that does not touch the ride number changes the record alone. -/
theorem writeLane_sameRide {s : State} {i : Fin 64} {pairs : List (Nat × Nat)}
    (h : (pairs.foldl (fun c p => c.write p.1 p.2) (s.lane i).config).ride = (s.lane i).config.ride) :
    s.writeLane i pairs = s.setLane i { s.lane i with config := pairs.foldl (fun c p => c.write p.1 p.2) (s.lane i).config } := by
  refine if_pos ?_
  unfold State.homeSegment Lane.inUse
  rw [setLane_lane_same]
  dsimp only
  rw [h]
  rfl

theorem writeTable_walkTime (s : State) (h : MgmtHeader) (i : Fin 64) (v : Nat) (hv : v < 65536) :
    let args := [2, byteOf i.val, 0, 1, 3] ++ le16 v
    let req : MgmtRequest := ⟨h.source, h.tag, 2, args⟩
    s.TakesRequest req →
    exec (.writeTable h args) s = .next (State.reply { s.atRequest with
        lanes := put s.lanes i { s.lane i with config := { (s.lane i).config with walkTime := min 30 v } } }
      req (if 30 < v then .okLegalized else .ok) [2, byteOf i.val, 0, 1, 0xFF] false) := by
  intro args req hr
  refine exec_writeTable_one (table := .lane) (number := 2) (field := 3) hv (by omega) rfl i.isLt (by rw [le16_small (by omega)]; rfl)
    (by rw [le16_small (by omega)]; rfl) (writeChecked_one s i.val (by decide) (by decide) (by decide)) ?_ ?_ hr
  · rw [writeStatus_one]
    refine if_congr ?_ rfl rfl
    show (min 30 v != v) = true ↔ _
    rw [bne_iff_ne]
    omega
  · exact (dif_pos i.isLt).trans (writeLane_sameRide rfl)

theorem writeTable_ruleMask (s : State) (h : MgmtHeader) (j : Fin 24) (v : Nat) (hv : v < 65536) :
    let args := [3, byteOf j.val, 0, 1, 5] ++ le16 v
    let req : MgmtRequest := ⟨h.source, h.tag, 2, args⟩
    s.TakesRequest req →
    exec (.writeTable h args) s = .next (State.reply { s.atRequest with
      rules := put s.rules j { s.rules.get j with mask := v, hits := 0 } } req .ok [3, byteOf j.val, 0, 1, 0xFF] false) := by
  intro args req hr
  refine exec_writeTable_one (table := .rule) (number := 3) (field := 5) hv (by omega) rfl j.isLt (by rw [le16_small (by omega)]; rfl)
    (by rw [le16_small (by omega)]; rfl) (writeChecked_one s j.val (by decide) (by decide) nofun) ?_ ?_ hr
  · rw [writeStatus_one]
    exact if_neg (by simp [TableId.legalizes, TableId.legalize, TableId.isKindSet, legalRule])
  · exact dif_pos j.isLt

/-! ## BOARD_LINE writes (R128) -/

/-- Whether a write of a line marks it pending (R128). -/
def BoardLine.marks (old new : BoardLine) : Bool := new.enable && (!old.enable || decide (new.binding ≠ old.binding))

theorem BoardLine.binding_ne {old new : BoardLine} : new.binding ≠ old.binding ↔
    new.address ≠ old.address ∨ new.line ≠ old.line ∨ new.lane ≠ old.lane ∨ new.port ≠ old.port := by
  simp only [BoardLine.binding, ne_eq, Prod.mk.injEq, not_and_or]

theorem BoardLine.marks_iff {old new : BoardLine} : old.marks new = true ↔
    new.enable = true ∧ (old.enable = false ∨
      (new.address ≠ old.address ∨ new.line ≠ old.line ∨ new.lane ≠ old.lane ∨ new.port ≠ old.port)) := by
  rw [← BoardLine.binding_ne]
  simp [BoardLine.marks]

/-- The pending update that a write leaves a line (R128). -/
def State.pendingAfter (s : State) (old new : BoardLine) : Option LineContent :=
  if old.marks new then some (s.lineContent new) else if old.enable && !new.enable then none else new.pending

section
variable (s : State) {old new : BoardLine}

theorem pendingAfter_marked (h : old.marks new = true) : s.pendingAfter old new = some (s.lineContent new) := if_pos h

theorem pendingAfter_off (h : new.enable = false) : s.pendingAfter old new = if old.enable = true then none else new.pending := by
  unfold State.pendingAfter BoardLine.marks
  rw [h, Bool.false_and, if_neg Bool.false_ne_true, Bool.not_false, Bool.and_true]

theorem pendingAfter_still (h : new.enable = true) (still : ¬ old.marks new = true) : s.pendingAfter old new = new.pending := by
  unfold State.pendingAfter
  rw [if_neg still, h, Bool.not_true, Bool.and_false, if_neg Bool.false_ne_true]

end

/-- A written line, and the run of offers owed when the write marks it (R128, R138). -/
theorem writeLine_eq (s : State) (j : Fin 192) (pairs : List (Nat × Nat)) {new : BoardLine}
    (hn : pairs.foldl (fun b p => b.write p.1 p.2) (s.lines.get j) = new) : s.writeLine j pairs =
      let t := { s with lines := put s.lines j { new with pending := s.pendingAfter (s.lines.get j) new } }
      if (s.lines.get j).marks new then t.oweBoardRuns new.port 1 else t := by
  subst hn
  unfold State.writeLine State.pendingAfter BoardLine.marks
  dsimp only
  split
  · rfl
  · split <;> rfl

theorem writeEntry_line (u : State) (j : Fin 192) (pairs : List (Nat × Nat)) : u.writeEntry .boardLine j.val pairs = u.writeLine j pairs :=
  dif_pos j.isLt

theorem writeTable_lineOff (s : State) (h : MgmtHeader) (j : Fin 192) (on : (s.lines.get j).enable = true) :
    let args := [5, byteOf j.val, 0, 1, 1, 0, 0]
    let req : MgmtRequest := ⟨h.source, h.tag, 2, args⟩
    s.TakesRequest req →
    exec (.writeTable h args) s = .next (State.reply { s.atRequest with
      lines := put s.lines j { s.lines.get j with enable := false, pending := none } } req .ok [5, byteOf j.val, 0, 1, 0xFF] false) := by
  intro args req hr
  refine exec_writeTable_one (table := .boardLine) (number := 5) (field := 1) (v := 0) (by decide) (by omega) rfl j.isLt
    (by rw [le16_small (by omega)]; rfl) (by rw [le16_small (by omega)]; rfl)
    (writeChecked_one s j.val (by decide) (by decide) nofun) (by decide) ?_ hr
  have dropped : s.atRequest.pendingAfter (s.lines.get j) { s.lines.get j with enable := false } = none :=
    (pendingAfter_off _ rfl).trans (if_pos on)
  refine (writeEntry_line ..).trans ((writeLine_eq s.atRequest j [(1, 0)] rfl).trans ?_)
  exact congrArg (fun c => { s.atRequest with lines := put s.lines j { s.lines.get j with enable := false, pending := c } }) dropped

/-- One run of board offers owed to a port whose link is UP. -/
theorem oweBoardRuns_ports (s : State) (p : Port) : s.oweBoardRuns p 1 = { s with
    ports := if s.linkUp p = true then put s.ports (portIndex p) { s.port p with boardRuns := (s.port p).boardRuns + 1 } else s.ports } := by
  unfold State.oweBoardRuns
  split
  · rfl
  · rfl

theorem writeTable_lineMarked (s : State) (h : MgmtHeader) (j : Fin 192) (field v : Byte) :
    let args := [5, byteOf j.val, 0, 1, field, v, 0]
    let req : MgmtRequest := ⟨h.source, h.tag, 2, args⟩
    let old := s.lines.get j
    let marks := fun new : BoardLine => exec (.writeTable h args) s = .next (State.reply { s.atRequest with
        lines := put s.lines j { new with pending := some (s.lineContent new) }
        ports := if s.linkUp new.port = true then
          put s.ports (portIndex new.port) { s.port new.port with boardRuns := (s.port new.port).boardRuns + 1 } else s.ports }
      req .ok [5, byteOf j.val, 0, 1, 0xFF] false)
    s.TakesRequest req →
    (old.enable = false → field = 1 → v = 1 → marks { old with enable := true }) ∧
    (∀ i : Fin 64, old.enable = true → field = 4 → v.toNat = i.val → i ≠ old.lane → marks { old with lane := i }) := by
  intro args req old marks hr
  have args_eq : args = [5] ++ le16 j.val ++ [1, field] ++ le16 v.toNat := by
    rw [le16_small (by omega), le16_small v.isLt, byteOf_val]
    rfl
  have answer : ∀ new : BoardLine, 1 ≤ field.toNat → field.toNat ≤ 5 → TableId.boardLine.legalizes field.toNat v.toNat = false →
      old.write field.toNat (legalLine field.toNat v.toNat) = new → old.marks new = true → marks new := fun new h1 h5 hl hw hm => by
    refine exec_writeTable_one (table := .boardLine) (number := 5) (by omega) (by omega) rfl j.isLt args_eq
      (by rw [le16_small (by omega)]; rfl) (writeChecked_one s j.val h1 h5 nofun) (by rw [writeStatus_one, hl]; rfl) ?_ hr
    refine (writeEntry_line ..).trans ((writeLine_eq s.atRequest j [(field.toNat, legalLine field.toNat v.toNat)] hw).trans ?_)
    refine (if_pos hm).trans ?_
    rw [oweBoardRuns_ports]
    refine congrArg (fun c => { s.atRequest with
      lines := put s.lines j { new with pending := c }
      ports := if s.linkUp new.port = true then
        put s.ports (portIndex new.port) { s.port new.port with boardRuns := (s.port new.port).boardRuns + 1 } else s.ports })
      (pendingAfter_marked s hm)
  refine ⟨fun off hf hv => ?_, fun i on hf hv hi => ?_⟩
  · subst hf hv
    exact answer _ (by decide) (by decide) (by decide) rfl (BoardLine.marks_iff.2 ⟨rfl, .inl off⟩)
  · subst hf
    have legal : legalLine 4 i.val = i.val := Nat.min_eq_right (by omega)
    refine answer { old with lane := i } (by decide) (by decide) ?_ ?_ (BoardLine.marks_iff.2 ⟨on, .inr (.inr (.inr (.inl hi)))⟩)
    · rw [hv]
      show (legalLine 4 i.val != i.val) = false
      rw [legal, bne_self_eq_false]
    · rw [hv]
      show old.write 4 (legalLine 4 i.val) = _
      rw [legal, BoardLine.write, dif_pos i.isLt]

/-! ## RULE and BOARD_LINE writes of several pairs (R94, R127, R128) -/

/-- A request of 1 to 12 pairs that name different writable fields. -/
def WriteRequest (table : TableId) (pairs : List (Nat × Nat)) : Prop :=
  1 ≤ pairs.length ∧ pairs.length ≤ 12 ∧ (pairs.map Prod.fst).Nodup ∧ ∀ p ∈ pairs, 1 ≤ p.1 ∧ p.1 ≤ table.writable ∧ p.2 < 65536

theorem TableId.writable_le (table : TableId) : table.writable ≤ 19 := by cases table <;> decide

theorem WriteRequest.bytes {table : TableId} {pairs : List (Nat × Nat)} (h : WriteRequest table pairs) :
    ∀ p ∈ pairs, p.1 < 256 ∧ p.2 < 65536 := fun p hp => by
  obtain ⟨-, -, -, fields⟩ := h
  obtain ⟨-, top, value⟩ := fields p hp
  have := table.writable_le
  exact ⟨by omega, value⟩

theorem WriteRequest.fields {table : TableId} {pairs : List (Nat × Nat)} (h : WriteRequest table pairs) :
    ∀ p ∈ pairs, 1 ≤ p.1 ∧ p.1 ≤ table.writable := fun p hp => ⟨(h.2.2.2 p hp).1, (h.2.2.2 p hp).2.1⟩

/-- Such a request passes the checks of R179 when it writes no SHUT-only lane field on an OPEN day and no other lane's ride number. -/
theorem WriteRequest.checked {table : TableId} {pairs : List (Nat × Nat)} (h : WriteRequest table pairs) {u : State} {index : Nat}
    (shut : table = .lane → u.clock.day = .opened → ∀ p ∈ pairs, p.1 ≠ 1 ∧ p.1 ≠ 9 ∧ p.1 ≠ 10)
    (rides : table = .lane → ∀ v : Nat, (1, v) ∈ pairs → min 250 v ≠ 0 →
      ∀ j : Fin 64, j.val ≠ index → (u.lane j).config.ride ≠ min 250 v) : u.WriteChecked table index pairs := by
  obtain ⟨-, -, different, fields⟩ := h
  refine fun p hp => ⟨?_, fun ⟨day, lane, hf⟩ => ?_, fun ⟨lane, ride, value, j, other, same⟩ => ?_⟩
  · obtain ⟨low, high, -⟩ := fields p hp
    have once : (pairs.filter fun q => decide (q.1 = p.1)).length ≤ 1 := by
      rw [← List.countP_eq_length_filter]
      have count := List.nodup_iff_count_le_one.1 different p.1
      rw [List.count, List.countP_map] at count
      exact count
    omega
  · obtain ⟨h1, h9, h10⟩ := shut lane day p hp
    omega
  · obtain ⟨f, v⟩ := p
    subst ride
    exact rides lane v hp (by omega) j other same

/-- The answer to such a request. -/
theorem exec_writeRequest {s : State} {h : MgmtHeader} {number : Byte} {index : Nat} {pairs : List (Nat × Nat)} {table : TableId}
    (hr : WriteRequest table pairs) (hi : index < 65536) (ht : tableOfCode number.toNat = some table) (hl : index < table.entries)
    (hc : s.WriteChecked table index pairs) (req : s.TakesRequest ⟨h.source, h.tag, 2, writeArgs number index pairs⟩) :
    exec (.writeTable h (writeArgs number index pairs)) s =
      .next ((s.atRequest.writeEntry table index (table.legalPairs pairs)).reply ⟨h.source, h.tag, 2, writeArgs number index pairs⟩
        (writeStatus table pairs) ([number] ++ le16 index ++ [byteOf pairs.length, 0xFF]) false) :=
  exec_writeTable_accepted hi hr.1 hr.2.1 hr.bytes ht hl hc req

theorem writeTable_rule (s : State) (h : MgmtHeader) (j : Fin 24) (pairs : List (Nat × Nat)) (hr : WriteRequest .rule pairs) :
    let req : MgmtRequest := ⟨h.source, h.tag, 2, writeArgs (byteOf 3) j.val pairs⟩
    s.TakesRequest req →
    ∃ t : State,
      exec (.writeTable h (writeArgs (byteOf 3) j.val pairs)) s =
        .next (t.reply req (writeStatus .rule pairs) ([byteOf 3] ++ le16 j.val ++ [byteOf pairs.length, 0xFF]) false) ∧
      t = { s.atRequest with rules := t.rules } ∧ (∀ i : Fin 24, i ≠ j → t.rules.get i = s.rules.get i) ∧
      t.readEntry .rule j.val = (storedFields .rule pairs (s.readEntry .rule j.val)).set 8 0 := by
  intro req taken
  have answer := exec_writeRequest (number := byteOf 3) hr (by omega) rfl j.isLt (hr.checked nofun nofun) taken
  rw [show s.atRequest.writeEntry .rule j.val (TableId.rule.legalPairs pairs) = s.atRequest.writeRule j (TableId.rule.legalPairs pairs)
    from dif_pos j.isLt] at answer
  refine ⟨_, answer, rfl, fun i hi => get_put_other _ _ hi, ?_⟩
  have read : ∀ u : State, u.readEntry .rule j.val = ruleFields (u.rules.get j) := fun u => dif_pos j.isLt
  have stored := fields_legalPairs (table := .rule) (write := Rule.write) (fun r f v h1 h => ruleFields_write r h1 h v) hr.fields
    (s.rules.get j)
  rw [read, read, ← stored, State.writeRule, get_put_same]
  rfl

theorem BoardLine.write_pending (b : BoardLine) (f v : Nat) : (b.write f v).pending = b.pending := by
  unfold BoardLine.write
  split <;> rfl

theorem BoardLine.writes_pending (pairs : List (Nat × Nat)) (b : BoardLine) :
    (pairs.foldl (fun b p => b.write p.1 p.2) b).pending = b.pending := by
  induction pairs generalizing b with
  | nil => rfl
  | cons p ps ih => exact (ih _).trans (b.write_pending ..)

theorem storedFields_take {table : TableId} (pairs : List (Nat × Nat)) (n : Nat) (entry : List Nat) :
    (storedFields table pairs entry).take n = storedFields table pairs (entry.take n) := by
  induction pairs generalizing entry with
  | nil => rfl
  | cons p ps ih =>
    show (storedFields table ps (entry.set _ _)).take n = storedFields table ps ((entry.take n).set _ _)
    rw [ih, List.take_set]

section
variable (s : State) (j : Fin 192) (pairs : List (Nat × Nat))

/-- The line a write gives, before its pending update. -/
def State.rewritten (s : State) (j : Fin 192) (pairs : List (Nat × Nat)) : BoardLine :=
  pairs.foldl (fun b p => b.write p.1 p.2) (s.lines.get j)

theorem writeLine_lines : (s.writeLine j pairs).lines =
    put s.lines j { s.rewritten j pairs with pending := s.pendingAfter (s.lines.get j) (s.rewritten j pairs) } := by
  rw [writeLine_eq s j pairs rfl]
  dsimp only
  split
  · exact oweBoardRuns_lines ..
  · rfl

theorem writeLine_port (p : Port) : (s.writeLine j pairs).port p = { s.port p with
    boardRuns := (s.port p).boardRuns +
      if (s.lines.get j).marks (s.rewritten j pairs) = true ∧ p = (s.rewritten j pairs).port ∧ s.linkUp p = true then 1 else 0 } := by
  rw [writeLine_eq s j pairs rfl]
  dsimp only
  rw [show pairs.foldl (fun b p => b.write p.1 p.2) (s.lines.get j) = s.rewritten j pairs from rfl]
  generalize s.rewritten j pairs = new
  split
  · next marked =>
    simp only [marked, true_and]
    unfold State.oweBoardRuns
    split
    · next up =>
      rw [setPort_port]
      by_cases e : p = new.port
      · subst e
        rw [if_pos rfl, if_pos ⟨rfl, up⟩]
        rfl
      · rw [if_neg e, if_neg (not_and_of_not_left _ e)]
        rfl
    · next down =>
      rw [if_neg fun (c : p = new.port ∧ s.linkUp p = true) => down (c.1 ▸ c.2)]
      rfl
  · next unmarked =>
    rw [if_neg (not_and_of_not_left _ unmarked)]
    rfl

end

theorem writeTable_line (s : State) (h : MgmtHeader) (j : Fin 192) (pairs : List (Nat × Nat)) (hr : WriteRequest .boardLine pairs) :
    let req : MgmtRequest := ⟨h.source, h.tag, 2, writeArgs (byteOf 5) j.val pairs⟩
    s.TakesRequest req →
    ∃ t : State,
      let old := s.lines.get j
      let new := t.lines.get j
      let moved := new.address ≠ old.address ∨ new.line ≠ old.line ∨ new.lane ≠ old.lane ∨ new.port ≠ old.port
      let marks := new.enable = true ∧ (old.enable = false ∨ moved)
      exec (.writeTable h (writeArgs (byteOf 5) j.val pairs)) s =
        .next (t.reply req (writeStatus .boardLine pairs) ([byteOf 5] ++ le16 j.val ++ [byteOf pairs.length, 0xFF]) false) ∧
      t = { s.atRequest with lines := t.lines, ports := t.ports } ∧
      (∀ i : Fin 192, i ≠ j → t.lines.get i = s.lines.get i) ∧
      (t.readEntry .boardLine j.val).take 5 = storedFields .boardLine pairs ((s.readEntry .boardLine j.val).take 5) ∧
      (marks → new.pending = some (s.lineContent new)) ∧
      (new.enable = false → new.pending = if old.enable = true then none else old.pending) ∧
      (new.enable = true → old.enable = true → ¬ moved → new.pending = old.pending) ∧
      ∀ p : Port, t.port p = { s.port p with
        boardRuns := (s.port p).boardRuns + (if marks ∧ p = new.port ∧ s.linkUp p = true then 1 else 0) } := by
  intro req taken
  have answer := exec_writeRequest (number := byteOf 5) hr (by omega) rfl j.isLt (hr.checked nofun nofun) taken
  rw [writeEntry_line] at answer
  have stored := fields_legalPairs (table := .boardLine) (write := BoardLine.write) (fun b f v h1 h => lineFields_write b h1 h v)
    hr.fields (s.lines.get j)
  have pending : (s.rewritten j (TableId.boardLine.legalPairs pairs)).pending = (s.lines.get j).pending := BoardLine.writes_pending ..
  have lines := writeLine_lines s.atRequest j (TableId.boardLine.legalPairs pairs)
  have port := writeLine_port s.atRequest j (TableId.boardLine.legalPairs pairs)
  have frame := writeLine_frame s.atRequest j (TableId.boardLine.legalPairs pairs)
  have rewritten : s.atRequest.rewritten j (TableId.boardLine.legalPairs pairs) = s.rewritten j (TableId.boardLine.legalPairs pairs) := rfl
  have entry : lineFields (s.rewritten j (TableId.boardLine.legalPairs pairs)) =
      storedFields .boardLine pairs (lineFields (s.lines.get j)) := stored
  rw [rewritten] at lines
  simp only [rewritten] at port
  revert answer lines frame port
  generalize s.atRequest.writeLine j (TableId.boardLine.legalPairs pairs) = t
  generalize s.rewritten j (TableId.boardLine.legalPairs pairs) = new at *
  intro answer lines frame port
  have line : t.lines.get j = { new with pending := s.pendingAfter (s.lines.get j) new } := by
    rw [lines]
    exact get_put_same ..
  have read : ∀ u : State, u.readEntry .boardLine j.val = lineFields (u.lines.get j) := fun u => dif_pos j.isLt
  refine ⟨t, answer, frame, fun i hi => by rw [lines]; exact get_put_other _ _ hi, ?_, ?_⟩
  · rw [read, read, line, ← storedFields_take, ← entry]
    rfl
  · rw [line]
    refine ⟨fun marks => ?_, fun off => ?_, fun on was still => ?_, fun p => ?_⟩
    · exact pendingAfter_marked s (BoardLine.marks_iff.2 marks)
    · exact (pendingAfter_off (new := new) s off).trans (by rw [pending])
    · have unmarked : ¬ (s.lines.get j).marks new = true := fun m =>
        (BoardLine.marks_iff.1 m).2.elim (fun off => absurd was (by rw [off]; decide)) still
      exact (pendingAfter_still (new := new) s on unmarked).trans pending
    · rw [port, if_congr (and_congr_left' BoardLine.marks_iff) rfl rfl]
      rfl

end Sys2Proof.Machine
end

section
/-! The reports after a table write: what moves between destinations, and what a production or a flush leaves of its slot. -/

namespace Sys2Proof.Machine

/-! ## Reports that have not changed -/

/-- A report shows the pending lanes of its destination, its enable set, the sources of the trunk and the notices (R164). -/
theorem report_congr {s t : State} {d : Port} (lanes : ∀ k ∈ laneKinds, t.pendingLanes k d = s.pendingLanes k d)
    (enables : t.enableSet d = s.enableSet d) (hh : t.ring.headHeld = s.ring.headHeld)
    (ha : t.attn = { s.attn with ports := t.attn.ports }) : t.report d = s.report d := by
  have sources : ∀ k, t.pendingSources d k = s.pendingSources d k := by
    intro k
    cases k <;> simp only [State.pendingSources, hh, congrArg Attention.imageFault ha, congrArg Attention.registerFull ha,
      congrArg Attention.clockEnd ha, congrArg Attention.overruns ha, congrArg Attention.notices ha] <;>
      rw [lanes _ (by decide)]
  have notice : t.reportNotice d = s.reportNotice d := by
    cases d with
    | tp => rfl
    | sp z =>
      have zone : (t.segment z).zoneEnables = (s.segment z).zoneEnables := enables
      rw [State.reportNotice, State.reportNotice, zone, congrArg Attention.notices ha]
  have kinds : t.kindReport d = s.kindReport d := funext fun k => by simp only [State.kindReport, enables, sources]
  rw [State.report, State.report, kinds, notice]

theorem mem_moved {s t : State} {d : Port} : d ∈ s.moved t ↔ ∃ k ∈ laneKinds, s.pendingLanes k d ≠ t.pendingLanes k d := by
  simp [State.moved, mem_allPorts]

/-- Where no source has moved, a report changes with its enable set alone (R163, R164). -/
theorem report_of_not_moved {s t : State} {d : Port} (h : d ∉ s.moved t) (enables : t.enableSet d = s.enableSet d)
    (hh : t.ring.headHeld = s.ring.headHeld) (ha : t.attn = { s.attn with ports := t.attn.ports }) : t.report d = s.report d :=
  report_congr (fun k hk => by_contra fun e => h (mem_moved.2 ⟨k, hk, fun same => e same.symm⟩)) enables hh ha

theorem mem_pendingLanes {s : State} {k : AttnKind} {d : Port} {i : Fin 64} :
    i.val ∈ s.pendingLanes k d ↔ s.laneKindPending k i = true ∧ s.laneRoute k i = d := by
  simp [State.pendingLanes, Fin.val_inj]

/-- Only the four lane kinds are pending for lanes (R159). -/
theorem laneKind_of_pending {s : State} {k : AttnKind} {i : Fin 64} (h : s.laneKindPending k i = true) : k ∈ laneKinds := by
  cases k with
  | laneDown | laneStale | countSkew | grantLow => decide
  | _ => exact absurd h Bool.false_ne_true

/-- Both destinations of a moved source are among those between which the write has moved sources (R163). -/
theorem mem_moved_of_route {s t : State} {k : AttnKind} {i : Fin 64} (hs : s.laneKindPending k i = true)
    (ht : t.laneKindPending k i = true) (hr : s.laneRoute k i ≠ t.laneRoute k i) {d : Port}
    (hd : d = s.laneRoute k i ∨ d = t.laneRoute k i) : d ∈ s.moved t := by
  have kind := laneKind_of_pending hs
  refine mem_moved.2 ⟨k, kind, fun same => ?_⟩
  have mem := congrArg (i.val ∈ ·) same
  simp only [mem_pendingLanes, hs, ht, true_and, eq_iff_iff] at mem
  rcases hd with rfl | rfl
  · exact hr (mem.1 rfl).symm
  · exact hr (mem.2 rfl)

/-! ## What follows from a report that follows -/

/-- A report that follows and has changed is the last one produced. -/
theorem State.ReportFollows.last_of_changed {s t : State} {d : Port} (h : s.ReportFollows t d) (hc : t.report d ≠ s.report d) :
    (t.attnPort d).last = t.report d := by
  rcases h with ⟨same, -, kept | last⟩ | ⟨last, -⟩
  · exact absurd kept hc
  · rw [same, last]
  · exact last

theorem State.ReportFollows.congr {s t u : State} {d : Port} (h : s.ReportFollows t d) (ha : u.attnPort d = t.attnPort d)
    (hp : u.port d = t.port d) (hr : u.report d = t.report d) (hf : ∀ r, u.attnFrame d r = t.attnFrame d r) : s.ReportFollows u d := by
  unfold State.ReportFollows at h ⊢
  rwa [ha, hp, hr, hf]

/-- A destination whose last report is its report is left alone by further re-evaluations. -/
theorem evaluateEach_settled {u : State} {d : Port} (h : (u.attnPort d).last = u.report d) (ds : List Port) :
    (u.evaluateEach ds).attnPort d = u.attnPort d ∧ (u.evaluateEach ds).port d = u.port d := by
  by_cases hd : d ∈ ds
  · obtain ⟨slot, port⟩ := evaluateEach_mem u hd
    rw [slot, port, evaluate_of_last h]
    exact ⟨rfl, rfl⟩
  · exact evaluateEach_other u hd

/-- A slot and a queue as they were, and then re-evaluations that reach every destination whose report has changed. -/
theorem evaluateEach_reportFollows {s u : State} {ds : List Port} {d : Port} (ha : u.attnPort d = s.attnPort d)
    (ht : (u.port d).tx = (s.port d).tx) (hr : d ∉ ds → u.report d = s.report d) : s.ReportFollows (u.evaluateEach ds) d := by
  by_cases hd : d ∈ ds
  · obtain ⟨slot, port⟩ := evaluateEach_mem u hd
    exact (evaluate_reportFollows ha ht).congr slot port (by simp) (by simp)
  · obtain ⟨slot, port⟩ := evaluateEach_other u hd
    exact .inl ⟨slot.trans ha, by rw [port]; exact ht, .inl (by simpa using hr hd)⟩

/-! ## A production of the report (R165, R166) -/

section
variable (s : State) (d : Port)

theorem produce_eq : s.produce d = s.produceQuietly d ∨ s.produce d = (s.produceQuietly d).oweOffer d := by
  unfold State.produce
  split
  · dsimp only
    split
    · exact .inr rfl
    · exact .inl rfl
  · exact .inl rfl

theorem produce_report (e : Port) : (s.produce d).report e = s.report e := (congrArg (State.report · e) (s.produce_frame d)).trans rfl

theorem produce_attnFrame (e : Port) (r : Report) : (s.produce d).attnFrame e r = s.attnFrame e r :=
  (congrArg (State.attnFrame · e r) (s.produce_frame d)).trans rfl

theorem produceQuietly_other {e : Port} (h : e ≠ d) :
    (s.produceQuietly d).attnPort e = s.attnPort e ∧ (s.produceQuietly d).port e = s.port e := by
  by_cases hq : (s.attnPort d).slot = .queued
  · rw [produceQuietly_queued hq, setAttnPort_attnPort_other _ _ h, setPort_attnPort, setAttnPort_port, setPort_port_other _ _ h]
    exact ⟨rfl, rfl⟩
  · rw [produceQuietly_prepared hq, setAttnPort_attnPort_other _ _ h, setAttnPort_port]
    exact ⟨rfl, rfl⟩

/-- What an offer owed leaves of every destination but its count. -/
theorem oweOffer_kept (e : Port) : (e ≠ d → (s.oweOffer d).attnPort e = s.attnPort e) ∧
    ((s.oweOffer d).attnPort e).last = (s.attnPort e).last ∧ ((s.oweOffer d).attnPort e).slot = (s.attnPort e).slot ∧
    (s.oweOffer d).port e = s.port e := by
  unfold State.oweOffer
  split
  · by_cases he : e = d
    · subst he
      rw [setAttnPort_attnPort_same]
      exact ⟨fun h => absurd rfl h, rfl, rfl, setAttnPort_port ..⟩
    · rw [setAttnPort_attnPort_other _ _ he]
      exact ⟨fun _ => rfl, rfl, rfl, setAttnPort_port ..⟩
  · exact ⟨fun _ => rfl, rfl, rfl, rfl⟩

theorem produce_other {e : Port} (h : e ≠ d) : (s.produce d).attnPort e = s.attnPort e ∧ (s.produce d).port e = s.port e := by
  obtain ⟨slot, port⟩ := produceQuietly_other s d h
  rcases produce_eq s d with eq | eq <;> rw [eq]
  · exact ⟨slot, port⟩
  · obtain ⟨same, -, -, kept⟩ := oweOffer_kept (s.produceQuietly d) d e
    exact ⟨(same h).trans slot, kept.trans port⟩

theorem produceQuietly_last : ((s.produceQuietly d).attnPort d).last = s.report d := by
  by_cases hq : (s.attnPort d).slot = .queued
  · rw [produceQuietly_queued hq, setAttnPort_attnPort_same]
  · rw [produceQuietly_prepared hq, setAttnPort_attnPort_same]

theorem produce_last : ((s.produce d).attnPort d).last = s.report d := by
  rcases produce_eq s d with eq | eq <;> rw [eq]
  · exact produceQuietly_last s d
  · exact (oweOffer_kept ..).2.1.trans (produceQuietly_last s d)

theorem produce_prepared {s : State} {d : Port} (h : (s.attnPort d).slot ≠ .queued) :
    ((s.produce d).attnPort d).slot = .prepared (s.attnFrame d (s.report d)) ∧ (s.produce d).port d = s.port d := by
  have quiet : ((s.produceQuietly d).attnPort d).slot = .prepared (s.attnFrame d (s.report d)) ∧
      (s.produceQuietly d).port d = s.port d := by
    rw [produceQuietly_prepared h, setAttnPort_attnPort_same]
    exact ⟨rfl, rfl⟩
  rcases produce_eq s d with eq | eq <;> rw [eq]
  · exact quiet
  · obtain ⟨-, -, slot, port⟩ := oweOffer_kept (s.produceQuietly d) d d
    exact ⟨slot.trans quiet.1, port.trans quiet.2⟩

theorem produce_queued {s : State} {d : Port} (h : (s.attnPort d).slot = .queued) :
    ((s.produce d).attnPort d).slot = .queued ∧ (s.produce d).port d =
      { s.port d with tx := rewriteWaiting (s.port d).sending (s.port d).tx (s.attnFrame d (s.report d)) } := by
  have quiet : s.produce d = s.produceQuietly d := by
    unfold State.produce
    rw [h]
  rw [quiet, produceQuietly_queued h, setAttnPort_attnPort_same, setAttnPort_port, setPort_port_same]
  exact ⟨h, rfl⟩

end

/-- A production after changes that left slot and queue alone (R164, R165). -/
theorem produce_reportFollows {s u : State} {d : Port} (ha : u.attnPort d = s.attnPort d) (ht : (u.port d).tx = (s.port d).tx) :
    s.ReportFollows (u.produce d) d := by
  refine .inr ⟨by rw [produce_last, produce_report], ?_⟩
  rw [produce_report, produce_attnFrame, ← ha, ← ht]
  cases hs : (u.attnPort d).slot with
  | queued =>
    obtain ⟨slot, port⟩ := produce_queued hs
    rw [port]
    exact ⟨slot, fun n f hf hp hn => rewriteWaiting_bytes hf hp hn⟩
  | empty => 
    obtain ⟨slot, port⟩ := produce_prepared (s := u) (d := d) (by rw [hs]; exact nofun)
    exact ⟨slot, by rw [port]⟩
  | prepared f =>
    obtain ⟨slot, port⟩ := produce_prepared (s := u) (d := d) (by rw [hs]; exact nofun)
    exact ⟨slot, by rw [port]⟩

/-! ## What a list of pairs leaves of a record -/

/-- Pairs that each leave a property of a record leave it together. -/
theorem foldl_leaves {α β : Type} {write : α → Nat → Nat → α} (f : α → β) {pairs : List (Nat × Nat)}
    (h : ∀ p ∈ pairs, ∀ a, f (write a p.1 p.2) = f a) (a : α) : f (pairs.foldl (fun a p => write a p.1 p.2) a) = f a := by
  induction pairs generalizing a with
  | nil => rfl
  | cons p ps ih =>
    obtain ⟨one, rest⟩ := List.forall_mem_cons.1 h
    exact (ih rest _).trans (one a)

theorem Segment.writes_enable {pairs : List (Nat × Nat)} (h : ¬ ∃ p ∈ pairs, p.1 = 1) (g : Segment) :
    (pairs.foldl (fun g p => g.write p.1 p.2) g).enable = g.enable := by
  refine foldl_leaves (write := Segment.write) Segment.enable (fun p hp g => ?_) g
  unfold Segment.write
  split
  · next hf => exact absurd ⟨p, hp, hf⟩ h
  all_goals rfl

theorem Segment.writes_zoneEnables {pairs : List (Nat × Nat)} (h : ¬ ∃ p ∈ pairs, p.1 = 11) (g : Segment) :
    (pairs.foldl (fun g p => g.write p.1 p.2) g).zoneEnables = g.zoneEnables := by
  refine foldl_leaves (write := Segment.write) Segment.zoneEnables (fun p hp g => ?_) g
  unfold Segment.write
  split
  case h_11 => exact absurd ⟨p, hp, ‹_›⟩ h
  all_goals rfl

theorem Park.writes_trunkEnables {pairs : List (Nat × Nat)} (h : ¬ ∃ p ∈ pairs, p.1 = 9) (k : Park) :
    (pairs.foldl (fun k p => k.write p.1 p.2) k).trunkEnables = k.trunkEnables := by
  refine foldl_leaves (write := Park.write) Park.trunkEnables (fun p hp k => ?_) k
  unfold Park.write
  split
  case h_9 => exact absurd ⟨p, hp, ‹_›⟩ h
  all_goals rfl

theorem LaneConfig.writes_ride {pairs : List (Nat × Nat)} (h : ∀ p ∈ pairs, p.1 ≠ 1) (c : LaneConfig) :
    (pairs.foldl (fun c p => c.write p.1 p.2) c).ride = c.ride := by
  refine foldl_leaves (write := LaneConfig.write) LaneConfig.ride (fun p hp c => ?_) c
  unfold LaneConfig.write
  split
  · next hf => exact absurd hf (h p hp)
  all_goals rfl

/-- Legalizing changes no field name. -/
theorem exists_legalPairs (table : TableId) (pairs : List (Nat × Nat)) (c : Nat → Prop) :
    (∃ p ∈ table.legalPairs pairs, c p.1) ↔ ∃ p ∈ pairs, c p.1 := by
  simp [TableId.legalPairs]

end Sys2Proof.Machine
end

section
/-! PARK, LANE and SEGMENT writes: the reports that follow, and what the ports keep. -/

namespace Sys2Proof.Machine

/-! ## A report sent again, and one re-evaluated (R164, R166) -/

/-- The report of `d` produced when a write sends it again, and re-evaluated when a write changes its enable set. -/
def State.resent (u : State) (d : Port) (again changed : Bool) : State :=
  let t := if again then u.produce d else u
  if changed then t.evaluate d else t

section
variable (u : State) (d : Port) (again changed : Bool)

theorem produce_onlyReports : u.OnlyReports (u.produce d) :=
  ⟨u.produce_frame d, produce_portsKept u d, .of_boardRuns (produce_boardRuns u d)⟩

/-- A report just produced is not produced a second time. -/
theorem resent_cases : (again = true ∧ u.resent d again changed = u.produce d) ∨
    (again = false ∧ changed = true ∧ u.resent d again changed = u.evaluate d) ∨
    (again = false ∧ changed = false ∧ u.resent d again changed = u) := by
  have settled : (u.produce d).evaluate d = u.produce d := evaluate_of_last (by rw [produce_last, produce_report])
  cases again with
  | true =>
    refine .inl ⟨rfl, ?_⟩
    cases changed with
    | true => exact settled
    | false => rfl
  | false =>
    cases changed with
    | true => exact .inr (.inl ⟨rfl, rfl, rfl⟩)
    | false => exact .inr (.inr ⟨rfl, rfl, rfl⟩)

theorem resent_onlyReports : u.OnlyReports (u.resent d again changed) := by
  rcases resent_cases u d again changed with ⟨-, eq⟩ | ⟨-, -, eq⟩ | ⟨-, -, eq⟩ <;> rw [eq]
  · exact produce_onlyReports u d
  · exact evaluate_onlyReports u d
  · exact .refl u

theorem resent_other {e : Port} (h : e ≠ d) :
    (u.resent d again changed).attnPort e = u.attnPort e ∧ (u.resent d again changed).port e = u.port e := by
  rcases resent_cases u d again changed with ⟨-, eq⟩ | ⟨-, -, eq⟩ | ⟨-, -, eq⟩ <;> rw [eq]
  · exact produce_other u d h
  · exact evaluate_other u h
  · exact ⟨rfl, rfl⟩

theorem resent_last (h : again = true ∨ changed = true) : ((u.resent d again changed).attnPort d).last = u.report d := by
  rcases resent_cases u d again changed with ⟨-, eq⟩ | ⟨-, -, eq⟩ | ⟨not, none, -⟩
  · rw [eq, produce_last]
  · rw [eq, evaluate_last]
  · simp [not, none] at h

theorem resent_reportFollows {s : State} (ha : u.attnPort d = s.attnPort d) (ht : (u.port d).tx = (s.port d).tx)
    (hr : again = false → changed = false → u.report d = s.report d) : s.ReportFollows (u.resent d again changed) d := by
  rcases resent_cases u d again changed with ⟨-, eq⟩ | ⟨-, -, eq⟩ | ⟨not, none, eq⟩ <;> rw [eq]
  · exact produce_reportFollows ha ht
  · exact evaluate_reportFollows ha ht
  · exact .inl ⟨ha, ht, .inl (hr not none)⟩

end

/-! ## PARK (R164, R166) -/

section
variable (u : State) (qs : List (Nat × Nat))

/-- The park record as the pairs leave it. -/
def State.parkSet (u : State) (qs : List (Nat × Nat)) : State := { u with park := qs.foldl (fun k p => k.write p.1 p.2) u.park }

theorem writePark_eq : u.writePark qs = (u.parkSet qs).resent .tp (qs.any fun p => p.1 == 5) (qs.any fun p => p.1 == 9) := rfl

theorem any_field {f : Nat} : (qs.any fun p => p.1 == f) = true ↔ ∃ p ∈ qs, p.1 = f := by simp

theorem parkSet_report {d : Port} (h : d = .tp → ¬ ∃ p ∈ qs, p.1 = 9) : (u.parkSet qs).report d = u.report d := by
  refine report_congr (fun k _ => rfl) ?_ rfl rfl
  cases d with
  | tp => exact Park.writes_trunkEnables (h rfl) u.park
  | sp z => rfl

theorem writePark_reportsFollow : u.ReportsFollow (u.writePark qs) := by
  intro d
  rw [writePark_eq]
  by_cases hd : d = .tp
  · subst hd
    exact resent_reportFollows (u.parkSet qs) .tp _ _ rfl rfl fun _ unchanged =>
      parkSet_report u qs fun _ h => Bool.eq_false_iff.1 unchanged ((any_field qs).2 h)
  · obtain ⟨slot, port⟩ := resent_other (u.parkSet qs) .tp (qs.any fun p => p.1 == 5) (qs.any fun p => p.1 == 9) hd
    refine .inl ⟨slot, by rw [port]; rfl, .inl ?_⟩
    rw [(resent_onlyReports ..).report]
    exact parkSet_report u qs fun e => absurd e hd

theorem writePark_last (h : ∃ p ∈ qs, p.1 = 5 ∨ p.1 = 9) : ((u.writePark qs).attnPort .tp).last = (u.writePark qs).report .tp := by
  rw [writePark_eq, (resent_onlyReports ..).report]
  refine resent_last _ _ _ _ ?_
  obtain ⟨p, hp, h5 | h9⟩ := h
  · exact .inl ((any_field qs).2 ⟨p, hp, h5⟩)
  · exact .inr ((any_field qs).2 ⟨p, hp, h9⟩)

theorem writePark_portsKept : u.PortsKept (u.writePark qs) :=
  State.PortsKept.trans (t := u.parkSet qs) (.of_ports rfl) (resent_onlyReports ..).2.1

theorem writePark_runsOwed : u.RunsOwed (u.writePark qs) fun _ => 0 :=
  (resent_onlyReports (u.parkSet qs) ..).2.2

theorem writePark_route (k : AttnKind) (i : Fin 64) : (u.writePark qs).laneRoute k i = u.laneRoute k i :=
  (congrArg (State.laneRoute · k i) (writePark_frame u qs)).trans rfl

end

/-! ## LANE (R122, R163) -/

section
variable (u : State) (i : Fin 64) (qs : List (Nat × Nat))

/-- The lane record as the pairs leave it. -/
def State.laneSet (u : State) (i : Fin 64) (qs : List (Nat × Nat)) : State :=
  u.setLane i { u.lane i with config := qs.foldl (fun c p => c.write p.1 p.2) (u.lane i).config }

theorem writeLane_cases : ((u.laneSet i qs).homeSegment i = u.homeSegment i ∧ u.writeLane i qs = u.laneSet i qs) ∨
    u.writeLane i qs = (u.laneSet i qs).evaluateEach (u.moved (u.laneSet i qs)) := by
  by_cases h : (u.laneSet i qs).homeSegment i = u.homeSegment i
  · exact .inl ⟨h, if_pos h⟩
  · exact .inr (if_neg h)

theorem writeLane_onlyReports : (u.laneSet i qs).OnlyReports (u.writeLane i qs) := by
  rcases writeLane_cases u i qs with ⟨-, eq⟩ | eq <;> rw [eq]
  · exact .refl _
  · exact evaluateEach_onlyReports ..

theorem laneSet_lane (j : Fin 64) : (u.laneSet i qs).lane j =
    if j = i then { u.lane i with config := qs.foldl (fun c p => c.write p.1 p.2) (u.lane i).config } else u.lane j := setLane_lane ..

theorem laneSet_homeSegment {j : Fin 64} (h : j ≠ i) : (u.laneSet i qs).homeSegment j = u.homeSegment j := by
  unfold State.homeSegment
  rw [laneSet_lane, if_neg h]
  rfl

theorem laneRoute_of_homeSegment {s t : State} {j : Fin 64} (hs : t.segments = s.segments) (h : t.homeSegment j = s.homeSegment j)
    (k : AttnKind) : t.laneRoute k j = s.laneRoute k j := by
  unfold State.laneRoute State.segment
  rw [h, hs]

theorem OnlyReports.laneRoute {s t : State} (h : s.OnlyReports t) (k : AttnKind) (j : Fin 64) : t.laneRoute k j = s.laneRoute k j :=
  (congrArg (State.laneRoute · k j) h.1).trans rfl

theorem OnlyReports.laneKindPending {s t : State} (h : s.OnlyReports t) (k : AttnKind) (j : Fin 64) :
    t.laneKindPending k j = s.laneKindPending k j := (congrArg (State.laneKindPending · k j) h.1).trans rfl

/-- A moved source: its lane's home segment has changed, so both destinations have been re-evaluated (R122, R163). -/
theorem writeLane_moved {j : Fin 64} {k : AttnKind} (hs : u.laneKindPending k j = true)
    (ht : (u.writeLane i qs).laneKindPending k j = true) (hr : u.laneRoute k j ≠ (u.writeLane i qs).laneRoute k j) {d : Port}
    (hd : d = u.laneRoute k j ∨ d = (u.writeLane i qs).laneRoute k j) :
    ((u.writeLane i qs).attnPort d).last = (u.writeLane i qs).report d := by
  have only := writeLane_onlyReports u i qs
  rw [OnlyReports.laneRoute only] at hr hd
  rw [OnlyReports.laneKindPending only] at ht
  have moved := mem_moved_of_route hs ht hr hd
  rcases writeLane_cases u i qs with ⟨same, eq⟩ | eq
  · refine absurd (laneRoute_of_homeSegment (s := u) (t := u.laneSet i qs) rfl ?_ k).symm hr
    by_cases e : j = i
    · rw [e, same]
    · exact laneSet_homeSegment u i qs e
  · rw [eq, evaluateEach_last _ moved, evaluateEach_report]

/-- Under the law of a SHUT day no lane condition depends on the ride number that a write gives (R160). -/
theorem laneSet_pending (shut : u.ShutLaw) (rides : u.clock.day = .opened → ∀ p ∈ qs, p.1 ≠ 1) (k : AttnKind) (j : Fin 64) :
    (u.laneSet i qs).laneKindPending k j = u.laneKindPending k j := by
  have kept : ((u.laneSet i qs).lane j).live = (u.lane j).live ∧ ((u.laneSet i qs).lane j).grantLow = (u.lane j).grantLow ∧
      ((u.laneSet i qs).lane j).countSkew = (u.lane j).countSkew := by
    rw [laneSet_lane]
    split
    · next e => rw [e]; exact ⟨rfl, rfl, rfl⟩
    · exact ⟨rfl, rfl, rfl⟩
  obtain ⟨live, low, skew⟩ := kept
  have day : (u.laneSet i qs).dayOpen = u.dayOpen := rfl
  cases hd : u.clock.day with
  | opened =>
    refine laneKindPending_congr day ?_ k ?_
    · rw [laneSet_lane]
      split
      · next e => rw [e]; exact LaneConfig.writes_ride (rides hd) _
      · rfl
    · cases k <;> first | exact congrArg LaneLive.mode live | exact congrArg LaneLive.stale live | exact skew | exact low | trivial
  | shut =>
    obtain ⟨lanes, -⟩ := shut hd
    obtain ⟨closed, -⟩ := lanes j
    have off : u.dayOpen = false := State.dayOpen_eq_false.2 hd
    cases k with
    | laneDown =>
      have up : (LaneMode.closed == LaneMode.down) = false := rfl
      simp only [State.laneKindPending, live, closed, up, Bool.and_false]
    | laneStale => simp [State.laneKindPending, day, off]
    | countSkew => exact skew
    | grantLow => exact low
    | _ => rfl

theorem writeLane_reportsFollow (shut : u.ShutLaw) (rides : u.clock.day = .opened → ∀ p ∈ qs, p.1 ≠ 1) :
    u.ReportsFollow (u.writeLane i qs) := by
  intro d
  have pending := laneSet_pending u i qs shut rides
  rcases writeLane_cases u i qs with ⟨same, eq⟩ | eq <;> rw [eq]
  · have routes : ∀ k j, (u.laneSet i qs).laneRoute k j = u.laneRoute k j := fun k j => by
      refine laneRoute_of_homeSegment (s := u) (t := u.laneSet i qs) (j := j) rfl ?_ k
      by_cases e : j = i
      · rw [e, same]
      · exact laneSet_homeSegment u i qs e
    refine .inl ⟨rfl, rfl, .inl (report_congr (fun k _ => ?_) (by cases d <;> rfl) rfl rfl)⟩
    simp only [State.pendingLanes, pending, routes]
  · exact evaluateEach_reportFollows rfl rfl fun still => report_of_not_moved still (by cases d <;> rfl) rfl rfl

theorem writeLane_portsKept : u.PortsKept (u.writeLane i qs) :=
  State.PortsKept.trans (t := u.laneSet i qs) (.of_ports rfl) (writeLane_onlyReports u i qs).2.1

theorem writeLane_runsOwed : u.RunsOwed (u.writeLane i qs) fun _ => 0 := (writeLane_onlyReports u i qs).2.2

end

/-! ## SEGMENT (R113, R122, R162 to R164, R166) -/

theorem flushPort_other (s : State) {p d : Port} (h : d ≠ p) :
    (s.flushPort p).attnPort d = s.attnPort d ∧ (s.flushPort p).port d = s.port d := by
  have requeue : ((s.flush p).requeueSlot p).attnPort d = s.attnPort d ∧ ((s.flush p).requeueSlot p).port d = s.port d := by
    have flushed : (s.flush p).port d = s.port d := by rw [flush_port, if_neg h]
    unfold State.requeueSlot
    split
    · obtain ⟨slot, port⟩ := produceQuietly_other ((s.flush p).setAttnPort p { (s.flush p).attnPort p with slot := .empty }) p h
      rw [slot, port, setAttnPort_attnPort_other _ _ h]
      exact ⟨rfl, flushed⟩
    · exact ⟨rfl, flushed⟩
  obtain ⟨slot, port⟩ := requeue
  unfold State.flushPort State.portNotice
  obtain ⟨same, -, -, kept⟩ := oweOffer_kept (((s.flush p).requeueSlot p).oweBoardRuns p 1) p d
  rw [same h, kept]
  refine ⟨by rw [State.attnPort, oweBoardRuns_attn]; exact slot, ?_⟩
  unfold State.oweBoardRuns
  split
  · rw [setPort_port_other _ _ h]
    exact port
  · exact port

theorem refuseOwed_other (s : State) {p d : Port} (h : d ≠ p) :
    (s.refuseOwed p).attnPort d = s.attnPort d ∧ (s.refuseOwed p).port d = s.port d := by
  rw [refuseOwed_eq]
  exact ⟨get_put_other _ _ (fun e => h (portIndex_injective e)), rfl⟩

theorem followEnable_other (s : State) (k : Fin 6) (old new : Bool) {d : Port} (h : d ≠ .sp k) :
    (s.followEnable k old new).attnPort d = s.attnPort d ∧ (s.followEnable k old new).port d = s.port d := by
  unfold State.followEnable
  split
  · exact flushPort_other s h
  · split
    · obtain ⟨slot, port⟩ := refuseOwed_other s h
      exact ⟨(linkUpNotice_attnPort_other _ h).trans slot, (linkUpNotice_port_other _ h).trans port⟩
    · exact ⟨rfl, rfl⟩

section
variable (u : State) (k : Fin 6) (qs : List (Nat × Nat))

/-- The segment record as the pairs leave it, and the port following its enable. -/
def State.segmentSet (u : State) (k : Fin 6) (qs : List (Nat × Nat)) : State :=
  let new := qs.foldl (fun g p => g.write p.1 p.2) (u.segment k)
  (u.setSegment k new).followEnable k (u.segment k).enable new.enable

/-- The state of a segment write before the moved sources are re-evaluated. -/
def State.segmentSent (u : State) (k : Fin 6) (qs : List (Nat × Nat)) : State :=
  (u.segmentSet k qs).resent (.sp k) (qs.any fun p => p.1 == 9) (qs.any fun p => p.1 == 11)

theorem writeSegment_eq : u.writeSegment k qs = (u.segmentSent k qs).evaluateEach (u.moved (u.segmentSent k qs)) := rfl

theorem segmentSet_frame : u.segmentSet k qs = { u with
    segments := put u.segments k (qs.foldl (fun g p => g.write p.1 p.2) (u.segment k))
    counters := { u.counters with attnRefused := (u.segmentSet k qs).counters.attnRefused }
    lines := (u.segmentSet k qs).lines, ports := (u.segmentSet k qs).ports,
    attn := { u.attn with ports := (u.segmentSet k qs).attn.ports } } := followEnable_frame ..

/-- Without a change of the port's enable the record alone is set. -/
theorem segmentSet_sameEnable (h : ¬ ∃ p ∈ qs, p.1 = 1) :
    u.segmentSet k qs = u.setSegment k (qs.foldl (fun g p => g.write p.1 p.2) (u.segment k)) := by
  unfold State.segmentSet State.followEnable
  dsimp only
  rw [Segment.writes_enable h]
  cases (u.segment k).enable <;> rfl

theorem segmentSent_onlyReports : (u.segmentSet k qs).OnlyReports (u.segmentSent k qs) := resent_onlyReports ..

theorem segmentSent_enableSet {d : Port} (h : d = .sp k → ¬ ∃ p ∈ qs, p.1 = 11) : (u.segmentSent k qs).enableSet d = u.enableSet d := by
  have sent : (u.segmentSent k qs).enableSet d = (u.segmentSet k qs).enableSet d :=
    (congrArg (State.enableSet · d) (segmentSent_onlyReports u k qs).1).trans rfl
  rw [sent, segmentSet_frame]
  cases d with
  | tp => rfl
  | sp z =>
    show ((put u.segments k _).get z).zoneEnables = (u.segments.get z).zoneEnables
    rw [get_put]
    split
    · next e =>
      subst e
      exact Segment.writes_zoneEnables (h rfl) _
    · rfl

/-- A segment write changes a report by moving sources or by the zone's enable set alone (R163, R164). -/
theorem segmentSent_report {d : Port} (still : d ∉ u.moved (u.segmentSent k qs)) (h : d = .sp k → ¬ ∃ p ∈ qs, p.1 = 11) :
    (u.segmentSent k qs).report d = u.report d := by
  have only := (segmentSent_onlyReports u k qs).1
  have set := segmentSet_frame u k qs
  refine report_of_not_moved still (segmentSent_enableSet u k qs h) ?_ ?_
  · exact (congrArg (·.ring.headHeld) only).trans (congrArg (·.ring.headHeld) set)
  · have sent : (u.segmentSent k qs).attn = { (u.segmentSet k qs).attn with ports := (u.segmentSent k qs).attn.ports } :=
      (congrArg State.attn only :)
    rw [congrArg State.attn set] at sent
    exact sent

/-- The reports of the other destinations follow every segment write. -/
theorem writeSegment_follows_other {d : Port} (h : d ≠ .sp k) : u.ReportFollows (u.writeSegment k qs) d := by
  obtain ⟨slot, port⟩ := resent_other (u.segmentSet k qs) (.sp k) (qs.any fun p => p.1 == 9) (qs.any fun p => p.1 == 11) h
  obtain ⟨slot', port'⟩ := followEnable_other (u.setSegment k (qs.foldl (fun g p => g.write p.1 p.2) (u.segment k))) k
    (u.segment k).enable (qs.foldl (fun g p => g.write p.1 p.2) (u.segment k)).enable h
  rw [writeSegment_eq]
  exact evaluateEach_reportFollows (slot.trans slot') (congrArg PortState.tx (port.trans port')) fun still =>
    segmentSent_report u k qs still fun e => absurd e h

theorem segmentSent_last (h : ∃ p ∈ qs, p.1 = 9 ∨ p.1 = 11) :
    ((u.segmentSent k qs).attnPort (.sp k)).last = (u.segmentSent k qs).report (.sp k) := by
  rw [(segmentSent_onlyReports u k qs).report]
  refine resent_last _ _ _ _ ?_
  obtain ⟨p, hp, h9 | h11⟩ := h
  · exact .inl ((any_field qs).2 ⟨p, hp, h9⟩)
  · exact .inr ((any_field qs).2 ⟨p, hp, h11⟩)

/-- A write of the station address or of the enable set leaves the zone's last report the current one (R164, R166). -/
theorem writeSegment_last (h : ∃ p ∈ qs, p.1 = 9 ∨ p.1 = 11) :
    ((u.writeSegment k qs).attnPort (.sp k)).last = (u.writeSegment k qs).report (.sp k) := by
  have sent := segmentSent_last u k qs h
  rw [writeSegment_eq, (evaluateEach_settled sent _).1, sent, evaluateEach_report]

/-- A report that a segment write changes is the last one (R164). -/
theorem writeSegment_changed {d : Port} (h : (u.writeSegment k qs).report d ≠ u.report d) :
    ((u.writeSegment k qs).attnPort d).last = (u.writeSegment k qs).report d := by
  by_cases hd : d = .sp k
  · subst hd
    by_cases moved : .sp k ∈ u.moved (u.segmentSent k qs)
    · rw [writeSegment_eq, evaluateEach_last _ moved, evaluateEach_report]
    · refine writeSegment_last u k qs ?_
      rw [writeSegment_eq, evaluateEach_report] at h
      by_contra none
      exact h (segmentSent_report u k qs moved fun _ ⟨p, hp, h11⟩ => none ⟨p, hp, .inr h11⟩)
  · exact (writeSegment_follows_other u k qs hd).last_of_changed h

/-- A moved source: both destinations have been re-evaluated (R163). -/
theorem writeSegment_moved {j : Fin 64} {kind : AttnKind} (hs : u.laneKindPending kind j = true)
    (ht : (u.writeSegment k qs).laneKindPending kind j = true) (hr : u.laneRoute kind j ≠ (u.writeSegment k qs).laneRoute kind j)
    {d : Port} (hd : d = u.laneRoute kind j ∨ d = (u.writeSegment k qs).laneRoute kind j) :
    ((u.writeSegment k qs).attnPort d).last = (u.writeSegment k qs).report d := by
  have only := evaluateEach_onlyReports (u.segmentSent k qs) (u.moved (u.segmentSent k qs))
  rw [writeSegment_eq] at hr hd ht ⊢
  rw [OnlyReports.laneRoute only] at hr hd
  rw [OnlyReports.laneKindPending only] at ht
  rw [evaluateEach_last _ (mem_moved_of_route hs ht hr hd), evaluateEach_report]

section
variable (h : ¬ ∃ p ∈ qs, p.1 = 1)
include h

theorem writeSegment_reportsFollow : u.ReportsFollow (u.writeSegment k qs) := by
  intro d
  by_cases hd : d = .sp k
  · subst hd
    have set := segmentSet_sameEnable u k qs h
    have slot : (u.segmentSet k qs).attnPort (.sp k) = u.attnPort (.sp k) := by rw [set]; rfl
    have port : ((u.segmentSet k qs).port (.sp k)).tx = (u.port (.sp k)).tx := by rw [set]; rfl
    rw [writeSegment_eq]
    by_cases again : ∃ p ∈ qs, p.1 = 9 ∨ p.1 = 11
    · obtain ⟨slot', port'⟩ := evaluateEach_settled (segmentSent_last u k qs again) (u.moved (u.segmentSent k qs))
      refine State.ReportFollows.congr (t := u.segmentSent k qs) ?_ slot' port' (by simp) (by simp)
      refine resent_reportFollows (u.segmentSet k qs) (.sp k) _ _ slot port fun h9 h11 => ?_
      obtain ⟨p, hp, hf⟩ := again
      rcases hf with hf | hf
      · exact absurd ((any_field qs).2 ⟨p, hp, hf⟩) (Bool.eq_false_iff.1 h9)
      · exact absurd ((any_field qs).2 ⟨p, hp, hf⟩) (Bool.eq_false_iff.1 h11)
    · have none9 : (qs.any fun p => p.1 == 9) = false := Bool.eq_false_iff.2 fun e => by
        obtain ⟨p, hp, hf⟩ := (any_field qs).1 e
        exact again ⟨p, hp, .inl hf⟩
      have none11 : (qs.any fun p => p.1 == 11) = false := Bool.eq_false_iff.2 fun e => by
        obtain ⟨p, hp, hf⟩ := (any_field qs).1 e
        exact again ⟨p, hp, .inr hf⟩
      have sent : u.segmentSent k qs = u.segmentSet k qs := by
        unfold State.segmentSent
        rw [none9, none11]
        rfl
      refine evaluateEach_reportFollows (by rw [sent, slot]) (by rw [sent, port]) fun still => segmentSent_report u k qs still ?_
      exact fun _ ⟨p, hp, hf⟩ => again ⟨p, hp, .inr hf⟩
  · exact writeSegment_follows_other u k qs hd

theorem writeSegment_portsKept : u.PortsKept (u.writeSegment k qs) := by
  have set : u.PortsKept (u.segmentSet k qs) := .of_ports (by rw [segmentSet_sameEnable u k qs h]; rfl)
  exact (set.trans (segmentSent_onlyReports u k qs).2.1).trans (evaluateEach_portsKept _ (u.moved (u.segmentSent k qs)))

theorem writeSegment_sameEnable : (u.writeSegment k qs).lines = u.lines ∧ (u.writeSegment k qs).counters = u.counters := by
  have sent := (segmentSent_onlyReports u k qs).1
  rw [writeSegment_eq, evaluateEach_lines, evaluateEach_counters]
  rw [segmentSet_sameEnable u k qs h] at sent
  exact ⟨(congrArg State.lines sent :), (congrArg State.counters sent :)⟩

theorem writeSegment_runsOwed : u.RunsOwed (u.writeSegment k qs) fun _ => 0 := by
  have sent : (u.segmentSet k qs).RunsOwed (u.segmentSent k qs) fun _ => 0 := (segmentSent_onlyReports u k qs).2.2
  refine .of_boardRuns fun p => ?_
  rw [writeSegment_eq, evaluateEach_boardRuns, sent p, ite_self, Nat.add_zero, segmentSet_sameEnable u k qs h]
  rfl

end
end

end Sys2Proof.Machine
end

section
/-! WRITE_TABLE of several pairs of one PARK, LANE or SEGMENT entry. -/

namespace Sys2Proof.Machine

/-- What the write of one entry of these tables leaves: `s` before the request, `t` the state in which the reply is offered. -/
structure State.TableWritten (s t : State) (table : TableId) (index : Nat) (pairs : List (Nat × Nat)) : Prop where
  frame : t = { s.atRequest with
    park := t.park, lanes := t.lanes, segments := t.segments, lines := t.lines, ports := t.ports
    attn := { s.attn with ports := t.attn.ports }, counters := { s.counters with attnRefused := t.counters.attnRefused } }
  entry : t.readEntry table index = storedFields table pairs (s.readEntry table index)
  others : ∀ (other : TableId) (i : Nat), other = .park ∨ other = .lane ∨ other = .segment → (other, i) ≠ (table, index) →
    t.readEntry other i = s.readEntry other i
  lanes : ∀ i : Fin 64, t.lane i = { s.lane i with config := (t.lane i).config }
  kept : ¬ (table = .segment ∧ ∃ p ∈ pairs, p.1 = 1) → s.PortsKept t ∧ (s.RunsOwed t fun _ => 0) ∧
    t.lines = s.lines ∧ t.counters = s.counters
  trunk : table = .park → (∃ p ∈ pairs, p.1 = 5 ∨ p.1 = 9) → (t.attnPort .tp).last = t.report .tp
  zone : ∀ k : Fin 6, table = .segment → k.val = index → (∃ p ∈ pairs, p.1 = 9 ∨ p.1 = 11) →
    (t.attnPort (.sp k)).last = t.report (.sp k)
  moved : ∀ (i : Fin 64) (k : AttnKind), s.laneKindPending k i = true → t.laneKindPending k i = true →
    s.laneRoute k i ≠ t.laneRoute k i → ∀ d : Port, d = s.laneRoute k i ∨ d = t.laneRoute k i → (t.attnPort d).last = t.report d
  lane : table = .lane → s.ShutLaw → s.ReportsFollow t
  follow : table ≠ .lane → ¬ (table = .segment ∧ ∃ p ∈ pairs, p.1 = 1) → s.ReportsFollow t
  changed : table ≠ .lane → ∀ d : Port, t.report d ≠ s.report d → (t.attnPort d).last = t.report d

/-- An entry of the three tables is read from the park record, its lane's configuration or its segment record. -/
theorem readEntry_congr {s t : State} {other : TableId} {i : Nat} (ho : other = .park ∨ other = .lane ∨ other = .segment)
    (park : other = .park → i = 0 → t.park = s.park)
    (lane : ∀ j : Fin 64, other = .lane → j.val = i → (t.lane j).config = (s.lane j).config)
    (segment : ∀ j : Fin 6, other = .segment → j.val = i → t.segment j = s.segment j) : t.readEntry other i = s.readEntry other i := by
  rcases ho with rfl | rfl | rfl
  · by_cases h : i = 0
    · subst h
      exact congrArg parkFields (park rfl rfl)
    · exact (if_neg h).trans (if_neg h).symm
  · by_cases h : i < 64
    · refine (dif_pos h).trans (Eq.trans ?_ (dif_pos h).symm)
      rw [lane ⟨i, h⟩ rfl rfl]
    · have none : ∀ u : State, u.readEntry .lane i = [] := fun u => dif_neg h
      rw [none, none]
  · by_cases h : i < 6
    · refine (dif_pos h).trans (Eq.trans ?_ (dif_pos h).symm)
      rw [segment ⟨i, h⟩ rfl rfl]
    · have none : ∀ u : State, u.readEntry .segment i = [] := fun u => dif_neg h
      rw [none, none]

section
variable {s : State} {pairs : List (Nat × Nat)}

/-- A PARK write: the trunk is sent its report again, and no route changes. -/
theorem writePark_written (h : WriteRequest .park pairs) :
    s.TableWritten (s.atRequest.writeEntry .park 0 (TableId.park.legalPairs pairs)) .park 0 pairs := by
  have entry := writeEntry_park_fields (s := s.atRequest) h.fields
  have eq : s.atRequest.writeEntry .park 0 (TableId.park.legalPairs pairs) = s.atRequest.writePark (TableId.park.legalPairs pairs) := rfl
  have frame := writePark_frame s.atRequest (TableId.park.legalPairs pairs)
  have kept := writePark_portsKept s.atRequest (TableId.park.legalPairs pairs)
  have owed := writePark_runsOwed s.atRequest (TableId.park.legalPairs pairs)
  have last := writePark_last s.atRequest (TableId.park.legalPairs pairs)
  have route := writePark_route s.atRequest (TableId.park.legalPairs pairs)
  have follow := writePark_reportsFollow s.atRequest (TableId.park.legalPairs pairs)
  rw [eq] at entry ⊢
  revert entry frame kept owed last route follow
  generalize s.atRequest.writePark (TableId.park.legalPairs pairs) = t
  intro entry frame kept owed last route follow
  have park : t.park = _ := (congrArg State.park frame :)
  have lanes : t.lanes = s.atRequest.lanes := (congrArg State.lanes frame :)
  have segments : t.segments = s.atRequest.segments := (congrArg State.segments frame :)
  have lines : t.lines = s.atRequest.lines := (congrArg State.lines frame :)
  have counters : t.counters = s.atRequest.counters := (congrArg State.counters frame :)
  have lane : ∀ i, t.lane i = s.lane i := fun i => (congrArg (State.lane · i) frame).trans rfl
  exact {
    frame := by
      rw [park, lanes, segments, lines, counters]
      exact frame
    entry := entry
    others := fun other i ho hne => readEntry_congr ho (fun e hi => absurd (by rw [e, hi]) hne) (fun j _ _ => by rw [lane])
      (fun j _ _ => (congrArg (State.segment · j) frame).trans rfl)
    lanes := fun i => by rw [lane]
    kept := fun _ => ⟨kept, owed, lines, counters⟩
    trunk := fun _ hf => last ((exists_legalPairs .park pairs fun f => f = 5 ∨ f = 9).2 hf)
    zone := nofun
    moved := fun i k _ _ hr => absurd (route k i).symm hr
    lane := nofun
    follow := fun _ _ => follow
    changed := fun _ d hd => (follow d).last_of_changed hd }

theorem writeEntry_lane_eq (u : State) (i : Fin 64) (qs : List (Nat × Nat)) : u.writeEntry .lane i.val qs = u.writeLane i qs :=
  dif_pos i.isLt

theorem writeLane_written (i : Fin 64) (h : WriteRequest .lane pairs)
    (shut : s.clock.day = .opened → ∀ p ∈ pairs, p.1 ≠ 1 ∧ p.1 ≠ 9 ∧ p.1 ≠ 10) :
    s.TableWritten (s.atRequest.writeEntry .lane i.val (TableId.lane.legalPairs pairs)) .lane i.val pairs := by
  have entry := writeEntry_lane_fields (s := s.atRequest) i h.fields
  have lane := writeEntry_lane s.atRequest .lane i.val (TableId.lane.legalPairs pairs)
  have rides : s.clock.day = .opened → ∀ p ∈ TableId.lane.legalPairs pairs, p.1 ≠ 1 := fun day => by
    by_contra none
    simp only [not_forall, not_not] at none
    obtain ⟨p, hp, h1⟩ := none
    obtain ⟨q, hq, h1⟩ := (exists_legalPairs .lane pairs fun f => f = 1).1 ⟨p, hp, h1⟩
    exact (shut day q hq).1 h1
  have frame := writeLane_frame s.atRequest i (TableId.lane.legalPairs pairs)
  have kept := writeLane_portsKept s.atRequest i (TableId.lane.legalPairs pairs)
  have owed := writeLane_runsOwed s.atRequest i (TableId.lane.legalPairs pairs)
  have moved := @writeLane_moved s.atRequest i (TableId.lane.legalPairs pairs)
  have follow := fun law : s.ShutLaw => writeLane_reportsFollow s.atRequest i (TableId.lane.legalPairs pairs) law rides
  rw [writeEntry_lane_eq] at entry lane ⊢
  revert entry lane frame kept owed moved follow
  generalize s.atRequest.writeLane i (TableId.lane.legalPairs pairs) = t
  intro entry lane frame kept owed moved follow
  have park : t.park = s.atRequest.park := (congrArg State.park frame :)
  have lanes : t.lanes = _ := (congrArg State.lanes frame :)
  have segments : t.segments = s.atRequest.segments := (congrArg State.segments frame :)
  have lines : t.lines = s.atRequest.lines := (congrArg State.lines frame :)
  have counters : t.counters = s.atRequest.counters := (congrArg State.counters frame :)
  exact {
    frame := by
      rw [park, lanes, segments, lines, counters]
      exact frame
    entry := entry
    others := fun other j ho hne => readEntry_congr ho (fun _ _ => park)
      (fun k e hk => by
        rw [lane, if_neg fun c => hne (by rw [e, ← hk, c.2])]
        rfl)
      (fun j _ _ => (congrArg (State.segment · j) frame).trans rfl)
    lanes := fun j => by
      rw [lane]
      split <;> rfl
    kept := fun _ => ⟨kept, owed, lines, counters⟩
    trunk := nofun
    zone := nofun
    moved := fun i k hs ht hr d hd => moved hs ht hr hd
    lane := fun _ => follow
    follow := fun hl => absurd rfl hl
    changed := fun hl => absurd rfl hl }

theorem writeSegment_written (k : Fin 6) (h : WriteRequest .segment pairs) :
    s.TableWritten (s.atRequest.writeEntry .segment k.val (TableId.segment.legalPairs pairs)) .segment k.val pairs := by
  have entry := writeEntry_segment_fields (s := s.atRequest) k h.fields
  have segment := fun j => writeSegment_segment s.atRequest k j (TableId.segment.legalPairs pairs)
  have frame := writeSegment_frame s.atRequest k (TableId.segment.legalPairs pairs)
  have kept := writeSegment_portsKept s.atRequest k (TableId.segment.legalPairs pairs)
  have owed := writeSegment_runsOwed s.atRequest k (TableId.segment.legalPairs pairs)
  have same := writeSegment_sameEnable s.atRequest k (TableId.segment.legalPairs pairs)
  have last := writeSegment_last s.atRequest k (TableId.segment.legalPairs pairs)
  have moved := @writeSegment_moved s.atRequest k (TableId.segment.legalPairs pairs)
  have follow := writeSegment_reportsFollow s.atRequest k (TableId.segment.legalPairs pairs)
  have changed := @writeSegment_changed s.atRequest k (TableId.segment.legalPairs pairs)
  have names : ∀ c : Nat → Prop, (∃ p ∈ TableId.segment.legalPairs pairs, c p.1) ↔ ∃ p ∈ pairs, c p.1 := exists_legalPairs .segment pairs
  rw [names fun f => f = 1] at kept owed same follow
  rw [names fun f => f = 9 ∨ f = 11] at last
  rw [writeEntry_segment_eq] at entry ⊢
  revert entry segment frame kept owed same last moved follow changed
  generalize s.atRequest.writeSegment k (TableId.segment.legalPairs pairs) = t
  intro entry segment frame kept owed same last moved follow changed
  have park : t.park = s.atRequest.park := (congrArg State.park frame :)
  have lanes : t.lanes = s.atRequest.lanes := (congrArg State.lanes frame :)
  have segments : t.segments = _ := (congrArg State.segments frame :)
  have lane : ∀ i, t.lane i = s.lane i := fun i => (congrArg (State.lane · i) frame).trans rfl
  exact {
    frame := by
      rw [park, lanes, segments]
      exact frame
    entry := entry
    others := fun other j ho hne => readEntry_congr ho (fun _ _ => park) (fun j _ _ => by rw [lane])
      (fun z e hz => by
        rw [segment, if_neg fun c => hne (by rw [e, ← hz, c])]
        rfl)
    lanes := fun i => by rw [lane]
    kept := fun hn => by
      have still : ¬ ∃ p ∈ pairs, p.1 = 1 := fun e => hn ⟨rfl, e⟩
      exact ⟨kept still, owed still, same still⟩
    trunk := nofun
    zone := fun z _ hz hf => by
      rw [show z = k from Fin.ext hz]
      exact last hf
    moved := fun i k hs ht hr d hd => moved hs ht hr hd
    lane := nofun
    follow := fun _ hn => follow fun e => hn ⟨rfl, e⟩
    changed := fun _ d hd => changed hd }

end

end Sys2Proof.Machine
end

section
/-! WRITE_TABLE of a port enable: the port disabled and flushed, and the port that comes up. -/

namespace Sys2Proof.Machine

/-! ## A flush on a link that is HELD (R113, R121) -/

section
variable {v : State} {p : Port}

theorem requeueSlot_queued (h : (v.attnPort p).slot = .queued) : v.requeueSlot p =
    v.setAttnPort p ⟨v.report p, .prepared (v.attnFrame p (v.report p)), (v.attnPort p).offersDue⟩ := by
  unfold State.requeueSlot
  rw [h]
  dsimp only
  rw [produceQuietly_prepared (by rw [setAttnPort_attnPort_same]; exact nofun), setAttnPort_attnPort_same, setAttnPort_again]
  rfl

theorem requeueSlot_none (h : (v.attnPort p).slot ≠ .queued) : v.requeueSlot p = v := by
  unfold State.requeueSlot
  split
  · next hq => exact absurd hq h
  · rfl

/-- On a HELD link a flush is followed by an offer alone. -/
theorem flushPort_down (down : v.linkUp p = false) : v.flushPort p = ((v.flush p).requeueSlot p).oweOffer p := by
  have held : ((v.flush p).requeueSlot p).linkUp p = false := by
    by_cases h : ((v.flush p).attnPort p).slot = .queued
    · rw [requeueSlot_queued h]
      exact down
    · rw [requeueSlot_none h]
      exact down
  unfold State.flushPort State.portNotice State.oweBoardRuns
  rw [held]
  rfl

variable (down : v.linkUp p = false)
include down

theorem flushPort_port : (v.flushPort p).port p = { v.port p with rx := [], tx := [], sending := false, boardRuns := 0 } := by
  have flushed : (v.flush p).port p = { v.port p with rx := [], tx := [], sending := false, boardRuns := 0 } := by
    rw [flush_port, if_pos rfl]
  rw [flushPort_down down, (oweOffer_kept _ p p).2.2.2]
  by_cases h : ((v.flush p).attnPort p).slot = .queued
  · rw [requeueSlot_queued h, setAttnPort_port, flushed]
  · rw [requeueSlot_none h, flushed]

theorem flushPort_queued (h : (v.attnPort p).slot = .queued) : (v.flushPort p).attnPort p =
    ⟨v.report p, .prepared (v.attnFrame p (v.report p)), (v.attnPort p).offersDue + 1⟩ := by
  rw [flushPort_down down, requeueSlot_queued (v := v.flush p) h,
    oweOffer_prepared (congrArg AttnPort.slot (setAttnPort_attnPort_same ..)), setAttnPort_attnPort_same, setAttnPort_attnPort_same]
  rfl

theorem flushPort_prepared {f : List Byte} (h : (v.attnPort p).slot = .prepared f) : (v.flushPort p).attnPort p =
    { v.attnPort p with offersDue := (v.attnPort p).offersDue + 1 } := by
  have other : ((v.flush p).attnPort p).slot ≠ .queued := fun e => nomatch h.symm.trans e
  rw [flushPort_down down, requeueSlot_none other, oweOffer_prepared (s := v.flush p) h, setAttnPort_attnPort_same]
  rfl

theorem flushPort_empty (h : (v.attnPort p).slot = .empty) : (v.flushPort p).attnPort p = v.attnPort p := by
  have other : ((v.flush p).attnPort p).slot ≠ .queued := fun e => nomatch h.symm.trans e
  rw [flushPort_down down, requeueSlot_none other, oweOffer_none (s := v.flush p) fun f e => nomatch h.symm.trans e]
  rfl

/-- The flush leaves no QUEUED slot, and gives each slot that holds a frame one more offer. -/
theorem flushPort_slot : ((v.flushPort p).attnPort p).slot ≠ .queued ∧ ((v.flushPort p).attnPort p).offersDue =
    (v.attnPort p).offersDue + if (v.attnPort p).slot = .empty then 0 else 1 := by
  cases h : (v.attnPort p).slot with
  | empty =>
    rw [flushPort_empty down h, h]
    exact ⟨nofun, rfl⟩
  | prepared f =>
    rw [flushPort_prepared down h]
    exact ⟨fun e => (nomatch h.symm.trans e), rfl⟩
  | queued =>
    rw [flushPort_queued down h]
    exact ⟨nofun, rfl⟩

end

/-! ## Re-evaluations on a HELD link -/

/-- With the loader READY a re-evaluation owes a HELD link no offer. -/
theorem evaluateEach_offersDue {v : State} {d : Port} (down : v.linkUp d = false) (ready : v.loader.state = .ready) (ds : List Port) :
    ((v.evaluateEach ds).attnPort d).offersDue = (v.attnPort d).offersDue := by
  by_cases hd : d ∈ ds
  · rw [(evaluateEach_mem v hd).1, evaluate_attnPort]
    dsimp only
    split
    · rfl
    · rw [down, ready]
      split <;> rfl
  · rw [(evaluateEach_other v hd).1]

theorem evaluateEach_port {v : State} {d : Port} (h : (v.attnPort d).slot ≠ .queued) (ds : List Port) :
    (v.evaluateEach ds).port d = v.port d := by
  by_cases hd : d ∈ ds
  · rw [(evaluateEach_mem v hd).2, evaluate_port, if_neg (not_and_of_not_right _ h)]
  · rw [(evaluateEach_other v hd).2]

/-! ## The port disabled (R113) -/

/-- A request that sets the enable of SP k alone is answered OK. -/
theorem exec_writeTable_enable {s : State} {h : MgmtHeader} {k : Fin 6} {v : Byte} (hv : v.toNat ≤ 1)
    (req : s.TakesRequest ⟨h.source, h.tag, 2, [4, byteOf k.val, 0, 1, 1, v, 0]⟩) :
    exec (.writeTable h [4, byteOf k.val, 0, 1, 1, v, 0]) s = .next ((s.atRequest.writeSegment k [(1, v.toNat)]).reply
      ⟨h.source, h.tag, 2, [4, byteOf k.val, 0, 1, 1, v, 0]⟩ .ok [4, byteOf k.val, 0, 1, 0xFF] false) := by
  have legal : legalSegment 1 v.toNat = v.toNat := if_pos hv
  refine exec_writeTable_one (table := .segment) (number := 4) (field := 1) (v := v.toNat) (by omega) (by omega) rfl k.isLt
    (by rw [le16_small (by omega), le16_small v.isLt, byteOf_val]; rfl) (by rw [le16_small (by omega)]; rfl)
    (writeChecked_one s k.val (by decide) (by decide) nofun) ?_ ?_ req
  · rw [writeStatus_one]
    refine if_neg ?_
    show ¬ (legalSegment 1 v.toNat != v.toNat) = true
    rw [legal, bne_self_eq_false]
    exact Bool.false_ne_true
  · refine (writeEntry_segment_eq ..).trans (congrArg (s.atRequest.writeSegment k) ?_)
    exact congrArg (fun w => [(1, w)]) legal

/-- The enable of SP k set, with nothing following it yet. -/
def State.enableSetTo (u : State) (k : Fin 6) (b : Bool) : State := u.setSegment k { u.segment k with enable := b }

theorem enableSetTo_linkUp (u : State) (k : Fin 6) (b : Bool) : (u.enableSetTo k b).linkUp (.sp k) = (u.inService && b) := by
  rw [State.linkUp, State.portEnabled, State.enableSetTo, setSegment_segment_same]
  rfl

theorem writeSegment_off {u : State} {k : Fin 6} (on : (u.segment k).enable = true) : u.writeSegment k [(1, 0)] =
    ((u.enableSetTo k false).flushPort (.sp k)).evaluateEach (u.moved ((u.enableSetTo k false).flushPort (.sp k))) := by
  have sent : u.segmentSent k [(1, 0)] = (u.enableSetTo k false).flushPort (.sp k) := by
    show u.segmentSet k [(1, 0)] = _
    unfold State.segmentSet State.followEnable
    rw [on]
    rfl
  rw [writeSegment_eq, sent]

/-- What a write that disables an enabled SP k leaves (R113, R121, R164). -/
theorem writeSegment_disables {u : State} {k : Fin 6} (on : (u.segment k).enable = true) (ready : u.loader.state = .ready) :
    let t := u.writeSegment k [(1, 0)]
    t = { u with
      segments := put u.segments k { u.segment k with enable := false }, ports := t.ports,
      attn := { u.attn with ports := t.attn.ports } } ∧
    t.linkUp (.sp k) = false ∧
    t.port (.sp k) = { u.port (.sp k) with rx := [], tx := [], sending := false, boardRuns := 0 } ∧
    (∀ p : Port, p ≠ .sp k → (u.port p).Kept (t.port p) ∧ (t.port p).boardRuns = (u.port p).boardRuns) ∧
    (t.attnPort (.sp k)).offersDue = (u.attnPort (.sp k)).offersDue + (if (u.attnPort (.sp k)).slot = .empty then 0 else 1) ∧
    ((u.attnPort (.sp k)).slot = .queued → (t.attnPort (.sp k)).slot = .prepared (t.attnFrame (.sp k) (t.report (.sp k)))) := by
  intro t
  have down : (u.enableSetTo k false).linkUp (.sp k) = false := by rw [enableSetTo_linkUp, Bool.and_false]
  have frame := (u.enableSetTo k false).flushPort_frame (.sp k)
  have port := flushPort_port down
  have queued := flushPort_queued down
  have slot := flushPort_slot down
  have others := fun p (h : p ≠ .sp k) => (flushPort_other (u.enableSetTo k false) h).2
  have written : t = ((u.enableSetTo k false).flushPort (.sp k)).evaluateEach (u.moved ((u.enableSetTo k false).flushPort (.sp k))) :=
    writeSegment_off on
  rw [written]
  clear written t
  generalize (u.enableSetTo k false).flushPort (.sp k) = w at *
  generalize u.moved w = ds
  obtain ⟨free, offers⟩ := slot
  have held : w.linkUp (.sp k) = false := ((congrArg (State.linkUp · (.sp k)) frame).trans rfl).trans down
  have loaded : w.loader.state = .ready := (congrArg (·.loader.state) frame).trans ready
  have report : ∀ d, w.report d = (u.enableSetTo k false).report d := fun d => (congrArg (State.report · d) frame).trans rfl
  have attnFrame : ∀ d r, w.attnFrame d r = (u.enableSetTo k false).attnFrame d r :=
    fun d r => (congrArg (State.attnFrame · d r) frame).trans rfl
  refine ⟨?_, ?_, (evaluateEach_port free ds).trans port, fun p hp => ⟨?_, ?_⟩, ?_, fun hq => ?_⟩
  · exact Eq.trans (w.evaluateEach_frame ds) (congrArg (State.withReports (w.evaluateEach ds).ports (w.evaluateEach ds).attn.ports) frame)
  · rw [evaluateEach_linkUp, held]
  · rw [← show w.port p = u.port p from others p hp]
    exact evaluateEach_portsKept w ds p
  · rw [evaluateEach_boardRuns, others p hp]
    rfl
  · rw [evaluateEach_offersDue held loaded, offers]
    rfl
  · have settled : (w.attnPort (.sp k)).last = w.report (.sp k) := by rw [queued hq, report]
    rw [(evaluateEach_settled settled ds).1, queued hq, evaluateEach_report, evaluateEach_attnFrame, report, attnFrame]

theorem writeTable_disable (s : State) (h : MgmtHeader) (k : Fin 6) (on : (s.segment k).enable = true) :
    let args := [4, byteOf k.val, 0, 1, 1, 0, 0]
    let req : MgmtRequest := ⟨h.source, h.tag, 2, args⟩
    s.TakesRequest req →
    ∃ t : State, exec (.writeTable h args) s = .next (t.reply req .ok [4, byteOf k.val, 0, 1, 0xFF] false) ∧
      t = { s.atRequest with
        segments := put s.segments k { s.segment k with enable := false }, ports := t.ports,
        attn := { s.attn with ports := t.attn.ports } } ∧
      t.linkUp (.sp k) = false ∧ (t.port (.sp k)).rx = [] ∧ (t.port (.sp k)).tx = [] ∧ (t.port (.sp k)).sending = false ∧
      (t.port (.sp k)).counters = (s.port (.sp k)).counters ∧
      (t.port (.sp k)).boardRuns = 0 ∧
      (∀ p : Port, p ≠ .sp k → (s.port p).Kept (t.port p) ∧ (t.port p).boardRuns = (s.port p).boardRuns) ∧
      (t.attnPort (.sp k)).offersDue = (s.attnPort (.sp k)).offersDue +
        (if (s.attnPort (.sp k)).slot = .empty then 0 else 1) ∧
      ((s.attnPort (.sp k)).slot = .queued → (t.attnPort (.sp k)).slot = .prepared (t.attnFrame (.sp k) (t.report (.sp k)))) ∧
      (t.report (.sp k) ≠ s.report (.sp k) → (t.attnPort (.sp k)).last = t.report (.sp k)) ∧
      ∀ d : Port, d ≠ .sp k → s.ReportFollows t d := by
  intro args req taken
  have answer := exec_writeTable_enable (v := 0) (by decide) taken
  have follow := fun d => writeSegment_follows_other s.atRequest k [(1, 0)] (d := d)
  have changed := writeSegment_changed s.atRequest k [(1, 0)] (d := .sp k)
  obtain ⟨frame, down, port, others, offers, queued⟩ := writeSegment_disables (u := s.atRequest) on taken.1.2
  exact ⟨_, answer, frame, down, (congrArg PortState.rx port :), (congrArg PortState.tx port :), (congrArg PortState.sending port :),
    (congrArg PortState.counters port :), (congrArg PortState.boardRuns port :), others, offers, queued, changed, follow⟩

/-! ## The port that comes up (R112, R141, R166) -/

theorem linkUpNotice_boardRuns (s : State) (p d : Port) : ((s.linkUpNotice p).port d).boardRuns =
    (s.port d).boardRuns + if d = p ∧ s.linkUp p = true then 1 else 0 := by
  have quiet : ((s.linkUpNotice p).port d).boardRuns = ((s.linesSent p).port d).boardRuns := by
    show ((((s.linesSent p).produceQuietly p).oweOffer p).port d).boardRuns = _
    rw [(oweOffer_kept _ p d).2.2.2, produceQuietly_boardRuns]
  rw [quiet, linesSent_port]

theorem writeSegment_on {u : State} {k : Fin 6} (off : (u.segment k).enable = false) (serving : u.inService = true) :
    u.writeSegment k [(1, 1)] =
      (((u.enableSetTo k true).refuseOwed (.sp k)).linkUpNotice (.sp k)).evaluateEach
        (u.moved (((u.enableSetTo k true).refuseOwed (.sp k)).linkUpNotice (.sp k))) := by
  have up : (u.enableSetTo k true).linkUp (.sp k) = true := by rw [enableSetTo_linkUp, serving]; rfl
  have sent : u.segmentSent k [(1, 1)] = ((u.enableSetTo k true).refuseOwed (.sp k)).linkUpNotice (.sp k) := by
    show (u.enableSetTo k true).followEnable k (u.segment k).enable true = _
    unfold State.followEnable
    rw [off, up]
    rfl
  rw [writeSegment_eq, sent]

section
variable (v : State) (d : Port)

theorem refuseOwed_attnPort : (v.refuseOwed d).attnPort d = { v.attnPort d with offersDue := 0 } := by
  rw [refuseOwed_eq]
  exact get_put_same ..

theorem refuseOwed_port (p : Port) : (v.refuseOwed d).port p = v.port p := (congrArg (State.port · p) (v.refuseOwed_frame d)).trans rfl

theorem refuseOwed_lines : (v.refuseOwed d).lines = v.lines := (congrArg State.lines (v.refuseOwed_frame d) :)

theorem refuseOwed_lineContent (b : BoardLine) : (v.refuseOwed d).lineContent b = v.lineContent b :=
  (congrArg (State.lineContent · b) (v.refuseOwed_frame d)).trans rfl

theorem refuseOwed_linkUp (p : Port) : (v.refuseOwed d).linkUp p = v.linkUp p :=
  (congrArg (State.linkUp · p) (v.refuseOwed_frame d)).trans rfl

end

/-- What a write that enables a disabled SP k leaves with the loader READY (R112, R120, R141, R166). -/
theorem writeSegment_enables {u : State} {k : Fin 6} (off : (u.segment k).enable = false) (serving : u.inService = true) :
    let t := u.writeSegment k [(1, 1)]
    t = { u with
      segments := put u.segments k { u.segment k with enable := true }, lines := t.lines, ports := t.ports,
      attn := { u.attn with ports := t.attn.ports }, counters := { u.counters with attnRefused := ((u.enableSetTo k true).refuseOwed (.sp k)).counters.attnRefused } } ∧
    t.linkUp (.sp k) = true ∧ u.PortsKept t ∧ (t.port (.sp k)).boardRuns = (u.port (.sp k)).boardRuns + 1 ∧
    (∀ p : Port, p ≠ .sp k → (t.port p).boardRuns = (u.port p).boardRuns) ∧
    (∀ j : Fin 192, t.lines.get j =
      if (u.lines.get j).enable = true ∧ (u.lines.get j).port = .sp k then
        { u.lines.get j with pending := some (u.lineContent (u.lines.get j)) } else u.lines.get j) ∧
    (t.attnPort (.sp k)).last = t.report (.sp k) ∧
    ((u.attnPort (.sp k)).slot ≠ .queued → (t.attnPort (.sp k)).slot = .prepared (t.attnFrame (.sp k) (t.report (.sp k))) ∧
      (t.attnPort (.sp k)).offersDue = 1) := by
  intro t
  have kept : u.PortsKept ((u.enableSetTo k true).refuseOwed (.sp k)) :=
    State.PortsKept.trans (t := u.enableSetTo k true) (.of_ports rfl) (refuseOwed_portsKept _ (.sp k))
  have refusedSlot := refuseOwed_attnPort (u.enableSetTo k true) (.sp k)
  have refusedPort := refuseOwed_port (u.enableSetTo k true) (.sp k)
  have refusedLines := refuseOwed_lines (u.enableSetTo k true) (.sp k)
  have refusedContent := refuseOwed_lineContent (u.enableSetTo k true) (.sp k)
  have refusedUp : ((u.enableSetTo k true).refuseOwed (.sp k)).linkUp (.sp k) = true := by
    rw [refuseOwed_linkUp, enableSetTo_linkUp, serving]
    rfl
  have refusedFrame := (u.enableSetTo k true).refuseOwed_frame (.sp k)
  have written : t = _ := writeSegment_on off serving
  rw [written]
  clear written t
  generalize (u.enableSetTo k true).refuseOwed (.sp k) = v at *
  have frame := v.linkUpNotice_frame (.sp k)
  have settled : ((v.linkUpNotice (.sp k)).attnPort (.sp k)).last = (v.linkUpNotice (.sp k)).report (.sp k) := by
    rw [linkUpNotice_last, linkUpNotice_report]
  have runs := linkUpNotice_boardRuns v (.sp k)
  have lines := linkUpNotice_lines v (.sp k)
  have slot := fun h => linkUpNotice_attnPort (s := v) (p := .sp k) h
  have noticed := linkUpNotice_portsKept v (.sp k)
  have up := linkUpNotice_linkUp v (.sp k) (.sp k)
  have report := linkUpNotice_report v (.sp k) (.sp k)
  have attnFrame := linkUpNotice_attnFrame v (.sp k) (.sp k)
  generalize v.linkUpNotice (.sp k) = w at *
  generalize u.moved w = ds
  refine ⟨?_, ?_, ?_, ?_, fun p hp => ?_, fun j => ?_, ?_, fun hq => ?_⟩
  · rw [evaluateEach_lines]
    refine Eq.trans (w.evaluateEach_frame ds) (Eq.trans
      (congrArg (State.withReports (w.evaluateEach ds).ports (w.evaluateEach ds).attn.ports) frame)
      (congrArg (State.withLinks w.lines (w.evaluateEach ds).ports (w.evaluateEach ds).attn.ports) refusedFrame))
  · rw [evaluateEach_linkUp, up, refusedUp]
  · exact (kept.trans noticed).trans (evaluateEach_portsKept w ds)
  · rw [evaluateEach_boardRuns, runs, if_pos ⟨rfl, refusedUp⟩, refusedPort]
    rfl
  · rw [evaluateEach_boardRuns, runs, if_neg (not_and_of_not_left _ hp), refusedPort]
    rfl
  · rw [evaluateEach_lines, lines, refusedLines, refusedContent]
    rfl
  · rw [(evaluateEach_settled settled ds).1, settled, evaluateEach_report]
  · have prepared := slot (by rwa [refusedSlot])
    rw [(evaluateEach_settled settled ds).1, prepared, evaluateEach_report, evaluateEach_attnFrame, report, attnFrame, refusedSlot]
    exact ⟨rfl, rfl⟩

theorem writeTable_enable (s : State) (h : MgmtHeader) (k : Fin 6) (off : (s.segment k).enable = false) :
    let args := [4, byteOf k.val, 0, 1, 1, 1, 0]
    let req : MgmtRequest := ⟨h.source, h.tag, 2, args⟩
    let a := s.attnPort (.sp k)
    s.TakesRequest req →
    ∃ t : State, exec (.writeTable h args) s = .next (t.reply req .ok [4, byteOf k.val, 0, 1, 0xFF] false) ∧
      t = { s.atRequest with
        segments := put s.segments k { s.segment k with enable := true }, lines := t.lines, ports := t.ports,
        attn := { s.attn with ports := t.attn.ports }
        counters := { s.counters with attnRefused :=
          match a.slot with
          | .prepared _ => min 65535 (s.counters.attnRefused + a.offersDue)
          | _ => s.counters.attnRefused } } ∧
      t.linkUp (.sp k) = true ∧ s.PortsKept t ∧ (t.port (.sp k)).boardRuns = (s.port (.sp k)).boardRuns + 1 ∧
      (∀ p : Port, p ≠ .sp k → (t.port p).boardRuns = (s.port p).boardRuns) ∧
      (∀ j : Fin 192, t.lines.get j =
        if (s.lines.get j).enable = true ∧ (s.lines.get j).port = .sp k then
          { s.lines.get j with pending := some (s.lineContent (s.lines.get j)) } else s.lines.get j) ∧
      (t.attnPort (.sp k)).last = t.report (.sp k) ∧
      (a.slot ≠ .queued → (t.attnPort (.sp k)).slot = .prepared (t.attnFrame (.sp k) (t.report (.sp k))) ∧
        (t.attnPort (.sp k)).offersDue = 1) ∧
      ∀ d : Port, d ≠ .sp k → s.ReportFollows t d := by
  intro args req a taken
  have answer := exec_writeTable_enable (v := 1) (by decide) taken
  have follow := fun d => writeSegment_follows_other s.atRequest k [(1, 1)] (d := d)
  obtain ⟨frame, up, kept, runs, others, lines, last, prepared⟩ :=
    writeSegment_enables (u := s.atRequest) off (State.inService_iff.2 taken.1)
  have refused := congrArg (·.counters.attnRefused) (refuseOwed_eq (s.atRequest.enableSetTo k true) (.sp k))
  dsimp only at refused
  rw [refused] at frame
  exact ⟨_, answer, frame, up, kept, runs, others, lines, last, prepared, follow⟩

end Sys2Proof.Machine
end

section
/-! WRITE_TABLE in the terms of its statement: the values of R3, R94, R95, R117, R127, R154 and R164, and the status of an answer. -/

namespace Sys2Proof.Machine

/-! ## Legalized values as numbers -/

theorem kindSet_toNat {v : Nat} (h : v < 65536) (set : BitVec 16) : (BitVec.ofNat 16 v &&& set).toNat = v &&& set.toNat := by
  rw [BitVec.toNat_and, BitVec.toNat_ofNat, Nat.mod_eq_of_lt h]

theorem clamp_eq {low high : Nat} (h : low ≤ high) (v : Nat) : clamp low high v = max low (min high v) := by
  unfold clamp
  omega

theorem legalWindowLength_eq (v : Nat) : legalWindowLength v = (max 5 (min 60 v) + 2) / 5 * 5 := by
  unfold legalWindowLength clamp
  dsimp only
  split <;> omega

theorem legalRate_eq {v : Nat} (h : v < 65536) : clamp 16 65535 v = max 16 v := by
  unfold clamp
  omega

theorem legalBoardStep_eq (v : Nat) : (if v = 1 ∨ v = 5 ∨ v = 10 then v else 5) = if v = 1 ∨ v = 10 then v else 5 := by
  split <;> split <;> omega

theorem legalOverride_eq (v : Nat) : (if v < 64 then v else 0xFFFF) = if v ≤ 63 then v else 0xFFFF :=
  if_congr Nat.lt_succ_iff rfl rfl

theorem legalTrim_eq {v : Nat} (h : v < 65536) :
    unsigned16 (legalTrim v) = if v < 32768 then min 3600 v else max 61936 v := by
  unfold unsigned16 legalTrim signed16
  split <;> omega

/-! ## The status of an answer (log entry 19) -/

theorem TableId.isKindSet_iff {table : TableId} {f : Nat} : table.isKindSet f = true ↔
    (table = .park ∧ f = 9) ∨ (table = .segment ∧ (f = 10 ∨ f = 11)) := by
  simp [TableId.isKindSet]

/-- A value counts as written when the stored one is the written one, bits 10 to 15 of a kind set aside. -/
theorem TableId.legalizes_eq_false {table : TableId} {f v : Nat} (h : v < 65536) : table.legalizes f v = false ↔
    table.legalize f v =
      if (table = .park ∧ f = 9) ∨ (table = .segment ∧ (f = 10 ∨ f = 11)) then v &&& 0x3FF else v := by
  unfold TableId.legalizes
  dsimp only
  rw [bne_eq_false_iff_eq, if_congr TableId.isKindSet_iff (kindSet_toNat h namedKinds) rfl]
  rfl

theorem writeStatus_eq {table : TableId} {pairs : List (Nat × Nat)} {asWritten : Nat × Nat → Prop} [∀ p, Decidable (asWritten p)]
    (h : ∀ p ∈ pairs, asWritten p ↔ table.legalizes p.1 p.2 = false) :
    writeStatus table pairs = if ∀ p ∈ pairs, asWritten p then .ok else .okLegalized := by
  unfold writeStatus
  by_cases all : ∀ p ∈ pairs, asWritten p
  · rw [if_pos all, if_neg]
    simpa using fun f v hp => (h (f, v) hp).1 (all (f, v) hp)
  · rw [if_neg all, if_pos]
    obtain ⟨p, hp, not⟩ : ∃ p ∈ pairs, ¬ asWritten p := by simpa using all
    exact List.any_eq_true.2 ⟨p, hp, by simpa using mt (h p hp).2 not⟩

theorem storedFields_congr {stored : TableId → Nat → Nat → Nat} {table : TableId} {pairs : List (Nat × Nat)}
    (h : ∀ p ∈ pairs, stored table p.1 p.2 = table.legalize p.1 p.2) (entry : List Nat) :
    storedFields table pairs entry = pairs.foldl (fun e p => e.set (p.1 - 1) (stored table p.1 p.2)) entry :=
  List.foldl_ext _ _ _ fun _ p hp => by rw [h p hp]

/-! ## The three tables -/

theorem writeTable_written {s : State} {h : MgmtHeader} {table : TableId} {index : Nat} {pairs : List (Nat × Nat)}
    (ht : table = .park ∨ table = .lane ∨ table = .segment) (hi : index < table.entries) (hr : WriteRequest table pairs)
    (shut : table = .lane → s.clock.day = .opened → ∀ p ∈ pairs, p.1 ≠ 1 ∧ p.1 ≠ 9 ∧ p.1 ≠ 10)
    (rides : table = .lane → ∀ v : Nat, (1, v) ∈ pairs → min 250 v ≠ 0 →
      ∀ j : Fin 64, j.val ≠ index → (s.lane j).config.ride ≠ min 250 v) :
    let number := if table = .park then 1 else if table = .lane then 2 else 4
    let req : MgmtRequest := ⟨h.source, h.tag, 2, writeArgs (byteOf number) index pairs⟩
    s.TakesRequest req →
    ∃ t : State, exec (.writeTable h (writeArgs (byteOf number) index pairs)) s =
        .next (t.reply req (writeStatus table pairs) ([byteOf number] ++ le16 index ++ [byteOf pairs.length, 0xFF]) false) ∧
      s.TableWritten t table index pairs := by
  intro number req taken
  have checked := hr.checked shut rides
  rcases ht with rfl | rfl | rfl
  · obtain rfl : index = 0 := Nat.lt_one_iff.1 hi
    exact ⟨_, exec_writeRequest (number := byteOf 1) hr (by decide) rfl hi checked taken, writePark_written hr⟩
  · have small : index < 64 := hi
    exact ⟨_, exec_writeRequest (number := byteOf 2) hr (by omega) rfl hi checked taken, writeLane_written ⟨index, hi⟩ hr (shut rfl)⟩
  · have small : index < 6 := hi
    exact ⟨_, exec_writeRequest (number := byteOf 4) hr (by omega) rfl hi checked taken, writeSegment_written ⟨index, hi⟩ hr⟩

/-- Settles O49: the clauses one by one, the values of the statement being those that the model stores. -/
theorem writeTableStoresLegalized : Obligations.WriteTableStoresLegalized := by
  unfold Obligations.WriteTableStoresLegalized
  intro within code stored asWritten status written request args content
  have values : ∀ (table : TableId) (f v : Nat), 1 ≤ f → f ≤ table.writable → v < 65536 → stored table f v = table.legalize f v := by
    intro table f v h1 h hv
    symm
    cases table with
    | park =>
      have top : f ≤ 9 := h
      interval_cases f <;> first | rfl | exact clamp_eq (by omega) v | exact kindSet_toNat hv trunkKinds
    | lane =>
      have top : f ≤ 19 := h
      interval_cases f <;> first
        | rfl
        | exact clamp_eq (by omega) v
        | exact legalRate_eq hv
        | exact legalBoardStep_eq v
        | exact legalWindowLength_eq v
    | rule =>
      have top : f ≤ 8 := h
      interval_cases f <;> first | rfl | exact legalOverride_eq v
    | segment =>
      have top : f ≤ 11 := h
      interval_cases f <;> first
        | rfl
        | exact clamp_eq (by omega) v
        | exact legalTrim_eq hv
        | exact kindSet_toNat hv delegableKinds
        | exact kindSet_toNat hv zoneKinds
    | boardLine =>
      have top : f ≤ 5 := h
      interval_cases f <;> first | rfl | exact clamp_eq (by omega) v
    | laneLive | window | counters => exact absurd (Nat.le_trans h1 h) (by decide)
  have statuses : ∀ (table : TableId) (pairs : List (Nat × Nat)), request table pairs → status table pairs = writeStatus table pairs := by
    intro table pairs hr
    refine (writeStatus_eq fun p hp => ?_).symm
    obtain ⟨low, top, small⟩ := hr.2.2.2 p hp
    rw [TableId.legalizes_eq_false small, ← values table p.1 p.2 low top small]
  have entries : ∀ (table : TableId) (pairs : List (Nat × Nat)) (entry : List Nat), request table pairs →
      written table pairs entry = storedFields table pairs entry := by
    intro table pairs entry hr
    refine (storedFields_congr (fun p hp => ?_) entry).symm
    obtain ⟨low, top, small⟩ := hr.2.2.2 p hp
    exact values table p.1 p.2 low top small
  refine ⟨writeTable_walkTime, writeTable_ruleMask, writeTable_lineOff, writeTable_disable,
    fun s h table index pairs ht hi hr shut rides => ?_, fun s h j pairs hr => ?_, fun s h j pairs hr => ?_,
    writeTable_lineMarked, writeTable_enable⟩
  · intro number req taken
    obtain ⟨t, answer, left⟩ := writeTable_written ht hi hr shut rides taken
    refine ⟨t, ?_, left.frame, ?_, left.others, left.lanes, left.kept, left.trunk, left.zone, left.moved, left.lane, left.follow,
      left.changed⟩
    · rw [statuses table pairs hr]
      exact answer
    · rw [entries table pairs _ hr]
      exact left.entry
  · rw [statuses .rule pairs hr, entries .rule pairs _ hr]
    exact writeTable_rule s h j pairs hr
  · rw [statuses .boardLine pairs hr, entries .boardLine pairs _ hr]
    exact writeTable_line s h j pairs hr

end Sys2Proof.Machine
end

section
/-! The Flow Estimator: smoothing, the posted wait, and the procedure of one lane at a period boundary. -/

namespace Sys2Proof.Machine

/-! ## The posted wait (R36) -/

/-- A number divided, rounded up, and multiplied again is its next multiple. -/
theorem ceilDiv_mul_bounds (a : Nat) {b : Nat} (hb : 0 < b) : a ≤ ceilDiv a b * b ∧ ceilDiv a b * b < a + b := by
  have quotient : ceilDiv a b * b + (a + b - 1) % b = a + b - 1 := Nat.div_add_mod' ..
  have rest : (a + b - 1) % b < b := Nat.mod_lt _ hb
  omega

/-- Settles O23: rounding up reaches the next multiple of the step, and 240 is a multiple of each step. -/
theorem postedWaitIsRoundedUp : Obligations.PostedWaitIsRoundedUp := by
  refine ⟨fun l => rfl, fun wRaw step hs => ?_⟩
  obtain ⟨reached, next⟩ := ceilDiv_mul_bounds wRaw (b := step) (by omega)
  unfold postedWait
  generalize ceilDiv wRaw step = k at reached next
  rcases hs with rfl | rfl | rfl <;> omega

/-! ## Smoothing (R33) -/

/-- Smoothing moves by w/16 of the distance to the sample, rounded down, to the sample's side. -/
theorem smoothingStep_cases (d : Int) (w : Nat) :
    (0 ≤ d ∧ Int.tdiv (d * w) 16 = (d.natAbs * w / 16 : Nat)) ∨ (d ≤ 0 ∧ Int.tdiv (d * w) 16 = -(d.natAbs * w / 16 : Nat)) := by
  obtain ⟨n, rfl | rfl⟩ := d.eq_nat_or_neg
  · refine .inl ⟨Int.natCast_nonneg n, ?_⟩
    rw [Int.natAbs_natCast, ← Int.natCast_mul]
    rfl
  · refine .inr ⟨by omega, ?_⟩
    rw [Int.natAbs_neg, Int.natAbs_natCast, Int.neg_mul, Int.neg_tdiv, ← Int.natCast_mul]
    rfl

/-- A fraction w/16 of a distance is at most the distance. -/
theorem fraction_le (n : Nat) {w : Nat} (hw : w ≤ 16) : n * w / 16 ≤ n :=
  Nat.div_le_of_le_mul (by rw [Nat.mul_comm]; exact Nat.mul_le_mul_right n hw)

theorem rateSample_le (bs period : Nat) : rateSample bs period ≤ 65535 := Nat.min_le_left ..

/-- Settles O22: the step of smoothing goes to the sample's side, and no further than the sample. -/
theorem sampleIsFoldedIn : Obligations.SampleIsFoldedIn := by
  intro l p _ hw hr s16 d m
  have top : s16 ≤ 65535 := rateSample_le ..
  have rate : m.live.r16 = ((l.live.r16 : Int) + Int.tdiv (d * l.config.smoothing) 16).toNat := rfl
  have side := smoothingStep_cases d l.config.smoothing
  have part := fraction_le d.natAbs hw
  have whole : l.config.smoothing = 16 → d.natAbs * l.config.smoothing / 16 = d.natAbs := fun h => by
    rw [h, Nat.mul_div_cancel _ (by decide)]
  have nothing : (d * l.config.smoothing).natAbs < 16 → d.natAbs * l.config.smoothing / 16 = 0 := fun h => by
    rw [Int.natAbs_mul, Int.natAbs_natCast] at h
    exact Nat.div_eq_of_lt h
  have distance : d = (s16 : Int) - l.live.r16 := rfl
  refine ⟨rfl, ?_⟩
  rw [rate]
  generalize Int.tdiv (d * l.config.smoothing) 16 = step at side
  generalize d.natAbs * l.config.smoothing / 16 = fraction at side part whole nothing
  clear_value d s16
  refine ⟨by omega, by omega, by omega, by omega, fun h => ?_, fun h => ?_⟩
  · have := whole h; omega
  · have := nothing h; omega

/-! ## The procedure of one lane (R29 to R37) -/

section
variable {l : Lane} (p : Nat)

theorem Lane.periodBoundary_unused (h : l.config.ride = 0) : l.periodBoundary p = l :=
  if_pos (by rw [Lane.inUse_eq_false.2 h]; rfl)

/-- A lane in use that is not open is held, its accumulators 0 (R29). -/
theorem Lane.periodBoundary_stopped (hu : l.config.ride ≠ 0) (hm : l.live.mode.isOpen = false) :
    l.periodBoundary p = { l with live := { l.live with entries := 0, bs := 0, bp := 0, skew := 0 } } := by
  rw [Lane.periodBoundary, Lane.inUse_eq_true.2 hu, hm]
  rfl

/-- An open lane that the checks of R30 and R31 leave stale is held (R31, R37). -/
theorem Lane.periodBoundary_held (hu : l.config.ride ≠ 0) (hm : l.live.mode.isOpen = true)
    (stale : l.checkSkew.checkStale.live.stale = true) :
    l.periodBoundary p = { l.checkSkew.checkStale with live := l.checkSkew.checkStale.live.startPeriod } := by
  rw [Lane.periodBoundary, Lane.inUse_eq_true.2 hu, hm]
  dsimp only [Bool.not_true]
  rw [if_pos stale]
  rfl

/-- An open lane that the checks of R30 and R31 leave not stale is sampled, and its wait computed (R32 to R37). -/
theorem Lane.periodBoundary_sampled (hu : l.config.ride ≠ 0) (hm : l.live.mode.isOpen = true)
    (fresh : l.checkSkew.checkStale.live.stale = false) :
    l.periodBoundary p =
      let m := (l.checkSkew.checkStale.takeSample p).computeWait
      { m with live := m.live.startPeriod } := by
  rw [Lane.periodBoundary, Lane.inUse_eq_true.2 hu, hm]
  dsimp only [Bool.not_true]
  rw [if_neg (ne_true_of_eq_false fresh)]
  rfl

end

/-- COUNT_SKEW is latched beyond a skew limit that is not 0 (R30). -/
theorem Lane.checkSkew_eq (l : Lane) : l.checkSkew = { l with
    countSkew := l.countSkew || (decide (l.config.skewLimit ≠ 0) && decide (l.config.skewLimit < l.live.skew))
    live := { l.live with skew := 0 } } := by
  have limit : (l.config.skewLimit != 0) = decide (l.config.skewLimit ≠ 0) := by
    rw [Bool.eq_iff_iff, bne_iff_ne, decide_eq_true_iff]
  rw [Lane.checkSkew, limit]

/-- The check of R31: riders stand and none boarded, or the staleness ends. -/
theorem Lane.checkStale_eq (l : Lane) : l.checkStale =
    let standing := 0 < l.live.q ∧ l.live.bs = 0 ∧ l.live.bp = 0
    let periods := min 15 (l.live.stalePeriods + 1)
    { l with live := { l.live with
        stalePeriods := if standing then periods else 0
        stale := if standing then l.live.stale || decide (l.config.staleLimit ≤ periods) else false } } := by
  unfold Lane.checkStale
  by_cases h : 0 < l.live.q ∧ l.live.bs = 0 ∧ l.live.bp = 0
  · rw [if_pos ⟨h.1, by omega⟩]
    simp only [if_pos h]
    rfl
  · rw [if_neg fun x => h ⟨x.1, by omega⟩]
    simp only [if_neg h]

/-- What the checks of a period boundary leave of an open lane (R30, R31). -/
theorem Lane.checked_eq (l : Lane) : l.checkSkew.checkStale =
    let standing := 0 < l.live.q ∧ l.live.bs = 0 ∧ l.live.bp = 0
    let periods := min 15 (l.live.stalePeriods + 1)
    { l with
      countSkew := l.countSkew || (decide (l.config.skewLimit ≠ 0) && decide (l.config.skewLimit < l.live.skew))
      live := { l.live with
        skew := 0
        stalePeriods := if standing then periods else 0
        stale := if standing then l.live.stale || decide (l.config.staleLimit ≤ periods) else false } } := by
  rw [Lane.checkStale_eq, Lane.checkSkew_eq]

/-- Whether the checks of a period boundary leave an open lane stale (R30, R31). -/
theorem Lane.checked_stale (l : Lane) : l.checkSkew.checkStale.live.stale = true ↔
    (0 < l.live.q ∧ l.live.bs = 0 ∧ l.live.bp = 0) ∧
      (l.live.stale = true ∨ l.config.staleLimit ≤ min 15 (l.live.stalePeriods + 1)) := by
  rw [Lane.checked_eq]
  simp

/-- Settles O20: a lane that is not open, and an open one that the check of R31 leaves stale. -/
theorem stoppedAndSilentLanesAreHeld : Obligations.StoppedAndSilentLanesAreHeld := by
  refine ⟨fun l p hu hm => ?_, fun l p hu hm hq hs hp limit => ?_⟩
  · exact Lane.periodBoundary_stopped p hu (by rcases hm with hm | hm <;> rw [hm] <;> rfl)
  · have standing : 0 < l.live.q ∧ l.live.bs = 0 ∧ l.live.bp = 0 := ⟨hq, hs, hp⟩
    have stale := l.checked_stale.2 ⟨standing, limit.symm⟩
    rw [Lane.periodBoundary_held p hu hm stale, LaneLive.startPeriod, stale, Lane.checked_eq]
    simp only [if_pos standing]

/-- Settles O21: the check of R31 leaves the lane not stale, so that it is sampled and its wait computed. -/
theorem boardingLaneIsSampled : Obligations.BoardingLaneIsSampled := by
  intro l p hu hm standing calm
  have fresh : l.checkSkew.checkStale.live.stale = false := by
    refine Bool.eq_false_iff.2 fun stale => ?_
    obtain ⟨still, flagged | reached⟩ := l.checked_stale.1 stale
    · exact ne_true_of_eq_false (calm still).1 flagged
    · exact Nat.not_le.2 (calm still).2 reached
  rw [Lane.periodBoundary_sampled p hu hm fresh]
  rw [Lane.checked_eq] at fresh ⊢
  exact ⟨(Int.toNat_eq_max _).trans (max_comm ..), rfl, rfl, rfl, fresh, rfl, rfl, rfl, rfl, rfl, rfl, rfl, rfl, rfl, rfl, rfl, rfl⟩

end Sys2Proof.Machine
end

section
/-! Publishing several lanes at once: what it leaves of lanes, lines and the runs owed. -/

namespace Sys2Proof.Machine

/-! ## Lines marked (R135) -/

theorem markLines_line (s : State) (select : BoardLine → Bool) (j : Fin 192) : (s.markLines select).lines.get j =
    if (s.lines.get j).enable = true ∧ select (s.lines.get j) = true then
      { s.lines.get j with pending := some (s.lineContent (s.lines.get j)) }
    else s.lines.get j := by
  rw [State.markLines, get_tabulate]
  simp only [Bool.and_eq_true]

theorem markPublished_line (s : State) (select : Fin 64 → Bool) (j : Fin 192) : (s.markPublished select).lines.get j =
    if (s.lines.get j).enable = true ∧ select (s.lines.get j).lane = true then
      { s.lines.get j with pending := some (s.lineContent (s.lines.get j)) }
    else s.lines.get j := by
  rw [State.markPublished, oweRuns_lines, markLines_line]

/-- The lines of a lane in use show what was published, which is OFF while the day is SHUT (R129, R130). -/
theorem Lane.published_currentContent {l : Lane} (hu : l.config.ride ≠ 0) (dayOpen : Bool) (dayOffset n : Nat) :
    (l.published dayOpen dayOffset n).currentContent dayOpen = (l.published dayOpen dayOffset n).publish.content := by
  have used : (l.published dayOpen dayOffset n).inUse = true := Lane.inUse_eq_true.2 hu
  rw [Lane.currentContent, used]
  cases dayOpen <;> rfl

theorem Lane.currentContent_unused {l : Lane} (h : l.config.ride = 0) (dayOpen : Bool) :
    l.currentContent dayOpen = ⟨.off, none, .absent⟩ := by
  rw [Lane.currentContent, Lane.inUse_eq_false.2 h, Bool.and_false]
  rfl

/-! ## Every lane published (R136) -/

/-- A table's entries satisfy a test somewhere when one of them does. -/
theorem any_toList {α : Type} {n : Nat} (v : Vector α n) (test : α → Bool) :
    v.toList.any test = true ↔ ∃ j : Fin n, test (v.get j) = true := by
  rw [List.any_eq_true]
  constructor
  · rintro ⟨b, hb, h⟩
    obtain ⟨j, hj, rfl⟩ := List.mem_iff_getElem.1 hb
    exact ⟨⟨j, by simpa using hj⟩, h⟩
  · rintro ⟨j, h⟩
    exact ⟨v.get j, by simp [Vector.get], h⟩

theorem hasLine_iff {s : State} {i : Fin 64} {p : Port} : s.hasLine i p = true ↔
    ∃ j : Fin 192, (s.lines.get j).enable = true ∧ (s.lines.get j).lane = i ∧ (s.lines.get j).port = p := by
  simp [State.hasLine, and_assoc]

variable (s : State)

/-- The state of OPEN_DAY and CLOSE_DAY once every lane in use has been published, its lines not yet marked. -/
def State.lanesPublished : State :=
  s.setLanes fun i => if (s.lane i).inUse then (s.lane i).published s.dayOpen s.clock.dayOffset s.minute else s.lane i

theorem lanesPublished_lane (i : Fin 64) : s.lanesPublished.lane i =
    if (s.lane i).config.ride = 0 then s.lane i else (s.lane i).published s.dayOpen s.clock.dayOffset s.minute := by
  rw [State.lanesPublished, setLanes_lane]
  by_cases h : (s.lane i).config.ride = 0
  · rw [if_pos h, Lane.inUse_eq_false.2 h]; rfl
  · rw [if_neg h, Lane.inUse_eq_true.2 h]; rfl

/-- The runs of offers of OPEN_DAY and CLOSE_DAY: one for each lane in use with an enabled line on the port, and one where there are lines
of unused lanes (R136, R138, log entry 34). -/
def State.allRuns (p : Port) : Nat :=
  ((List.finRange 64).filter fun i => decide ((s.lane i).config.ride ≠ 0) && s.hasLine i p).length +
    if ∃ i : Fin 64, (s.lane i).config.ride = 0 ∧ s.hasLine i p = true then 1 else 0

theorem lanesPublished_inUse (i : Fin 64) : (s.lanesPublished.lane i).inUse = decide ((s.lane i).config.ride ≠ 0) := by
  rw [Bool.eq_iff_iff, Lane.inUse_eq_true, decide_eq_true_iff, lanesPublished_lane]
  split <;> rfl

/-- Whether a port has lines of unused lanes, read from the lines or from the lanes. -/
theorem any_unusedLine (p : Port) :
    (s.lines.toList.any fun b => b.enable && !(s.lanesPublished.lane b.lane).inUse && b.port == p) = true ↔
      ∃ i : Fin 64, (s.lane i).config.ride = 0 ∧ s.hasLine i p = true := by
  have test : ∀ b : BoardLine, (b.enable && !(s.lanesPublished.lane b.lane).inUse && b.port == p) = true ↔
      (s.lane b.lane).config.ride = 0 ∧ b.enable = true ∧ b.port = p := fun b => by
    rw [lanesPublished_inUse, Bool.and_eq_true, Bool.and_eq_true, Bool.not_eq_true', decide_eq_false_iff_not, not_not, beq_iff_eq]
    tauto
  simp only [any_toList, test, hasLine_iff]
  constructor
  · rintro ⟨j, ride, enable, port⟩
    exact ⟨_, ride, j, enable, rfl, port⟩
  · rintro ⟨i, ride, j, enable, rfl, port⟩
    exact ⟨j, ride, enable, port⟩

/-- What OPEN_DAY and CLOSE_DAY publish, in steps: the lanes, their lines, and the runs of offers (R136). -/
theorem publishAll_eq : s.publishAll = (s.lanesPublished.markLines fun _ => true).oweRuns s.allRuns := by
  refine congrArg (State.oweRuns _) (funext fun p => ?_)
  show s.lanesPublished.publishRuns (fun i => (s.lanesPublished.lane i).inUse) p +
    (if (s.lines.toList.any fun b => b.enable && !(s.lanesPublished.lane b.lane).inUse && b.port == p) = true then 1 else 0) = _
  simp only [publishRuns_eq, any_unusedLine]
  simp only [lanesPublished_inUse]
  rfl

theorem publishAll_lane (i : Fin 64) : s.publishAll.lane i =
    if (s.lane i).config.ride = 0 then s.lane i else (s.lane i).published s.dayOpen s.clock.dayOffset s.minute := by
  rw [publishAll_eq, State.lane, oweRuns_lanes]
  exact lanesPublished_lane s i

/-- The content that OPEN_DAY and CLOSE_DAY give the lines of a lane: what was published, and OFF for an unused lane (R136). -/
theorem publishAll_line (j : Fin 192) : s.publishAll.lines.get j =
    let b := s.lines.get j
    if b.enable = true then
      { b with pending := some (
          if (s.lane b.lane).config.ride = 0 then ⟨.off, none, .absent⟩ else (s.publishAll.lane b.lane).publish.content) }
    else b := by
  dsimp only
  have content : s.lanesPublished.lineContent (s.lines.get j) =
      if (s.lane (s.lines.get j).lane).config.ride = 0 then ⟨.off, none, .absent⟩
      else (s.publishAll.lane (s.lines.get j).lane).publish.content := by
    rw [State.lineContent, lanesPublished_lane, publishAll_lane]
    split
    · next unused => exact Lane.currentContent_unused unused _
    · next used => exact Lane.published_currentContent used ..
  rw [← content, publishAll_eq, oweRuns_lines, markLines_line]
  simp only [and_true]
  rfl

theorem publishAll_runsOwed : s.RunsOwed s.publishAll s.allRuns := fun p => by
  have owed := oweRuns_runsOwed (s.lanesPublished.markLines fun _ => true) s.allRuns p
  rw [← publishAll_eq, markLines_linkUp, State.lanesPublished, setLanes_linkUp] at owed
  exact owed

theorem publishAll_tx (d : Port) : (s.publishAll.port d).tx = (s.port d).tx := by
  rw [publishAll_eq, oweRuns_tx]
  rfl

end Sys2Proof.Machine
end

section
/-! The period boundary in the state: every lane in use estimated and handed to the publish check, and the reports that follow. -/

namespace Sys2Proof.Machine

/-! ## One lane: the procedure, and the publish check (R29, R133) -/

/-- The procedure of a period boundary changes live fields and COUNT_SKEW alone (R29 to R37). -/
theorem Lane.periodBoundary_frame (l : Lane) (p : Nat) : l.periodBoundary p =
    { l with live := (l.periodBoundary p).live, countSkew := (l.periodBoundary p).countSkew } := by
  by_cases hu : l.config.ride = 0
  · rw [Lane.periodBoundary_unused p hu]
  cases hm : l.live.mode.isOpen with
  | false => rw [Lane.periodBoundary_stopped p hu hm]
  | true =>
    cases hs : l.checkSkew.checkStale.live.stale with
    | true => rw [Lane.periodBoundary_held p hu hm hs, Lane.checked_eq]
    | false => rw [Lane.periodBoundary_sampled p hu hm hs, Lane.checked_eq]; rfl

/-- The publish check changes the publish state alone (R133). -/
theorem Lane.publishCheck_frame (l : Lane) (dayOpen : Bool) (dayOffset n : Nat) : (l.publishCheck dayOpen dayOffset n).1 =
    { l with publish := (l.publishCheck dayOpen dayOffset n).1.publish } := by
  unfold Lane.publishCheck
  split <;> rfl

theorem Lane.publishCheck_published {l : Lane} {dayOpen : Bool} {dayOffset n : Nat} (h : (l.publishCheck dayOpen dayOffset n).2 = true) :
    (l.publishCheck dayOpen dayOffset n).1 = l.published dayOpen dayOffset n := by
  unfold Lane.publishCheck at h ⊢
  split at h
  · next due => rw [if_pos due]
  · cases h

section
variable (s : State) (d : PeriodDue)

theorem State.dayOpen_eq_decide : s.dayOpen = decide (s.clock.day = .opened) := by
  rw [Bool.eq_iff_iff, State.dayOpen_eq_true, decide_eq_true_iff]

theorem periodLane_used {i : Fin 64} (h : (s.lane i).config.ride ≠ 0) : s.periodLane d i =
    ((s.lane i).periodBoundary d.period).publishCheck s.dayOpen s.clock.dayOffset (d.ops / 60) := by
  refine if_pos (Lane.inUse_eq_true.2 ?_)
  rw [Lane.periodBoundary_frame]
  exact h

theorem periodLane_unused {i : Fin 64} (h : (s.lane i).config.ride = 0) : s.periodLane d i = (s.lane i, false) := by
  unfold State.periodLane
  rw [Lane.periodBoundary_unused _ h]
  exact if_neg (by rw [Lane.inUse_eq_false.2 h]; decide)

/-- A lane after a period boundary: estimated, with the publish state that the check leaves (R29, R133). -/
theorem periodLane_frame (i : Fin 64) : (s.periodLane d i).1 = { s.lane i with
    live := ((s.lane i).periodBoundary d.period).live
    countSkew := ((s.lane i).periodBoundary d.period).countSkew
    publish := (s.periodLane d i).1.publish } := by
  by_cases h : (s.lane i).config.ride = 0
  · rw [periodLane_unused s d h, Lane.periodBoundary_unused _ h]
  · rw [periodLane_used s d h, Lane.publishCheck_frame, Lane.periodBoundary_frame]

/-- The lanes a period boundary publishes: those in use whose check publishes (R133). -/
theorem periodLane_publishes (i : Fin 64) : (s.periodLane d i).2 = (decide ((s.lane i).config.ride ≠ 0) &&
    (((s.lane i).periodBoundary d.period).publishCheck s.dayOpen s.clock.dayOffset (d.ops / 60)).2) := by
  by_cases h : (s.lane i).config.ride = 0
  · rw [periodLane_unused s d h, decide_eq_false (not_not.2 h), Bool.false_and]
  · rw [periodLane_used s d h, decide_eq_true h, Bool.true_and]

/-- The lines of a published lane show what the check has published (R129, R135). -/
theorem periodLane_currentContent {i : Fin 64} (h : (s.periodLane d i).2 = true) :
    (s.periodLane d i).1.currentContent s.dayOpen = (s.periodLane d i).1.publish.content := by
  by_cases hu : (s.lane i).config.ride = 0
  · rw [periodLane_unused s d hu] at h
    cases h
  · rw [periodLane_used s d hu] at h ⊢
    rw [Lane.publishCheck_published h]
    refine Lane.published_currentContent ?_ ..
    rw [Lane.periodBoundary_frame]
    exact hu

/-! ## Every lane (R29, R37, R133) -/

/-- The state a period boundary has reached before the reports are re-evaluated: the lanes estimated and checked, the lines of those
published marked. -/
def State.periodChecked : State :=
  (s.setLanes fun i => (s.periodLane d i).1).markPublished fun i => (s.periodLane d i).2

/-- The lane kinds a period boundary gives the Unit: mode and staleness of each lane in use, and a COUNT_SKEW newly latched (R37). -/
def State.periodGiven (i : Fin 64) : List AttnKind :=
  if (s.lane i).inUse then [.laneDown, .laneStale] ++ newCountSkew (s.lane i) (s.periodLane d i).1 else []

/-- What a period boundary does, in two parts: the lanes and their lines, and then the reports (R37). -/
theorem periodBoundary_eq : ∃ ds : List Port, s.periodBoundary d = (s.periodChecked d).evaluateEach ds ∧
    ∀ e ∈ (s.periodChecked d).touched (s.periodGiven d), e ∈ ds := by
  refine ⟨_, rfl, fun e he => ?_⟩
  obtain ⟨i, k, hk, rfl⟩ := mem_touched.1 he
  refine mem_touched.2 ⟨i, k, ?_, ?_⟩
  · rw [setLanes_lane]
    exact hk
  · refine (laneRoute_congr ?_ (fun j => ?_) k i).symm
    · rw [State.periodChecked, markPublished_segments]
    · rw [State.periodChecked, State.lane, markPublished_lanes]
      rfl

theorem periodChecked_lane (i : Fin 64) : (s.periodChecked d).lane i = (s.periodLane d i).1 := by
  rw [State.periodChecked, State.lane, markPublished_lanes]
  exact setLanes_lane ..

theorem periodChecked_frame : s.periodChecked d = { s with
    lanes := (s.periodChecked d).lanes, lines := (s.periodChecked d).lines, ports := (s.periodChecked d).ports } := by
  unfold State.periodChecked
  rw [markPublished_lanes]
  exact State.markPublished_frame (s.setLanes fun i => (s.periodLane d i).1) _

theorem periodChecked_line (j : Fin 192) : (s.periodChecked d).lines.get j =
    let b := s.lines.get j
    if b.enable = true ∧ (s.periodLane d b.lane).2 = true then
      { b with pending := some (s.periodLane d b.lane).1.publish.content }
    else b := by
  rw [State.periodChecked, markPublished_line]
  by_cases h : (s.lines.get j).enable = true ∧ (s.periodLane d (s.lines.get j).lane).2 = true
  · have content : (s.setLanes fun i => (s.periodLane d i).1).lineContent (s.lines.get j) =
        (s.periodLane d (s.lines.get j).lane).1.publish.content := by
      rw [State.lineContent, setLanes_lane]
      exact periodLane_currentContent s d h.2
    dsimp only
    rw [← content]
    rfl
  · exact (if_neg h).trans (if_neg h).symm

theorem periodChecked_portsKept : s.PortsKept (s.periodChecked d) :=
  State.PortsKept.trans (t := s.setLanes fun i => (s.periodLane d i).1) (.of_ports rfl) (markPublished_portsKept _ _)

theorem periodChecked_runsOwed : s.RunsOwed (s.periodChecked d) fun p =>
    ((List.finRange 64).filter fun i => (s.periodLane d i).2 && s.hasLine i p).length := fun p => by
  have owed := markPublished_runsOwed (s.setLanes fun i => (s.periodLane d i).1) (fun i => (s.periodLane d i).2) p
  rw [setLanes_linkUp] at owed
  exact owed

/-- A kind that a period boundary does not give the Unit is pending as it was (R30, R31, R37). -/
theorem periodChecked_pending {i : Fin 64} {k : AttnKind} (hn : k ∉ s.periodGiven d i) :
    (s.periodChecked d).laneKindPending k i = s.laneKindPending k i := by
  have day : (s.periodChecked d).dayOpen = s.dayOpen := (congrArg State.dayOpen (periodChecked_frame s d) :)
  have lane := (periodChecked_lane s d i).trans (periodLane_frame s d i)
  refine laneKindPending_congr day (by rw [lane]) k ?_
  by_cases hu : (s.lane i).config.ride = 0
  · rw [periodChecked_lane, periodLane_unused s d hu]
    cases k <;> first | rfl | trivial
  · rw [State.periodGiven, if_pos (Lane.inUse_eq_true.2 hu)] at hn
    cases k with
    | laneDown | laneStale => simp at hn
    | countSkew =>
      rw [periodChecked_lane]
      by_contra h
      refine hn ?_
      rw [newCountSkew, if_neg (Ne.symm h)]
      simp
    | grantLow => rw [lane]
    | _ => trivial

theorem periodBoundary_reportsFollow {ds : List Port} (h : ∀ e ∈ (s.periodChecked d).touched (s.periodGiven d), e ∈ ds) :
    s.ReportsFollow ((s.periodChecked d).evaluateEach ds) := by
  have frame := periodChecked_frame s d
  refine touched_reportsFollow h (congrArg State.attn frame :) (fun e => ?_) (fun i k _ => periodChecked_pending s d)
    (congrArg State.segments frame :) (congrArg State.park frame :) (fun i => ?_) (congrArg (·.ring.headHeld) frame :)
  · rw [State.periodChecked, State.markPublished, oweRuns_tx]
    rfl
  · rw [periodChecked_lane, periodLane_frame]

end

/-- Settles O19: the lanes and their lines, and then the reports, in the state that has taken the boundary from those owed. -/
theorem periodBoundaryEstimatesLanes : Obligations.PeriodBoundaryEstimatesLanes := by
  intro s d rest hr hd checked
  let u : State := { s with clock := { s.clock with periodsDue := rest } }
  have run : exec .periodBoundary s = .next (u.periodBoundary d) := by
    rw [exec, execPeriodBoundary, whileReleased_released hr, hd]
  obtain ⟨ds, parts, reached⟩ := periodBoundary_eq u d
  have publishes : ∀ i, (u.periodLane d i).2 = (decide ((s.lane i).config.ride ≠ 0) && (checked i).2) := fun i => by
    rw [periodLane_publishes, State.dayOpen_eq_decide]
    rfl
  have lane : ∀ i, ((u.periodChecked d).evaluateEach ds).lane i = (u.periodLane d i).1 := fun i => by
    rw [State.lane, evaluateEach_lanes]
    exact periodChecked_lane u d i
  rw [run, parts]
  refine ⟨_, rfl, ?_, (periodChecked_portsKept u d).trans (evaluateEach_portsKept _ _), periodBoundary_reportsFollow u d reached,
    fun p => ?_, fun i => ?_, fun j => ?_⟩
  · rw [evaluateEach_lanes, evaluateEach_lines]
    exact ((u.periodChecked d).evaluateEach_frame ds).trans (congrArg
      (State.withReports ((u.periodChecked d).evaluateEach ds).ports ((u.periodChecked d).evaluateEach ds).attn.ports)
      (periodChecked_frame u d) :)
  · rw [evaluateEach_boardRuns]
    have owed := periodChecked_runsOwed u d p
    simp only [publishes] at owed
    exact owed
  · rw [lane]
    have frame := periodLane_frame u d i
    refine ⟨(congrArg Lane.live frame :), (congrArg Lane.countSkew frame :), (congrArg Lane.config frame :),
      (congrArg Lane.windows frame :), (congrArg Lane.grantLow frame :), ?_⟩
    by_cases h : (s.lane i).config.ride = 0
    · rw [if_pos h, periodLane_unused u d h]
      rfl
    · rw [if_neg h, periodLane_used u d h, State.dayOpen_eq_decide]
      rfl
  · dsimp only
    rw [evaluateEach_lines, periodChecked_line, lane]
    simp only [publishes, Bool.and_eq_true, decide_eq_true_iff]
    rfl

end Sys2Proof.Machine
end

section
/-! CLOSE_DAY accepted: the day emptied, every lane in use published with OFF, and every report evaluated. -/

namespace Sys2Proof.Machine

/-- CLOSE_DAY with every lane CLOSED passes its checks, and replies the counts of records as they stood (R148, R149). -/
theorem carryCloseDay_accepted {s : State} (hd : s.clock.day = .opened) (h : ∀ i, (s.lane i).live.mode = .closed) :
    carryCloseDay [] s = ⟨s.closeDay, .ok,
      absentByte :: (le16 (countState s.register 1) ++ le16 (countState s.register 3) ++ le16 (countState s.register 2)), false⟩ := by
  rw [carryCloseDay, withLength_eq (n := 0) (args := []) rfl, State.dayOpen_eq_true.2 hd, firstOpenLane_none.2 h]
  rfl

section
variable (s : State)

theorem closeDay_lane (i : Fin 64) : s.closeDay.lane i = {
    config := (s.lane i).config
    live := { (s.lane i).live with entries := 0, bs := 0, bp := 0, skew := 0, stalePeriods := 0, stale := false }
    publish := if (s.lane i).config.ride = 0 then (s.lane i).publish else ⟨.off, (s.lane i).live.posted, .absent, 0⟩
    windows := [], grantLow := false, countSkew := (s.lane i).countSkew } := by
  rw [State.closeDay, State.lane, evaluateEach_lanes, ← State.lane, publishAll_lane, dayEmptied_lane]
  by_cases h : (s.lane i).config.ride = 0
  · rw [if_pos h]
    exact if_pos h
  · rw [if_neg h]
    exact if_neg h

/-- Every enabled line shows OFF, whether its lane is in use or not (R136). -/
theorem closeDay_line (j : Fin 192) : s.closeDay.lines.get j =
    if (s.lines.get j).enable = true then { s.lines.get j with pending := some ⟨.off, none, .absent⟩ } else s.lines.get j := by
  rw [State.closeDay, evaluateEach_lines, publishAll_line]
  have content : ∀ i : Fin 64, (if (s.dayEmptied.lane i).config.ride = 0 then ⟨.off, none, .absent⟩
      else (s.dayEmptied.publishAll.lane i).publish.content) = (⟨.off, none, .absent⟩ : LineContent) := fun i => by
    split
    · rfl
    · next used => rw [publishAll_lane, if_neg used]; rfl
  dsimp only
  rw [content]
  rfl

theorem closeDay_frame : s.closeDay = { s with
    clock := { s.clock with day := .shut, minutesDue := [], periodsDue := [] }
    register := [], ring := .empty, lanes := s.closeDay.lanes, lines := s.closeDay.lines, ports := s.closeDay.ports,
    attn := { s.attn with ports := s.closeDay.attn.ports } } := by
  unfold State.closeDay
  rw [evaluateEach_lanes, evaluateEach_lines]
  exact (s.dayEmptied.publishAll.evaluateEach_frame allPorts).trans (congrArg
    (State.withReports (s.dayEmptied.publishAll.evaluateEach allPorts).ports (s.dayEmptied.publishAll.evaluateEach allPorts).attn.ports)
    s.dayEmptied.publishAll_frame :)

theorem closeDay_portsKept : s.PortsKept s.closeDay :=
  State.PortsKept.trans (t := s.dayEmptied) (.of_ports rfl) ((publishAll_portsKept _).trans (evaluateEach_portsKept _ _))

theorem closeDay_runsOwed : s.RunsOwed s.closeDay s.allRuns := fun p => by
  have rides : ∀ i, (s.dayEmptied.lane i).config.ride = (s.lane i).config.ride := fun i => by rw [dayEmptied_lane]; rfl
  have owed := publishAll_runsOwed s.dayEmptied p
  rw [linkUp_congr (s := s) (t := s.dayEmptied) rfl rfl rfl p, State.allRuns] at owed
  simp only [rides] at owed
  rw [State.closeDay, evaluateEach_boardRuns]
  exact owed

theorem closeDay_last (p : Port) : (s.closeDay.attnPort p).last = s.closeDay.report p := by
  rw [State.closeDay, evaluateEach_last _ (mem_allPorts p), evaluateEach_report]

theorem closeDay_reportsFollow : s.ReportsFollow s.closeDay :=
  evaluateEach_reportsFollow (fun d => by rw [State.attnPort, publishAll_attn]; rfl) (publishAll_tx s.dayEmptied)
    fun d h => absurd (mem_allPorts d) h

end

/-- Settles O41: the request passes its checks, and each part of what it leaves. -/
theorem closeDayEmptiesTheDay : Obligations.CloseDayEmptiesTheDay := by
  intro s h hd closed req held taken
  exact ⟨s.atRequest.closeDay, takeRequest_answered taken (carryCloseDay_accepted (s := s.atRequest) hd closed),
    closeDay_frame s.atRequest, closeDay_portsKept s.atRequest, closeDay_runsOwed s.atRequest, closeDay_lane s.atRequest,
    closeDay_last s.atRequest, closeDay_reportsFollow s.atRequest, closeDay_line s.atRequest⟩

end Sys2Proof.Machine
end

section
/-! The limits of the ring and of the queues, and the empty queues of a HELD port, kept by every operation. -/

namespace Sys2Proof.Machine

/-! ## What keeps the law -/

/-- A state whose queues and ring are no longer than they were, and whose links are HELD only where they were or where both queues are
empty, meets the law. -/
theorem State.QueueLaw.of_shorter {s t : State} (h : s.QueueLaw)
    (hp : ∀ p, (t.port p).rx.length ≤ (s.port p).rx.length ∧ (t.port p).tx.length ≤ (s.port p).tx.length)
    (hl : ∀ p, t.linkUp p = false → s.linkUp p = false ∨ (t.port p).rx = [] ∧ (t.port p).tx = [])
    (hr : t.ring.grants.length ≤ s.ring.grants.length) : t.QueueLaw := by
  obtain ⟨ports, ring⟩ := h
  refine ⟨fun p => ?_, hr.trans ring⟩
  obtain ⟨rx, tx, held⟩ := ports p
  refine ⟨(hp p).1.trans rx, (hp p).2.trans tx, fun down => ?_⟩
  rcases hl p down with down | empty
  · obtain ⟨noRx, noTx⟩ := held down
    have shorter := hp p
    rw [noRx, noTx] at shorter
    exact ⟨List.eq_nil_of_length_eq_zero (Nat.le_zero.1 shorter.1), List.eq_nil_of_length_eq_zero (Nat.le_zero.1 shorter.2)⟩
  · exact empty

/-- Kept ports, links HELD only where they were, and a ring no longer than it was. -/
theorem State.QueueLaw.of_kept {s t : State} (h : s.QueueLaw) (hp : s.PortsKept t)
    (hl : ∀ p, t.linkUp p = false → s.linkUp p = false) (hr : t.ring.grants.length ≤ s.ring.grants.length) : t.QueueLaw :=
  h.of_shorter (fun p => ⟨by rw [(hp p).1], (hp p).length.le⟩) (fun p down => .inl (hl p down)) hr

/-- Kept ports, and everything that decides the links and the ring as it was. -/
theorem State.QueueLaw.of_ports {s t : State} (h : s.QueueLaw) (hp : s.PortsKept t) (h1 : t.resetHeld = s.resetHeld)
    (h2 : t.loader.state = s.loader.state) (h3 : t.segments = s.segments) (hr : t.ring = s.ring) : t.QueueLaw :=
  h.of_kept hp (fun p down => (linkUp_congr h1 h2 h3 p).symm.trans down) (by rw [hr])

theorem State.QueueLaw.of_same {s t : State} (h : s.QueueLaw) (hp : t.ports = s.ports) (h1 : t.resetHeld = s.resetHeld)
    (h2 : t.loader.state = s.loader.state) (h3 : t.segments = s.segments) (hr : t.ring = s.ring) : t.QueueLaw :=
  h.of_ports (.of_ports hp) h1 h2 h3 hr

/-- Empty queues at every port meet the law whatever the links. -/
theorem State.QueueLaw.of_empty {t : State} (hp : ∀ p, (t.port p).rx = [] ∧ (t.port p).tx = []) (hr : t.ring.grants.length ≤ 512) :
    t.QueueLaw :=
  ⟨fun p => by rw [(hp p).1, (hp p).2]; exact ⟨Nat.zero_le _, Nat.zero_le _, fun _ => ⟨rfl, rfl⟩⟩, hr⟩

/-- One port changed within its limits, to empty queues when its link is HELD. -/
theorem State.QueueLaw.setPort {s : State} (h : s.QueueLaw) {p : Port} {q : PortState} (rx : q.rx.length ≤ 24) (tx : q.tx.length ≤ 48)
    (held : s.linkUp p = false → q.rx = [] ∧ q.tx = []) : (s.setPort p q).QueueLaw := by
  refine ⟨fun r => ?_, h.2⟩
  rw [setPort_port, setPort_linkUp]
  split
  · next e => subst e; exact ⟨rx, tx, held⟩
  · exact h.1 r

/-- One port changed to queues no longer than it had. -/
theorem State.QueueLaw.setPort_shorter {s : State} (h : s.QueueLaw) {p : Port} {q : PortState}
    (rx : q.rx.length ≤ (s.port p).rx.length) (tx : q.tx.length ≤ (s.port p).tx.length) : (s.setPort p q).QueueLaw := by
  refine h.of_shorter (fun r => ?_) (fun r down => .inl ((setPort_linkUp s p q r).symm.trans down)) (Nat.le_refl _)
  rw [setPort_port]
  split
  · next e => subst e; exact ⟨rx, tx⟩
  · exact ⟨Nat.le_refl _, Nat.le_refl _⟩

/-- One port flushed, and every other port kept with its link. -/
theorem State.QueueLaw.of_flushed {s t : State} {p : Port} (h : s.QueueLaw) (hp : (t.port p).rx = [] ∧ (t.port p).tx = [])
    (others : ∀ r, r ≠ p → t.port r = s.port r ∧ t.linkUp r = s.linkUp r) (hr : t.ring = s.ring) : t.QueueLaw := by
  refine h.of_shorter (fun r => ?_) (fun r down => ?_) (by rw [hr])
  · by_cases e : r = p
    · rw [e, hp.1, hp.2]; exact ⟨Nat.zero_le _, Nat.zero_le _⟩
    · rw [(others r e).1]; exact ⟨Nat.le_refl _, Nat.le_refl _⟩
  · by_cases e : r = p
    · rw [e]; exact .inr hp
    · exact .inl ((others r e).2.symm.trans down)

/-- A frame that a port admits keeps the law (R120). -/
theorem State.QueueLaw.enqueue {s : State} (h : s.QueueLaw) {p : Port} {k : Producer} (ha : s.admits p k = true) (f : TxFrame) :
    (s.enqueue p f).QueueLaw := by
  refine h.setPort (h.1 p).1 ?_ fun down => ?_
  · rw [List.length_append]
    exact admits_length ha
  · rw [State.admits, down] at ha
    cases ha

/-! ## Shared operations -/

/-- A resolution leaves the ring as long as it was, or one grant shorter (R58). -/
theorem resolveHead_grants (s : State) : s.resolveHead.ring.grants.length ≤ s.ring.grants.length := by
  unfold State.resolveHead
  split
  · exact Nat.le_refl _
  · next g rest hg =>
    rw [hg]
    split
    iterate 2 exact Nat.le_succ _
    · rw [← hg]
    · exact Nat.le_succ _

section
variable {s : State} (h : s.QueueLaw)
include h

theorem count_queueLaw (f : Counters → Counters) : (s.count f).QueueLaw := h.of_same rfl rfl rfl rfl rfl

theorem setLane_queueLaw (i : Fin 64) (l : Lane) : (s.setLane i l).QueueLaw := h.of_same rfl rfl rfl rfl rfl

theorem setLanes_queueLaw (f : Fin 64 → Lane) : (s.setLanes f).QueueLaw := h.of_same rfl rfl rfl rfl rfl

theorem setAttnPort_queueLaw (d : Port) (a : AttnPort) : (s.setAttnPort d a).QueueLaw := h.of_same rfl rfl rfl rfl rfl

theorem countPort_queueLaw (p : Port) (f : PortCounters → PortCounters) : (s.countPort p f).QueueLaw :=
  h.setPort_shorter (Nat.le_refl _) (Nat.le_refl _)

theorem produce_queueLaw (d : Port) : (s.produce d).QueueLaw :=
  h.of_ports (produce_portsKept s d) (by simp) (by simp) (by simp) (by simp)

theorem evaluate_queueLaw (d : Port) : (s.evaluate d).QueueLaw :=
  h.of_ports (evaluate_portsKept s d) (by simp) (by simp) (by simp) (by simp)

theorem evaluateEach_queueLaw (ds : List Port) : (s.evaluateEach ds).QueueLaw :=
  h.of_ports (evaluateEach_portsKept s ds) (by simp) (by simp) (by simp) (by simp)

theorem markPublished_queueLaw (select : Fin 64 → Bool) : (s.markPublished select).QueueLaw :=
  h.of_ports (markPublished_portsKept s select) (by simp) (by simp) (by simp) (by simp)

theorem publishAll_queueLaw : s.publishAll.QueueLaw :=
  h.of_ports (publishAll_portsKept s) (by simp) (by simp) (by simp) (by simp)

theorem oweBoardRuns_queueLaw (p : Port) (n : Nat) : (s.oweBoardRuns p n).QueueLaw :=
  h.of_ports (oweBoardRuns_portsKept s p n) (by simp) (by simp) (by simp) (by simp)

theorem changeMode_queueLaw (i : Fin 64) (m : LaneMode) (e : Bool) : (s.changeMode i m e).QueueLaw :=
  h.of_ports (changeMode_portsKept s i m e) (by simp) (by simp) (by simp) (by simp)

theorem linkUpNotice_queueLaw (p : Port) : (s.linkUpNotice p).QueueLaw :=
  h.of_ports (linkUpNotice_portsKept s p) (by simp) (by simp) (by simp) (by simp)

theorem refuseOwed_queueLaw (d : Port) : (s.refuseOwed d).QueueLaw :=
  refuseOwed_eq s d ▸ h.of_same rfl rfl rfl rfl rfl

/-- The end of a load brings links up and none down (R193). -/
theorem loaderReady_queueLaw (o : LoaderOutcome) : (s.loaderReady o).QueueLaw := by
  refine h.of_kept (loaderReady_portsKept s o) (fun p down => ?_) (by simp)
  have ready : (s.loaderReady o).loader.state = .ready := (congrArg (·.loader.state) (s.loaderReady_frame o) :)
  have enabled : (s.loaderReady o).portEnabled p = s.portEnabled p := by
    cases p <;> simp [State.portEnabled, State.segment]
  rw [State.linkUp, State.inService, ready, loaderReady_resetHeld, enabled] at down
  rw [State.linkUp, State.inService]
  cases hr : s.resetHeld <;> cases he : s.portEnabled p <;> simp_all

theorem giveGrantHeld_queueLaw (u : State) : (u.giveGrantHeld s).QueueLaw := by
  unfold State.giveGrantHeld
  split
  · exact h
  · exact evaluate_queueLaw h .tp

theorem startRun_queueLaw : s.startRun.QueueLaw := by
  unfold State.startRun
  split
  · exact ⟨h.1, h.2⟩
  · exact h

theorem resolveHead_queueLaw : s.resolveHead.QueueLaw :=
  h.of_kept (.of_ports (by simp)) (fun p down => (linkUp_congr (by simp) (by simp) (by simp) p).symm.trans down) (resolveHead_grants s)

theorem sendAnswer_queueLaw (o : ScanOrigin) (ticket : Nat) (a : Answer) : (s.sendAnswer o ticket a).QueueLaw := by
  rcases sendAnswer_cases s o ticket a with ⟨admitted, frame, e⟩ | ⟨-, e⟩ <;> rw [e]
  · exact h.enqueue admitted _
  · exact count_queueLaw h _

theorem offerReply_queueLaw (frame : List Byte) (engine : Bool) : (s.offerReply frame engine).QueueLaw := by
  rcases offerReply_cases s frame engine with ⟨admitted, e⟩ | ⟨-, e⟩ <;> rw [e]
  · exact (h.enqueue admitted _).of_same rfl rfl rfl rfl rfl
  · exact h.of_same rfl rfl rfl rfl rfl

theorem reply_queueLaw (req : MgmtRequest) (st : Status) (c : List Byte) (e : Bool) : (s.reply req st c e).QueueLaw :=
  offerReply_queueLaw h _ e

theorem forward_queueLaw (p : Port) (bytes : List Byte) : (s.forward p bytes).QueueLaw := by
  rcases forward_cases s p bytes with ⟨admitted, e⟩ | ⟨-, e⟩ <;> rw [e]
  · exact count_queueLaw (h.enqueue admitted _) _
  · exact countPort_queueLaw h p _

theorem portNotice_queueLaw (p : Port) : (s.portNotice p).QueueLaw :=
  (oweBoardRuns_queueLaw h p 1).of_same (by simp [State.portNotice]) (by simp [State.portNotice]) (by simp [State.portNotice])
    (by simp [State.portNotice]) (by simp [State.portNotice])

theorem roomNotice_queueLaw (p : Port) : (s.roomNotice p).QueueLaw := by
  have notice := portNotice_queueLaw h p
  unfold State.roomNotice
  dsimp only
  split
  · exact notice.of_same rfl rfl rfl rfl rfl
  · exact notice

end

theorem consumeRun_queueLaw {s : State} (h : s.QueueLaw) (fuel : Nat) : (s.consumeRun fuel).QueueLaw := by
  induction fuel generalizing s with
  | zero => exact h
  | succ fuel ih =>
    unfold State.consumeRun
    split
    · exact ih (resolveHead_queueLaw h)
    · exact h

/-! ## Flushed ports (R113, R123) -/

theorem flushPort_linkUp (s : State) (p r : Port) : (s.flushPort p).linkUp r = s.linkUp r := by
  rw [s.flushPort_frame p]
  exact linkUp_congr rfl rfl rfl r

theorem flushPort_ring (s : State) (p : Port) : (s.flushPort p).ring = s.ring := (congrArg State.ring (s.flushPort_frame p) :)

/-- After the queues have been emptied a flush only gives notices. -/
theorem flushPort_portsKept (s : State) (p : Port) : (s.flush p).PortsKept (s.flushPort p) :=
  ((requeueSlot_portsKept (s.flush p) p).trans (oweBoardRuns_portsKept _ p 1)).trans (.of_ports (oweOffer_ports ..))

theorem flushPort_queues (s : State) (p : Port) : ((s.flushPort p).port p).rx = [] ∧ ((s.flushPort p).port p).tx = [] := by
  have flushed : (s.flush p).port p = { s.port p with rx := [], tx := [], sending := false, boardRuns := 0 } := by
    rw [flush_port, if_pos rfl]
  have kept := flushPort_portsKept s p p
  rw [flushed] at kept
  exact ⟨kept.1, List.eq_nil_of_length_eq_zero kept.length⟩

theorem flushPort_queueLaw {s : State} (h : s.QueueLaw) (p : Port) : (s.flushPort p).QueueLaw :=
  h.of_flushed (flushPort_queues s p) (fun r e => ⟨(flushPort_other s e).2, flushPort_linkUp s p r⟩) (flushPort_ring s p)

/-- A segment reset flushes the port before it queues its LINK_RESET (R123). -/
theorem resetSegmentPort_queueLaw {s : State} (h : s.QueueLaw) (k : Fin 6) : (s.resetSegmentPort k).QueueLaw := by
  unfold State.resetSegmentPort
  have counted := countPort_queueLaw (flushPort_queueLaw h (.sp k)) (.sp k) fun _ => .zero
  have empty : (((s.flushPort (.sp k)).countPort (.sp k) fun _ => .zero).port (.sp k)).tx = [] := by
    rw [countPort_port, if_pos rfl]
    exact (flushPort_queues s (.sp k)).2
  generalize (s.flushPort (.sp k)).countPort (.sp k) _ = u at counted empty ⊢
  have sent : (u.sendLinkReset (.sp k)).QueueLaw := by
    unfold State.sendLinkReset
    split
    · next up => exact counted.enqueue (k := .linkReset) ((admits_generated (by decide)).2 ⟨up, by rw [empty]; decide⟩) _
    · exact counted
  unfold State.resetNotice
  split
  · exact linkUpNotice_queueLaw sent _
  · have kept := resend_portsKept (u.sendLinkReset (.sp k)) (.sp k)
    rw [State.resend_frame] at kept ⊢
    exact sent.of_ports kept rfl rfl rfl rfl

/-! ## Table writes (R113, R180) -/

/-- A port other than SP k has the link it had when segment record k changes. -/
theorem setSegment_linkUp_other (s : State) (k : Fin 6) (g : Segment) {p : Port} (h : p ≠ .sp k) :
    (s.setSegment k g).linkUp p = s.linkUp p := by
  cases p with
  | tp => rfl
  | sp j =>
    have e : j ≠ k := fun e => h (congrArg Port.sp e)
    rw [State.linkUp, State.linkUp, State.portEnabled, State.portEnabled, setSegment_segment_other s g e]
    rfl

/-- A segment record whose port enable does not go OFF takes no link down. -/
theorem setSegment_queueLaw {s : State} (h : s.QueueLaw) (k : Fin 6) {g : Segment} (he : (s.segment k).enable = true → g.enable = true) :
    (s.setSegment k g).QueueLaw := by
  refine h.of_kept (.of_ports rfl) (fun p down => ?_) (Nat.le_refl _)
  by_cases e : p = .sp k
  · subst e
    rw [State.linkUp, State.portEnabled, setSegment_segment_same] at down
    rw [State.linkUp, State.portEnabled]
    cases hi : s.inService <;> cases hk : (s.segment k).enable <;> simp_all
  · rw [← setSegment_linkUp_other s k g e]
    exact down

/-- A port enable written with its consequence: a port that goes OFF is flushed, and no other link goes down (R112, R113). -/
theorem followEnable_queueLaw {s : State} (h : s.QueueLaw) (k : Fin 6) (g : Segment) :
    ((s.setSegment k g).followEnable k (s.segment k).enable g.enable).QueueLaw := by
  unfold State.followEnable
  split
  · exact h.of_flushed (flushPort_queues _ _) (fun r e => ⟨(flushPort_other _ e).2,
      (flushPort_linkUp _ _ r).trans (setSegment_linkUp_other s k g e)⟩) (flushPort_ring _ _)
  · next off =>
    have set := setSegment_queueLaw h k (g := g) fun on => by simpa [on] using off
    split
    · exact linkUpNotice_queueLaw (refuseOwed_queueLaw set _) _
    · exact set

theorem writeEntry_queueLaw {s : State} (h : s.QueueLaw) (table : TableId) (index : Nat) (pairs : List (Nat × Nat)) :
    (s.writeEntry table index pairs).QueueLaw := by
  unfold State.writeEntry
  split
  · unfold State.writePark
    have written : State.QueueLaw { s with park := pairs.foldl (fun k p => k.write p.1 p.2) s.park } := h.of_same rfl rfl rfl rfl rfl
    dsimp only
    split <;> split
    · exact evaluate_queueLaw (produce_queueLaw written _) _
    · exact evaluate_queueLaw written _
    · exact produce_queueLaw written _
    · exact written
  · split
    · unfold State.writeLane
      dsimp only
      split
      · exact setLane_queueLaw h _ _
      · exact evaluateEach_queueLaw (setLane_queueLaw h _ _) _
    · exact h
  · split
    · exact h.of_same rfl rfl rfl rfl rfl
    · exact h
  · split
    · unfold State.writeSegment
      have followed := followEnable_queueLaw h ⟨index, ‹_›⟩ (pairs.foldl (fun g p => g.write p.1 p.2) (s.segment ⟨index, ‹_›⟩))
      refine evaluateEach_queueLaw ?_ _
      split <;> split
      · exact evaluate_queueLaw (produce_queueLaw followed _) _
      · exact evaluate_queueLaw followed _
      · exact produce_queueLaw followed _
      · exact followed
    · exact h
  · split
    · unfold State.writeLine
      dsimp only
      split
      · refine oweBoardRuns_queueLaw ?_ _ _
        exact h.of_same rfl rfl rfl rfl rfl
      · exact h.of_same rfl rfl rfl rfl rfl
    · exact h
  · exact h

theorem writeTable_queueLaw {s t : State} (h : s.QueueLaw) {code index : Nat} {pairs : List (Nat × Nat)} {legalized : Bool}
    (ha : s.writeTable code index pairs = .accepted t legalized) : t.QueueLaw := by
  obtain ⟨table, -, -, -, rfl, -⟩ := writeTable_accepted ha
  exact writeEntry_queueLaw h table index _

end Sys2Proof.Machine
end

section
/-! The limits of the ring and of the queues, kept by every command. -/

namespace Sys2Proof.Machine

/-! ## Requests -/

/-- A request keeps the law when carrying it out does. -/
theorem takeRequest_queueLaw {s t : State} {req : MgmtRequest} {f : State → Carried} (h : takeRequest req s f = .next t)
    (hs : s.QueueLaw) (hf : ∀ {u : State}, u.QueueLaw → (f u).state.QueueLaw) : t.QueueLaw :=
  takeRequest_keeps h hs fun _ => reply_queueLaw (hf (hs.of_same (t := s.atRequest) rfl rfl rfl rfl rfl)) ..

section
variable {s : State} (h : s.QueueLaw)
include h

theorem withLength_queueLaw {args : List Byte} {n : Nat} {bad : List Byte} {f : Unit → Carried} (hf : (f ()).state.QueueLaw) :
    (withLength args n s bad f).state.QueueLaw := by
  unfold withLength
  split
  · exact hf
  · exact h

theorem carrySetMode_queueLaw (args : List Byte) : (carrySetMode args s).state.QueueLaw := by
  refine withLength_queueLaw h ?_
  dsimp only
  repeat' split
  any_goals exact h
  exact changeMode_queueLaw h ..

theorem carryReadTable_queueLaw (args : List Byte) : (carryReadTable args s).state.QueueLaw := by
  refine withLength_queueLaw h ?_
  dsimp only
  repeat' split
  all_goals exact h

theorem carryWriteTable_queueLaw (args : List Byte) : (carryWriteTable args s).state.QueueLaw := by
  unfold carryWriteTable
  dsimp only
  split
  · exact h
  · split
    · exact h
    · exact writeTable_queueLaw h ‹_›

theorem openDay_queueLaw (offset : Nat) : (s.openDay offset).QueueLaw := by
  have built : (s.dayBuilt offset).QueueLaw := h.of_same rfl rfl rfl rfl rfl
  exact publishAll_queueLaw (giveGrantHeld_queueLaw (consumeRun_queueLaw (startRun_queueLaw built) _) _)

theorem carryOpenDay_queueLaw (args : List Byte) : (carryOpenDay args s).state.QueueLaw := by
  refine withLength_queueLaw h ?_
  dsimp only
  split
  · exact h
  · exact openDay_queueLaw h _

theorem closeDay_queueLaw : s.closeDay.QueueLaw := by
  have emptied : s.dayEmptied.QueueLaw :=
    h.of_kept (.of_ports rfl) (fun p down => (linkUp_congr rfl rfl rfl p).symm.trans down) (Nat.zero_le _)
  exact evaluateEach_queueLaw (publishAll_queueLaw emptied) _

theorem carryCloseDay_queueLaw (args : List Byte) : (carryCloseDay args s).state.QueueLaw := by
  have closed := closeDay_queueLaw h
  refine withLength_queueLaw h ?_
  split
  · exact h
  · split
    · exact h
    · dsimp only
      exact closed

/-- A posting fills the ring and does not pass its size (R55, R57). -/
theorem postGrants_queueLaw (grants : List Grant) : (s.postGrants grants).QueueLaw := by
  refine startRun_queueLaw ⟨h.1, ?_⟩
  have ring : s.ring.grants.length ≤ 512 := h.2
  simp only [List.length_append, List.length_take, Config.ringCapacity]
  omega

theorem carryPostGrants_queueLaw (args : List Byte) : (carryPostGrants args s).state.QueueLaw := by
  unfold carryPostGrants
  dsimp only
  split
  · exact h
  · split
    · exact h
    · split
      · exact h
      · exact postGrants_queueLaw h _

theorem voidPass_queueLaw (i : Fin 64) (ticket : Nat) : (s.voidPass i ticket).1.QueueLaw := by
  unfold State.voidPass
  repeat' split
  iterate 2 exact h
  unfold State.voidRecord
  dsimp only
  repeat' split
  all_goals exact h.of_same rfl rfl rfl rfl rfl

theorem carryVoidPass_queueLaw (args : List Byte) : (carryVoidPass args s).state.QueueLaw := by
  refine withLength_queueLaw h ?_
  dsimp only
  split
  · exact voidPass_queueLaw h ..
  · exact h

theorem carryQueryPass_queueLaw (args : List Byte) : (carryQueryPass args s).state.QueueLaw := by
  refine withLength_queueLaw h ?_
  dsimp only
  repeat' split
  all_goals exact h

theorem carryClearAttention_queueLaw (args : List Byte) : (carryClearAttention args s).state.QueueLaw := by
  refine withLength_queueLaw h ?_
  dsimp only
  split
  · exact h
  · refine evaluateEach_queueLaw ?_ _
    exact h.of_same rfl rfl rfl rfl rfl

theorem carryInjectNotice_queueLaw (args : List Byte) : (carryInjectNotice args s).state.QueueLaw := by
  refine withLength_queueLaw h ?_
  dsimp only
  split
  · refine evaluate_queueLaw ?_ _
    exact h.of_same rfl rfl rfl rfl rfl
  · exact h

theorem carryResetSegment_queueLaw (segment : Byte) : (carryResetSegment segment s).state.QueueLaw := by
  unfold carryResetSegment
  split
  · exact h.of_same rfl rfl rfl rfl rfl
  · exact h

theorem carryReadStatus_queueLaw (args : List Byte) : (carryReadStatus args s).state.QueueLaw := by
  refine withLength_queueLaw h ?_
  dsimp only
  repeat' split
  all_goals exact h

theorem carryFlashRead_queueLaw (args : List Byte) (given : Nat) : (carryFlashRead args given s).state.QueueLaw := by
  refine withLength_queueLaw h ?_
  dsimp only
  split <;> exact h

theorem carryFlashWrite_queueLaw (args : List Byte) : (carryFlashWrite args s).state.QueueLaw := by
  unfold carryFlashWrite
  dsimp only
  repeat' split
  iterate 2 exact h
  exact h.of_same rfl rfl rfl rfl rfl

theorem carryFlashStatus_queueLaw (args : List Byte) : (carryFlashStatus args s).state.QueueLaw := withLength_queueLaw h h

/-! ## Lane actions -/

theorem onLaneInUse_queueLaw {i : Fin 64} {f : State → State} (hf : (f s).QueueLaw) : (s.onLaneInUse i f).QueueLaw := by
  unfold State.onLaneInUse
  split
  · exact hf
  · exact count_queueLaw h _

theorem onOpenDay_queueLaw {f : State → State} (hf : (f s).QueueLaw) : (s.onOpenDay f).QueueLaw := by
  unfold State.onOpenDay
  split
  · exact hf
  · exact count_queueLaw h _

/-- A lane action keeps the law when its effect on a lane in use does. -/
theorem takeAction_queueLaw {t : State} {a : ScanAction} {i : Fin 64} {f : State → State}
    (ht : takeAction a s (fun s => s.onLaneInUse i f) = .next t) (hf : ∀ {u : State}, u.QueueLaw → (f u).QueueLaw) : t.QueueLaw :=
  takeAction_keeps ht h fun _ =>
    have taken : (s.atAction a).QueueLaw := h.of_same rfl rfl rfl rfl rfl
    onLaneInUse_queueLaw taken (hf taken)

theorem takeEntry_queueLaw (i : Fin 64) (c : Nat) : (s.takeEntry i c).QueueLaw := onOpenDay_queueLaw h (setLane_queueLaw h ..)

theorem takeBoarding_queueLaw (i : Fin 64) (c c2 : Nat) : (s.takeBoarding i c c2).QueueLaw := by
  refine onOpenDay_queueLaw h ?_
  dsimp only
  split
  · exact setLane_queueLaw h ..
  · exact evaluate_queueLaw (setLane_queueLaw h ..) _

theorem passRequest_queueLaw (i : Fin 64) (ticket party : Nat) : (s.passRequest i ticket party).1.QueueLaw := by
  unfold State.passRequest
  split
  · exact h
  · refine evaluate_queueLaw ?_ _
    exact h.of_same rfl rfl rfl rfl rfl
  · exact h.of_same rfl rfl rfl rfl rfl

theorem passReturn_queueLaw (i : Fin 64) (ticket event : Nat) : (s.passReturn i ticket event).1.QueueLaw := by
  unfold State.passReturn
  repeat' split
  all_goals exact h.of_same rfl rfl rfl rfl rfl

theorem recordStatus_queueLaw (i : Fin 64) (r : RideStatus) : (s.recordStatus i r).QueueLaw := setLane_queueLaw h ..

theorem autoDown_queueLaw (i : Fin 64) : (s.autoDown i).QueueLaw := by
  unfold State.autoDown
  dsimp only
  split
  · exact changeMode_queueLaw h ..
  · exact h

theorem autoRestart_queueLaw (i : Fin 64) : (s.autoRestart i).QueueLaw := by
  unfold State.autoRestart
  dsimp only
  repeat' split
  · exact changeMode_queueLaw h ..
  all_goals exact h

theorem takeRideStatus_queueLaw (i : Fin 64) (status : Nat) : (s.takeRideStatus i status).QueueLaw := by
  unfold State.takeRideStatus
  split
  · exact count_queueLaw h _
  · exact autoDown_queueLaw (recordStatus_queueLaw h ..) i
  · exact autoRestart_queueLaw (recordStatus_queueLaw h ..) i

/-! ## Frames -/

theorem receive_queueLaw (p : Port) (bytes : List Byte) : (s.receive p bytes).QueueLaw := by
  unfold State.receive
  split
  · exact h
  · next up =>
    split
    · exact countPort_queueLaw h ..
    · split
      · exact countPort_queueLaw h ..
      · split
        · next room =>
          refine h.setPort ?_ (h.1 p).2.1 fun down => absurd down (by simpa using up)
          rw [List.length_append]
          exact room
        · refine evaluate_queueLaw ?_ _
          exact State.QueueLaw.of_same (countPort_queueLaw h p fun c => { c with overrun := inc c.overrun }) rfl rfl rfl rfl rfl

theorem routeByWindow_queueLaw (arrival : Port) (bytes : List Byte) : (s.routeByWindow arrival bytes).QueueLaw := by
  unfold State.routeByWindow
  dsimp only
  split
  · exact List.foldlRecOn _ _ h fun u hu p _ => forward_queueLaw hu p bytes
  · repeat' split
    · exact forward_queueLaw h ..
    · exact count_queueLaw h _
    · exact forward_queueLaw h ..
    · exact count_queueLaw h _

theorem handToLane_queueLaw (c : Scan) (o : Option (Fin 64)) (f : Fin 64 → ScanAction) : (s.handToLane c o f).QueueLaw := by
  unfold State.handToLane
  split <;> exact h.of_same rfl rfl rfl rfl rfl

theorem decideScan_queueLaw (c : Scan) : (s.decideScan c).1.QueueLaw := by
  unfold State.decideScan
  split <;> exact h.of_same rfl rfl rfl rfl rfl

theorem classify_queueLaw (segment : Fin 6) (f : RxFrame) : (s.classify segment f).QueueLaw := by
  unfold State.classify
  split
  · exact count_queueLaw h _
  · have decided := decideScan_queueLaw h (scanOf segment f)
    dsimp only
    split
    iterate 5 exact handToLane_queueLaw decided ..
    · exact routeByWindow_queueLaw decided ..
    · exact count_queueLaw decided _
    · exact sendAnswer_queueLaw (count_queueLaw decided _) ..

theorem zoneClear_queueLaw (k : Fin 6) (bytes : List Byte) : (s.zoneClear k bytes).QueueLaw := by
  unfold State.zoneClear
  dsimp only
  repeat' split
  · exact count_queueLaw h _
  · exact evaluate_queueLaw (setLanes_queueLaw h _) _
  · exact h

theorem handRequest_queueLaw (bytes : List Byte) : (s.handRequest bytes).QueueLaw := by
  unfold State.handRequest
  dsimp only
  repeat' split
  · exact count_queueLaw h _
  · exact reply_queueLaw h ..
  · exact reply_queueLaw h ..
  · exact h.of_same rfl rfl rfl rfl rfl

theorem routeRows_queueLaw (arrival : Port) (f : RxFrame) : (s.routeRows arrival f).QueueLaw := by
  unfold State.routeRows
  dsimp only
  split
  · split <;> exact h.of_same rfl rfl rfl rfl rfl
  · split
    · exact count_queueLaw h _
    · split
      · cases arrival with
        | tp =>
          dsimp only
          split
          · exact handRequest_queueLaw h _
          · exact count_queueLaw h _
        | sp k =>
          dsimp only
          split
          · exact zoneClear_queueLaw h ..
          · exact count_queueLaw h _
      · cases arrival with
        | tp => exact routeByWindow_queueLaw h ..
        | sp k =>
          dsimp only
          split
          · exact classify_queueLaw h ..
          · exact routeByWindow_queueLaw h ..

theorem routeHead_queueLaw (p : Port) : (s.routeHead p).QueueLaw := by
  unfold State.routeHead
  split
  · exact h
  · next f rest rx =>
    split
    · exact h
    · refine routeRows_queueLaw (h.setPort_shorter (p := p) (q := { s.port p with rx := rest }) ?_ (Nat.le_refl _)) p f
      rw [rx]
      exact Nat.le_succ _

theorem startSending_queueLaw (p : Port) : (s.startSending p).QueueLaw := by
  unfold State.startSending
  split
  · exact h
  · split
    · have started := h.setPort_shorter (p := p) (q := { s.port p with sending := true }) (Nat.le_refl _) (Nat.le_refl _)
      unfold State.startNotice
      split
      · exact setAttnPort_queueLaw started ..
      · exact started
    · exact h

theorem replySent_queueLaw (f : TxFrame) : (s.replySent f).QueueLaw := by
  unfold State.replySent
  split
  · exact h.of_same rfl rfl rfl rfl rfl
  · exact h

theorem finishSending_queueLaw (p : Port) : (s.finishSending p).QueueLaw := by
  unfold State.finishSending
  split
  · exact h
  · next f rest tx =>
    split
    · dsimp only
      have sent := fun counters => replySent_queueLaw (h.setPort_shorter (p := p) (q := { s.port p with
        tx := rest, sending := false, counters := counters }) (Nat.le_refl _) (by rw [tx]; exact Nat.le_succ _)) f
      split
      · exact roomNotice_queueLaw (sent _) p
      · exact sent _
    · exact h

omit h in
theorem offerBoards_queueLaw {s : State} (h : s.QueueLaw) (p : Port) (fuel : Nat) : (s.offerBoards p fuel).QueueLaw := by
  induction fuel generalizing s with
  | zero => exact h
  | succ fuel ih =>
    unfold State.offerBoards
    dsimp only
    split
    · exact h
    · split
      · next admitted =>
        refine ih (count_queueLaw ?_ _)
        exact (h.enqueue admitted ⟨s.boardFrame (s.nextBoard p), .board⟩).of_same rfl rfl rfl rfl rfl
      · exact count_queueLaw h _

theorem offerAttention_queueLaw (d : Port) : (s.offerAttention d).QueueLaw := by
  unfold State.offerAttention
  split
  · split
    · next admitted => exact count_queueLaw (setAttnPort_queueLaw (h.enqueue admitted _) ..) _
    · exact count_queueLaw (setAttnPort_queueLaw h ..) _
  · exact setAttnPort_queueLaw h ..

/-! ## Resets and the loader -/

theorem engineReset_queueLaw : s.engineReset.QueueLaw := by
  have cleared : s.engineCleared.QueueLaw := .of_empty (fun p => by rw [engineCleared_port]; exact ⟨rfl, rfl⟩) h.2
  unfold State.engineReset
  dsimp only
  split
  · exact cleared
  · exact loaderReady_queueLaw cleared _

omit h in
theorem powerReset_queueLaw (s : State) : s.powerReset.QueueLaw :=
  .of_empty (fun p => by
    have empty : s.powerReset.port p = .empty := get_replicate ..
    rw [empty]; exact ⟨rfl, rfl⟩) (Nat.zero_le _)

theorem assertReset_queueLaw : s.assertReset.QueueLaw := by
  refine .of_empty (fun p => ?_) ?_
  · have port : s.assertReset.port p = { s.port p with rx := [], tx := [], sending := false, boardRuns := 0 } := get_tabulate ..
    rw [port]
    exact ⟨rfl, rfl⟩
  · have ring : s.assertReset.ring = s.ring := abandonWrite_ring s
    rw [ring]
    exact h.2

/-- Before the load has ended no link is up, so a loader that goes on loading takes none down (R111). -/
theorem loading_queueLaw (hp : s.loader.state ≠ .ready) (l : Loader) : State.QueueLaw { s with loader := l } :=
  h.of_kept (.of_ports rfl) (fun p _ => by simp [State.linkUp, State.inService, hp]) (Nat.le_refl _)

theorem probe_queueLaw (header : Option Nat) : (s.probe header).QueueLaw := by
  unfold State.probe
  split
  · exact h
  · next probing =>
    have loading := loading_queueLaw h (fun e => probing (fun e' => nomatch e.symm.trans e'))
    cases header with
    | none => exact loaderReady_queueLaw h _
    | some given =>
      dsimp only
      repeat' split
      · exact loaderReady_queueLaw h _
      · exact loaderReady_queueLaw (loading _) _
      · exact loading _

theorem applyEntry_queueLaw (bytes : List Byte) : (s.applyEntry bytes).QueueLaw := by
  unfold State.applyEntry
  dsimp only
  split
  · exact h.of_same rfl rfl rfl rfl rfl
  · next ha =>
    have written := writeTable_queueLaw h ha
    split
    · exact written.of_same rfl rfl rfl rfl rfl
    · exact written

theorem loadEntry_queueLaw (given : Nat) : (s.loadEntry given).QueueLaw := by
  unfold State.loadEntry
  dsimp only
  split
  · exact h
  · split
    · refine loaderReady_queueLaw (evaluate_queueLaw ?_ _) _
      exact h.of_same rfl rfl rfl rfl rfl
    · have applied := applyEntry_queueLaw h (s.flashBytes (s.loader.entryGiven given) (8 + 6 * s.loader.position) 6)
      generalize s.applyEntry _ = t at applied ⊢
      have moved : ∀ position silent,
          State.QueueLaw { t with loader := { t.loader with position := position, silent := silent } } :=
        fun _ _ => applied.of_same rfl rfl rfl rfl rfl
      split
      · exact loaderReady_queueLaw (moved ..) _
      · exact moved ..

theorem completeWrite_queueLaw (verified : Bool) : (s.completeWrite verified).QueueLaw := by
  unfold State.completeWrite
  split
  · cases verified <;> exact h.of_same rfl rfl rfl rfl rfl
  · exact h

/-! ## The clock -/

theorem second_queueLaw : s.second.QueueLaw := by
  unfold State.second
  split
  · exact h.of_same rfl rfl rfl rfl rfl
  · exact h

theorem minuteBoundary_queueLaw (n : Nat) : (s.minuteBoundary n).QueueLaw := by
  refine evaluateEach_queueLaw (startRun_queueLaw ?_) _
  exact h.of_same rfl rfl rfl rfl rfl

theorem periodBoundary_queueLaw (d : PeriodDue) : (s.periodBoundary d).QueueLaw :=
  evaluateEach_queueLaw (markPublished_queueLaw (setLanes_queueLaw h _) _) _

end

/-! ## Every command -/

theorem exec_queueLaw {c : Instr} {s t : State} (hs : s.QueueLaw) (h : exec c s = .next t) : t.QueueLaw := by
  cases c with
  | powerReset => cases h; exact powerReset_queueLaw s
  | engineReset =>
    rw [exec, execEngineReset] at h
    refine whileReleased_keeps h hs fun _ => ?_
    split
    · exact engineReset_queueLaw hs
    · exact hs
  | segmentReset k =>
    rw [exec, execSegmentReset] at h
    refine whileReleased_keeps h hs fun _ => ?_
    split
    · refine resetSegmentPort_queueLaw ?_ k
      exact hs.of_same rfl rfl rfl rfl rfl
    · exact hs
  | secondArrival =>
    rw [exec, execSecondArrival] at h
    exact whileReleased_keeps h hs fun _ => second_queueLaw hs
  | minuteBoundary =>
    rw [exec, execMinuteBoundary] at h
    refine whileReleased_keeps h hs fun _ => ?_
    split
    · exact hs
    · refine minuteBoundary_queueLaw ?_ _
      exact hs.of_same rfl rfl rfl rfl rfl
  | periodBoundary =>
    rw [exec, execPeriodBoundary] at h
    refine whileReleased_keeps h hs fun _ => ?_
    split
    · exact hs
    · refine periodBoundary_queueLaw ?_ _
      exact hs.of_same rfl rfl rfl rfl rfl
  | clockEndLatch =>
    rw [exec, execClockEndLatch] at h
    refine whileReleased_keeps h hs fun _ => ?_
    split
    · refine evaluate_queueLaw ?_ _
      exact hs.of_same rfl rfl rfl rfl rfl
    · exact hs
  | frameReceive p bytes =>
    rw [exec, execFrameReceive] at h
    exact whileReleased_keeps h hs fun _ => receive_queueLaw hs p bytes
  | routeFrame p =>
    rw [exec, execRouteFrame] at h
    exact whileReleased_keeps h hs fun _ => routeHead_queueLaw hs p
  | countEntry i c => exact takeAction_queueLaw hs h fun hu => takeEntry_queueLaw hu i c
  | countBoarding i c c2 => exact takeAction_queueLaw hs h fun hu => takeBoarding_queueLaw hu i c c2
  | passRequest o i ticket party =>
    exact takeAction_queueLaw hs h fun hu => sendAnswer_queueLaw (passRequest_queueLaw hu i ticket party) ..
  | passReturn o i ticket stamp receipt =>
    exact takeAction_queueLaw hs h fun hu => sendAnswer_queueLaw (passReturn_queueLaw (count_queueLaw hu _) i ticket _) ..
  | rideStatus i status => exact takeAction_queueLaw hs h fun hu => takeRideStatus_queueLaw hu i status
  | setMode _ args => exact takeRequest_queueLaw h hs fun hu => carrySetMode_queueLaw hu args
  | readTable _ args => exact takeRequest_queueLaw h hs fun hu => carryReadTable_queueLaw hu args
  | writeTable _ args => exact takeRequest_queueLaw h hs fun hu => carryWriteTable_queueLaw hu args
  | openDay _ args => exact takeRequest_queueLaw h hs fun hu => carryOpenDay_queueLaw hu args
  | closeDay _ args => exact takeRequest_queueLaw h hs fun hu => carryCloseDay_queueLaw hu args
  | postGrants _ args => exact takeRequest_queueLaw h hs fun hu => carryPostGrants_queueLaw hu args
  | grantResolve =>
    rw [exec, execGrantResolve] at h
    refine whileReleased_keeps h hs fun _ => ?_
    split
    · exact giveGrantHeld_queueLaw (resolveHead_queueLaw hs) s
    · exact hs
  | voidPass _ args => exact takeRequest_queueLaw h hs fun hu => carryVoidPass_queueLaw hu args
  | queryPass _ args => exact takeRequest_queueLaw h hs fun hu => carryQueryPass_queueLaw hu args
  | clearAttention _ args => exact takeRequest_queueLaw h hs fun hu => carryClearAttention_queueLaw hu args
  | injectNotice _ args => exact takeRequest_queueLaw h hs fun hu => carryInjectNotice_queueLaw hu args
  | resetEngine _ _ => exact takeRequest_queueLaw h hs fun hu => hu
  | resetSegment _ segment => exact takeRequest_queueLaw h hs fun hu => carryResetSegment_queueLaw hu segment
  | readStatus _ args => exact takeRequest_queueLaw h hs fun hu => carryReadStatus_queueLaw hu args
  | flashRead _ args given => exact takeRequest_queueLaw h hs fun hu => carryFlashRead_queueLaw hu args given
  | flashWrite _ args => exact takeRequest_queueLaw h hs fun hu => carryFlashWrite_queueLaw hu args
  | flashStatus _ args => exact takeRequest_queueLaw h hs fun hu => carryFlashStatus_queueLaw hu args
  | flashWriteComplete verified =>
    rw [exec, execFlashWriteComplete] at h
    exact whileReleased_keeps h hs fun _ => completeWrite_queueLaw hs verified
  | mgmtReplyOffer =>
    rw [exec, execMgmtReplyOffer] at h
    refine whileReleased_keeps h hs fun _ => ?_
    repeat' split
    · refine offerReply_queueLaw ?_ _ _
      exact hs.of_same rfl rfl rfl rfl rfl
    · exact hs
    · exact hs
  | boardFrameOffer p =>
    rw [exec, execBoardFrameOffer] at h
    refine whileReleased_keeps h hs fun _ => ?_
    split
    · exact offerBoards_queueLaw (hs.setPort_shorter (p := p) (q := { s.port p with boardRuns := (s.port p).boardRuns - 1 })
        (Nat.le_refl _) (Nat.le_refl _)) p 192
    · exact hs
  | attnFrameOffer d =>
    rw [exec, execAttnFrameOffer] at h
    refine whileReleased_keeps h hs fun _ => ?_
    split
    · exact offerAttention_queueLaw hs d
    · exact hs
  | transmitStart p =>
    rw [exec, execTransmitStart] at h
    exact whileReleased_keeps h hs fun _ => startSending_queueLaw hs p
  | transmitComplete p =>
    rw [exec, execTransmitComplete] at h
    exact whileReleased_keeps h hs fun _ => finishSending_queueLaw hs p
  | loaderProbe header =>
    rw [exec, execLoaderProbe] at h
    exact whileReleased_keeps h hs fun _ => probe_queueLaw hs header
  | loaderEntry given =>
    rw [exec, execLoaderEntry] at h
    exact whileReleased_keeps h hs fun _ => loadEntry_queueLaw hs given
  | resetInputAsserted =>
    cases h
    split
    · exact hs
    · exact assertReset_queueLaw hs

/-- Settles O3: every command keeps the law, and an idle step changes nothing. -/
theorem stepKeepsQueueLaw : Obligations.StepKeepsQueueLaw := by
  intro s t hs h
  unfold step at h
  split at h
  · cases h; exact hs
  · refine exec_queueLaw ?_ h
    exact hs.of_same rfl rfl rfl rfl rfl

end Sys2Proof.Machine
end

section
/-! The records of the register, kept by every step, and the laws in the state right after a POWER reset. -/

namespace Sys2Proof.Machine

/-- Settles O7: every change of the day keeps both laws, and a step makes changes alone. -/
theorem stepKeepsRecordLaw : Obligations.StepKeepsRecordLaw := fun _ _ ⟨hs, hr⟩ h =>
  ⟨(step_evolves h).shutLaw hs, (step_evolves h).recordLaw hs hr⟩

/-! ## The state right after a POWER reset (R186) -/

@[simp] theorem reset_lane (i : Fin 64) : State.reset.lane i = .default := get_replicate ..

@[simp] theorem reset_port (p : Port) : State.reset.port p = .empty := get_replicate ..

theorem default_calendarLaw : Lane.default.CalendarLaw := ⟨by decide, by decide, .nil, nofun⟩

/-- Settles O11: every lane is the default one, every port is empty, and so are register, ring and flash. -/
theorem resetMeetsEveryLaw : Obligations.ResetMeetsEveryLaw := by
  refine ⟨?queues, ?shut, ?clock, ?register, .nil rfl, fun i => ?calendar, fun i w hw => ?promise, fun i => ?spacing, ⟨fun i => ?range,
    fun i j h => ?ride⟩, ?flash⟩
  case queues => exact .of_empty (fun p => by rw [reset_port]; exact ⟨rfl, rfl⟩) (Nat.zero_le _)
  case shut => exact fun _ => ⟨fun i => by rw [reset_lane]; exact ⟨rfl, rfl, rfl, rfl⟩, rfl, rfl, rfl, rfl, rfl⟩
  case clock => exact ⟨by decide, by decide, by decide, nofun, nofun⟩
  case register => exact ⟨.nil, Nat.zero_le _, nofun⟩
  case calendar => rw [reset_lane]; exact default_calendarLaw
  case promise => rw [reset_lane] at hw; cases hw
  case spacing => rw [reset_lane]; exact .nil rfl
  case range => rw [reset_lane]; exact default_inRange
  case ride => rw [reset_lane] at h; exact absurd rfl h
  case flash => exact ⟨by decide, nofun⟩

end Sys2Proof.Machine
end

section
/-! The consumer: what a resolution makes of the head grant, and the report that follows the head-held flag. -/

namespace Sys2Proof.Machine

/-! ## The report of the head-held flag (R62) -/

/-- What a run of the consumer leaves of a state beside ring, counters, windows and tallies: nothing that a report shows but the
head-held flag has changed (R160). -/
structure State.SameSources (s u : State) : Prop where
  attn : u.attn = s.attn
  ports : ∀ d, (u.port d).tx = (s.port d).tx
  park : u.park = s.park
  segments : u.segments = s.segments
  rides : ∀ i, (u.lane i).config.ride = (s.lane i).config.ride
  pending : ∀ i, ∀ k ∈ laneKinds, u.laneKindPending k i = s.laneKindPending k i

/-- A report that does not show the head-held flag, or shows the flag that stood, is as it was (R160, R164). -/
theorem State.SameSources.report {s u : State} (h : s.SameSources u) {d : Port} (hd : d = .tp → u.ring.headHeld = s.ring.headHeld) :
    u.report d = s.report d := by
  cases d with
  | tp =>
    exact report_of_not_touched (given := fun _ => []) (by simp [mem_touched]) (fun i k hk _ => h.pending i k hk) h.segments h.park
      h.rides (hd rfl) (by rw [h.attn])
  | sp z =>
    refine Eq.trans ?_ (report_of_not_touched (s := s) (t := { u with ring := { u.ring with headHeld := s.ring.headHeld } })
      (given := fun _ => []) (by simp [mem_touched]) (fun i k hk _ => h.pending i k hk) h.segments h.park h.rides rfl (by rw [h.attn]))
    rfl

/-- The trunk's report re-evaluated at a change of the head-held flag: the reports follow (R62, R164). -/
theorem State.SameSources.giveGrantHeld {s u : State} (h : s.SameSources u) : s.ReportsFollow (s.giveGrantHeld u) := by
  have slots : ∀ d, u.attnPort d = s.attnPort d := fun d => by rw [State.attnPort, State.attnPort, h.attn]
  unfold State.giveGrantHeld
  split
  · next same => exact .of_same slots h.ports fun d => h.report fun _ => same.symm
  · exact evaluateEach_reportsFollow (ds := [.tp]) slots h.ports fun d hd => h.report fun e => absurd (by rw [e]; exact List.mem_singleton.2 rfl) hd

theorem giveGrantHeld_onlyReports (s u : State) : u.OnlyReports (s.giveGrantHeld u) := by
  unfold State.giveGrantHeld
  split
  · exact .refl u
  · exact evaluate_onlyReports u .tp

theorem State.SameSources.refl (s : State) : s.SameSources s := ⟨rfl, fun _ => rfl, rfl, rfl, fun _ => rfl, fun _ _ _ => rfl⟩

theorem State.SameSources.trans {s t u : State} (h : s.SameSources t) (k : t.SameSources u) : s.SameSources u :=
  ⟨k.attn.trans h.attn, fun d => (k.ports d).trans (h.ports d), k.park.trans h.park, k.segments.trans h.segments,
    fun i => (k.rides i).trans (h.rides i), fun i n hn => (k.pending i n hn).trans (h.pending i n hn)⟩

/-! ## A resolution (R58 to R62) -/

/-- A resolution changes windows and the two grant tallies of a lane, and nothing else of it (R60, R61). -/
theorem resolveHead_lane_frame (s : State) (i : Fin 64) : s.resolveHead.lane i = { s.lane i with
    windows := (s.resolveHead.lane i).windows
    live := { (s.lane i).live with
      clampedGrants := (s.resolveHead.lane i).live.clampedGrants, staleGrants := (s.resolveHead.lane i).live.staleGrants } } := by
  rcases resolveHead_lane s i with e | e | ⟨start, delta, e⟩ <;> rw [e]
  · rfl
  · unfold Lane.applyGrant
    dsimp only
    split <;> rfl

/-- No source of a report is among what a resolution changes, but for the head-held flag. -/
theorem resolveHead_sameSources (s : State) : s.SameSources s.resolveHead where
  attn := by simp
  ports d := by rw [State.port, resolveHead_ports]; rfl
  park := by simp
  segments := by simp
  rides i := by rw [resolveHead_lane_frame]
  pending i k _ := by
    refine laneKindPending_congr ?_ (by rw [resolveHead_lane_frame]) k ?_
    · rw [State.dayOpen, resolveHead_clock]; rfl
    · rw [resolveHead_lane_frame]
      cases k <;> trivial

theorem consumeRun_sameSources (s : State) (fuel : Nat) : s.SameSources (s.consumeRun fuel) := by
  induction fuel generalizing s with
  | zero => exact .refl s
  | succ fuel ih =>
    unfold State.consumeRun
    split
    · exact (resolveHead_sameSources s).trans (ih _)
    · exact .refl s

/-- GRANT_RESOLVE in a run: one resolution, and the report that follows it (R58, R62). -/
theorem grantResolve_run {s : State} (hr : s.resetHeld = false) (hg : s.ring.running = true) : ∃ t : State,
    exec .grantResolve s = .next t ∧ s.resolveHead.OnlyReports t ∧ s.ReportsFollow t := by
  refine ⟨_, ?_, giveGrantHeld_onlyReports s _, (resolveHead_sameSources s).giveGrantHeld⟩
  rw [exec, execGrantResolve, whileReleased_released hr, if_pos hg]

/-- The ring as a head grant leaves it within a run (R58, R60, R61). -/
theorem leave_running {r : GrantRing} (h : r.running = true) (rest : List Grant) : r.leave rest = ⟨rest, false, !rest.isEmpty⟩ := by
  rw [GrantRing.leave, h, Bool.true_and]

/-! ## Which row of R59 applies -/

section
variable {l : Lane} {m : Nat}

theorem resolve_unused (h : l.config.ride = 0) : l.resolve m = .discardUnused := by
  rw [Lane.resolve, Lane.inUse_eq_false.2 h]
  rfl

theorem before_oldest_iff : (l.oldestStart.any fun s => decide (m < s)) = true ↔ ∃ w ∈ l.windows.head?, m < w.start := by
  rw [Lane.oldestStart]
  cases l.windows.head? <;> simp

/-- A stale minute lies before the first window start or the oldest window, or at or past the last end (R59). -/
theorem resolve_stale (hu : l.config.ride ≠ 0)
    (h : m < l.config.firstStart ∨ (∃ w ∈ l.windows.head?, m < w.start) ∨ l.lastEnd ≤ m) : l.resolve m = .discardStale := by
  rw [Lane.resolve, Lane.inUse_eq_true.2 hu]
  refine (if_neg (by decide)).trans ?_
  rcases h with h | h | h
  · exact if_pos (by rw [decide_eq_true h, Bool.true_or])
  · exact if_pos (by rw [before_oldest_iff.2 h, Bool.or_true])
  · rw [if_pos h, ite_self]

variable (hc : l.CalendarLaw) (hu : l.config.ride ≠ 0) (hf : l.config.firstStart ≤ m) (hl : m < l.lastEnd)
include hc hu hf hl

/-- A minute that is not stale is looked for in the windows (R59). -/
theorem resolve_search {x : Window} (hx : x ∈ l.windows) (hm : x.start ≤ m) : l.resolve m =
    match l.windows.find? fun w => decide (w.start ≤ m) && decide (m < w.start + l.config.windowLength) with
    | some w => .apply w.start
    | none => .hold := by
  obtain ⟨-, -, sorted, -⟩ := hc
  have oldest : (l.oldestStart.any fun s => decide (m < s)) = false := by
    refine Bool.eq_false_iff.2 fun early => ?_
    obtain ⟨w, hw, late⟩ := before_oldest_iff.1 early
    obtain ⟨rest, split⟩ := List.head?_eq_some_iff.1 hw
    rw [split] at hx sorted
    rcases List.mem_cons.1 hx with rfl | hx
    · omega
    · have := (List.pairwise_cons.1 sorted).1 x hx
      omega
  rw [Lane.resolve, Lane.inUse_eq_true.2 hu, oldest, decide_eq_false (Nat.not_lt.2 hf)]
  exact (if_neg (by decide)).trans ((if_neg (by decide)).trans (if_neg (Nat.not_le.2 hl)))

theorem resolve_apply {w : Window} (hw : w ∈ l.windows) (h1 : w.start ≤ m) (h2 : m < w.start + l.config.windowLength)
    (before : ∀ x ∈ l.windows, x.start < w.start → x.start + l.config.windowLength ≤ w.start) : l.resolve m = .apply w.start := by
  obtain ⟨-, -, sorted, -⟩ := id hc
  rw [resolve_search hc hu hf hl hw h1]
  cases hs : l.windows.find? fun w => decide (w.start ≤ m) && decide (m < w.start + l.config.windowLength) with
  | none =>
    have := List.find?_eq_none.1 hs w hw
    simp [h1, h2] at this
  | some x =>
    /- The first window that covers the minute stands no later in the list than `w`, and one that starts before `w` has ended. -/
    obtain ⟨covers, earlier, later, split, first⟩ := List.find?_eq_some_iff_append.1 hs
    simp only [Bool.and_eq_true, decide_eq_true_eq] at covers
    have ended := before x (List.mem_of_find?_eq_some hs)
    rw [split] at hw sorted
    rcases List.mem_append.1 hw with hm | hm
    · have := first w hm
      simp [h1, h2] at this
    · rcases List.mem_cons.1 hm with rfl | hm
      · rfl
      · have := (List.pairwise_cons.1 (List.pairwise_append.1 sorted).2.1).1 w hm
        omega

theorem resolve_hold {newest : Window} (hn : l.windows.getLast? = some newest) (hm : newest.start + l.config.windowLength ≤ m) :
    l.resolve m = .hold := by
  obtain ⟨-, -, sorted, -⟩ := id hc
  have mem := List.mem_of_getLast? hn
  rw [resolve_search hc hu hf hl mem (by omega)]
  have none : l.windows.find? (fun w => decide (w.start ≤ m) && decide (m < w.start + l.config.windowLength)) = none := by
    refine List.find?_eq_none.2 fun x hx => ?_
    have last := start_le_newest (d := 1) sorted (by rw [Lane.newestStart, hn]; rfl) hx
    simp
    omega
  rw [none]

end

/-! ## The grant applied (R60) -/

theorem grantedCapacity_eq {w : Window} (delta : Int) (h : w.issued ≤ 4095) :
    grantedCapacity w delta = (min 4095 (max (w.issued : Int) (w.capacity + delta))).toNat := by
  unfold grantedCapacity
  split
  · omega
  · split <;> omega

theorem clampBites_iff {w : Window} {delta : Int} :
    clampBites w delta = true ↔ (w.capacity : Int) + delta < w.issued ∨ 4095 < (w.capacity : Int) + delta := by
  simp [clampBites]

/-- In a list ordered by start the window a start names is the one that has it. -/
theorem find_start_iff {ws : List Window} (h : ws.Pairwise fun a b => a.start < b.start) {start : Nat} {w : Window} :
    (ws.find? fun x => x.start == start) = some w ↔ w ∈ ws ∧ w.start = start := by
  constructor
  · exact fun hw => ⟨List.mem_of_find?_eq_some hw, by simpa using List.find?_some hw⟩
  · rintro ⟨hw, rfl⟩
    cases hx : ws.find? fun x => x.start == w.start with
    | none =>
      have := List.find?_eq_none.1 hx w hw
      simp at this
    | some x => rw [window_eq_of_start h (List.mem_of_find?_eq_some hx) hw (by simpa using List.find?_some hx)]

theorem windowAt_of_mem {l : Lane} (h : l.windows.Pairwise fun a b => a.start < b.start) {w : Window} (hw : w ∈ l.windows) :
    l.windowAt w.start = some w :=
  (find_start_iff h).2 ⟨hw, rfl⟩

theorem applyGrant_eq {l : Lane} (hc : l.CalendarLaw) {w : Window} (hw : w ∈ l.windows) (delta : Int) :
    l.applyGrant w.start delta = { l with
      windows := l.windows.map fun x => if x.start = w.start then
        { x with capacity := (min 4095 (max (w.issued : Int) (w.capacity + delta))).toNat } else x
      live := { l.live with
        clampedGrants := if (w.capacity : Int) + delta < w.issued ∨ 4095 < (w.capacity : Int) + delta then
            min 65535 (l.live.clampedGrants + 1)
          else l.live.clampedGrants } } := by
  obtain ⟨-, -, sorted, bounds⟩ := hc
  obtain ⟨-, issued, capacity⟩ := bounds w hw
  have windows : (l.windows.map fun x => if x.start = w.start then { x with capacity := grantedCapacity x delta } else x) =
      l.windows.map fun x => if x.start = w.start then
        { x with capacity := (min 4095 (max (w.issued : Int) (w.capacity + delta))).toNat } else x := by
    refine List.map_congr_left fun x hx => ?_
    split
    · next e => rw [window_eq_of_start sorted hx hw e, grantedCapacity_eq delta (issued.trans capacity)]
    · rfl
  rw [Lane.applyGrant, windowAt_of_mem sorted hw, Lane.adjustWindow, windows, Option.any_some]
  by_cases bites : (w.capacity : Int) + delta < w.issued ∨ 4095 < (w.capacity : Int) + delta
  · rw [if_pos bites, if_pos (clampBites_iff.2 bites)]
    rfl
  · rw [if_neg bites, if_neg (mt clampBites_iff.1 bites)]

/-! ## The head grant in the state (R59 to R62) -/

section
variable {s : State} {g : Grant} {rest : List Grant} (hg : s.ring.grants = g :: rest) (hr : s.ring.running = true)
include hg hr

theorem resolveHead_unused (h : (s.lane g.lane).resolve g.minute = .discardUnused) : s.resolveHead = { s with
    ring := ⟨rest, false, !rest.isEmpty⟩
    counters := { s.counters with staleGrants := min 65535 (s.counters.staleGrants + 1) } } := by
  simp only [State.resolveHead, hg, h, leave_running hr]
  rfl

theorem resolveHead_stale (h : (s.lane g.lane).resolve g.minute = .discardStale) : s.resolveHead = { s with
    ring := ⟨rest, false, !rest.isEmpty⟩
    counters := { s.counters with staleGrants := min 65535 (s.counters.staleGrants + 1) }
    lanes := put s.lanes g.lane { s.lane g.lane with
      live := { (s.lane g.lane).live with staleGrants := min 65535 ((s.lane g.lane).live.staleGrants + 1) } } } := by
  simp only [State.resolveHead, hg, h, leave_running hr]
  rfl

theorem resolveHead_apply {start : Nat} (h : (s.lane g.lane).resolve g.minute = .apply start) : s.resolveHead = { s with
    ring := ⟨rest, false, !rest.isEmpty⟩
    lanes := put s.lanes g.lane ((s.lane g.lane).applyGrant start g.delta) } := by
  simp only [State.resolveHead, hg, h, leave_running hr]

omit hr in
theorem resolveHead_hold (h : (s.lane g.lane).resolve g.minute = .hold) :
    s.resolveHead = { s with ring := ⟨g :: rest, true, false⟩ } := by
  simp only [State.resolveHead, hg, h]

end

/-- Settles O43: the row of R59, the capacity of R60, and the report that follows. -/
theorem headGrantIsApplied : Obligations.HeadGrantIsApplied := by
  intro s g rest w held run hg calendar used first last hw from_ until_ before
  have applied := resolve_apply calendar used first last hw from_ until_ before
  obtain ⟨t, exec_, only, follow⟩ := grantResolve_run held run
  rw [resolveHead_apply hg run applied, applyGrant_eq calendar hw] at only
  exact ⟨t, exec_, only, follow⟩

/-- The last start F + k × L at or below 2879 is the one whose successor passes 2879 (R59). -/
theorem lastEnd_eq {l : Lane} (hl : 1 ≤ l.config.windowLength) (hf : l.config.firstStart ≤ 2879) :
    ∃ k : Nat, l.config.firstStart + k * l.config.windowLength ≤ 2879 ∧
      2879 < l.config.firstStart + (k + 1) * l.config.windowLength ∧
      l.lastEnd = l.config.firstStart + k * l.config.windowLength + l.config.windowLength := by
  have below := Nat.div_mul_le_self (2879 - l.config.firstStart) l.config.windowLength
  have above := Nat.lt_div_mul_add (a := 2879 - l.config.firstStart) hl
  refine ⟨(2879 - l.config.firstStart) / l.config.windowLength, by omega, ?_, rfl⟩
  rw [Nat.add_mul, Nat.one_mul]
  omega

/-- Settles O44: the rows of R59 that discard and hold, and the report that follows. -/
theorem headGrantIsDiscardedOrHeld : Obligations.HeadGrantIsDiscardedOrHeld := by
  refine ⟨fun s g rest held run hg stale => ?_, fun s g rest oldest newest held run hg calendar used first _ hn horizon last => ?_,
    fun l hl hf => lastEnd_eq hl hf⟩
  · obtain ⟨t, exec_, only, follow⟩ := grantResolve_run held run
    refine ⟨t, exec_, ?_, follow⟩
    by_cases unused : (s.lane g.lane).config.ride = 0
    · rw [if_pos unused]
      rwa [resolveHead_unused hg run (resolve_unused unused)] at only
    · rw [if_neg unused]
      rwa [resolveHead_stale hg run (resolve_stale unused (stale.resolve_left unused))] at only
  · obtain ⟨t, exec_, only, follow⟩ := grantResolve_run held run
    rw [resolveHead_hold hg (resolve_hold calendar used first last hn horizon)] at only
    exact ⟨t, exec_, only, follow⟩

end Sys2Proof.Machine
end

section
/-! The minute boundary: the window lists, the register, and the reports that follow. -/

namespace Sys2Proof.Machine

/-! ## Windows built one after another (R46, R52) -/

/-- Nothing that fits is left once a start has passed the last minute. -/
theorem filterMap_starts_nil {start len : Nat} (h : 2879 < start) (f : Nat → Option Window) (hf : ∀ a, 2879 < a → f a = none) (n : Nat) :
    ((List.range n).map fun k => start + k * len).filterMap f = [] := by
  refine List.filterMap_eq_nil_iff.2 fun a ha => hf a ?_
  obtain ⟨k, -, rfl⟩ := List.mem_map.1 ha
  exact h.trans_le (Nat.le_add_right _ _)

theorem starts_succ (n start len : Nat) : ((List.range (n + 1)).map fun k => start + k * len) =
    start :: (List.range n).map fun k => start + len + k * len := by
  rw [List.range_succ_eq_map, List.map_cons, List.map_map, Nat.zero_mul]
  refine congrArg (_ :: ·) (List.map_congr_left fun k _ => ?_)
  simp only [Function.comp_apply, Nat.succ_eq_add_one, Nat.add_mul]
  omega

/-- The windows built are fresh ones at the starts that stand before the first start past 2879 (R52). -/
theorem buildWindows_eq_takeWhile (n start len : Nat) : buildWindows n start len =
    (((List.range n).map fun k => start + k * len).takeWhile fun a => decide (a ≤ 2879)).map fun a => ⟨a, 0, 0, 0, false⟩ := by
  induction n generalizing start with
  | zero => rfl
  | succ n ih =>
    rw [buildWindows, starts_succ, List.takeWhile_cons]
    by_cases fits : start ≤ 2879
    · rw [if_pos (show start ≤ Config.lastMinute from fits), if_pos (decide_eq_true fits), ih]
      rfl
    · rw [if_neg (show ¬ start ≤ Config.lastMinute from fits), if_neg (by simpa using fits)]
      rfl

/-- The windows built are fresh ones at the starts that do not pass 2879 (R46). -/
theorem buildWindows_eq_filterMap (n start len : Nat) : buildWindows n start len =
    ((List.range n).map fun k => start + k * len).filterMap fun a => if a ≤ 2879 then some ⟨a, 0, 0, 0, false⟩ else none := by
  induction n generalizing start with
  | zero => rfl
  | succ n ih =>
    rw [buildWindows, starts_succ, List.filterMap_cons]
    by_cases fits : start ≤ 2879
    · rw [if_pos (show start ≤ Config.lastMinute from fits), if_pos fits, ih]
      rfl
    · rw [if_neg (show ¬ start ≤ Config.lastMinute from fits), if_neg fits]
      exact (filterMap_starts_nil (by omega) _ (fun a ha => if_neg (by omega)) n).symm

/-! ## One lane (R47 to R53) -/

section
variable (l : Lane) (n : Nat)

/-- What step 1 of a boundary makes of a window: on a DOWN lane the one that becomes CURRENT gets the mark (R47). -/
def Lane.markedAt (w : Window) : Window := if l.live.mode = .down ∧ w.start = n then { w with marked := true } else w

theorem markedAt_start (w : Window) : (l.markedAt n w).start = w.start := by
  unfold Lane.markedAt
  split <;> rfl

theorem markedAt_retires (w : Window) : l.retires n (l.markedAt n w) = l.retires n w := by
  rw [Lane.retires, markedAt_start]
  rfl

theorem protectAt_eq : l.protectAt n = l.windows.map (l.markedAt n) := by
  unfold Lane.protectAt
  split
  · next down => exact List.map_congr_left fun w _ => by simp [Lane.markedAt, down]
  · next up =>
    refine (List.map_id'' (fun w => ?_) _).symm
    simp [Lane.markedAt, up]

theorem retired_length : (l.retired n).length = (l.windows.filter (l.retires n)).length := by
  rw [Lane.retired, protectAt_eq, List.filter_map, List.length_map]
  congr 1
  exact List.filter_congr fun w _ => markedAt_retires l n w

/-- The list after a boundary: the windows that stay, with their marks, and as many new ones as have retired, until a start would pass
2879 (R47, R49, R52). -/
theorem windowsAfter_eq : l.windowsAfter n = (l.windows.filter fun w => !l.retires n w).map (l.markedAt n) ++
    (((List.range (l.windows.filter (l.retires n)).length).map fun k =>
      (l.windows.getLast?.map Window.start).getD 0 + (k + 1) * l.config.windowLength).takeWhile fun a => decide (a ≤ 2879)).map
      fun a => ⟨a, 0, 0, 0, false⟩ := by
  unfold Lane.windowsAfter
  refine congrArg₂ _ ?stay ?new
  case stay =>
    rw [protectAt_eq, List.filter_map]
    congr 1
    exact List.filter_congr fun w _ => congrArg _ (markedAt_retires l n w)
  case new =>
    rw [Lane.newestStart]
    cases hl : l.windows.getLast? with
    | none => rw [List.getLast?_eq_none_iff.1 hl]; rfl
    | some newest =>
      have starts : ∀ k, newest.start + (k + 1) * l.config.windowLength = newest.start + l.config.windowLength + k * l.config.windowLength :=
        fun k => by rw [Nat.add_mul]; omega
      simp only [Option.map_some, Option.getD_some, starts]
      rw [appendedWindows_eq, retired_length, buildWindows_eq_takeWhile]

/-- GRANT_LOW by the free seats of the windows that start after the minute (R53). -/
theorem grantLowHolds_eq : l.grantLowHolds n = (decide (l.config.ride ≠ 0) && decide (l.live.mode = .run ∨ l.live.mode = .passOnly) &&
    decide (l.config.grantLowMark ≠ 0) &&
    decide ((((l.windows.filter fun w => decide (n < w.start)).map fun w => w.capacity - w.issued).sum) < l.config.grantLowMark)) := by
  have future : (l.windows.filter fun w => w.state n l.config.windowLength == .future) = l.windows.filter fun w => decide (n < w.start) :=
    List.filter_congr fun w _ => by rw [Bool.eq_iff_iff, beq_iff_eq, Window.state_future, decide_eq_true_iff]
  rw [Lane.grantLowHolds, Lane.futureSeats, future]
  congr 2
  congr 1
  · rw [Bool.eq_iff_iff, Lane.inUse_eq_true, decide_eq_true_iff]
  · rw [Bool.eq_iff_iff]
    simp
  · rw [Bool.eq_iff_iff, bne_iff_ne, decide_eq_true_iff]

end

/-! ## The boundary in the state (R47, R58, R164) -/

section
variable (s : State) (n : Nat)

/-- The state a minute boundary has reached before the consumer run is started: lists and register (R47, R50). -/
def State.minuteMoved : State := { s with
  lanes := tabulate fun i => (s.lane i).minuteBoundary n (noShowRiders ((s.lane i).retired n) s.register i)
  register := s.register.filterMap fun r => sweepRecord ((s.lane r.lane).retired n) n r }

theorem minuteMoved_lane (i : Fin 64) : (s.minuteMoved n).lane i =
    (s.lane i).minuteBoundary n (noShowRiders ((s.lane i).retired n) s.register i) := get_tabulate ..

theorem minuteMoved_startRun_frame : (s.minuteMoved n).startRun = { s with
    lanes := (s.minuteMoved n).startRun.lanes, register := (s.minuteMoved n).startRun.register
    ring := (s.minuteMoved n).startRun.ring } := by
  unfold State.startRun
  split <;> rfl

/-- What a minute boundary does, in two parts: lists, register and ring, and then the reports (R47, R58). -/
theorem minuteBoundary_eq : ∃ ds : List Port, s.minuteBoundary n = (s.minuteMoved n).startRun.evaluateEach ds ∧
    ∀ d ∈ (s.minuteMoved n).startRun.touched (fun i => changedGrantLow (s.lane i) ((s.minuteMoved n).lane i)), d ∈ ds := by
  refine ⟨_, rfl, fun d hd => ?_⟩
  obtain ⟨i, k, hk, rfl⟩ := mem_touched.1 hd
  refine mem_touched.2 ⟨i, k, hk, (laneRoute_congr ?_ (fun j => ?_) k i).symm⟩
  · exact startRun_segments _
  · rw [State.lane, startRun_lanes]
    rfl

theorem minuteBoundary_reportsFollow {ds : List Port}
    (h : ∀ d ∈ (s.minuteMoved n).startRun.touched (fun i => changedGrantLow (s.lane i) ((s.minuteMoved n).lane i)), d ∈ ds) :
    s.ReportsFollow ((s.minuteMoved n).startRun.evaluateEach ds) := by
  have lane : ∀ i, (s.minuteMoved n).startRun.lane i = (s.minuteMoved n).lane i := fun i => by
    rw [State.lane, startRun_lanes]
    rfl
  refine touched_reportsFollow h ((startRun_attn _).trans rfl) (fun d => ?_) (fun i k _ hn => ?_) ((startRun_segments _).trans rfl)
    ((startRun_park _).trans rfl) (fun i => ?_) ?_
  · rw [State.port, startRun_ports]
    rfl
  · refine laneKindPending_congr ?_ ?_ k ?_
    · rw [State.dayOpen, startRun_clock]
      rfl
    · rw [lane, minuteMoved_lane]
      rfl
    · rw [lane]
      cases k with
      | grantLow =>
        by_contra changed
        exact hn (by rw [changedGrantLow, if_neg (Ne.symm changed)]; exact List.mem_singleton.2 rfl)
      | laneDown | laneStale | countSkew => rw [minuteMoved_lane]; rfl
      | _ => trivial
  · rw [lane, minuteMoved_lane]
    rfl
  · rw [State.startRun_frame]
    rfl

theorem startRun_ring : s.startRun.ring =
    if s.clock.day = .opened then { s.ring with running := !s.ring.grants.isEmpty } else s.ring := by
  unfold State.startRun
  by_cases h : s.clock.day = .opened
  · rw [if_pos (State.dayOpen_eq_true.2 h), if_pos h]
  · rw [if_neg (mt State.dayOpen_eq_true.1 h), if_neg h]

end

/-- Settles O17: lists, register and ring, and then the reports, in the state that has taken the boundary from those owed. -/
theorem minuteBoundaryMovesTheCalendars : Obligations.MinuteBoundaryMovesTheCalendars := by
  intro s n rest hr hn
  let u : State := { s with clock := { s.clock with minutesDue := rest } }
  have run : exec .minuteBoundary s = .next (u.minuteBoundary n) := by
    rw [exec, execMinuteBoundary, whileReleased_released hr, hn]
  obtain ⟨ds, parts, reached⟩ := minuteBoundary_eq u n
  have lane : ∀ i, ((u.minuteMoved n).startRun.evaluateEach ds).lane i =
      (s.lane i).minuteBoundary n (noShowRiders ((s.lane i).retired n) s.register i) := fun i => by
    rw [State.lane, evaluateEach_lanes, startRun_lanes]
    exact minuteMoved_lane u n i
  have ports : (u.minuteMoved n).startRun.ports = s.ports := (startRun_ports _).trans rfl
  rw [run, parts]
  refine ⟨_, rfl, ?frame, (State.PortsKept.of_ports ports).trans (evaluateEach_portsKept _ _), minuteBoundary_reportsFollow u n reached,
    .of_boardRuns fun p => ?runs, ?ring, fun i => ?lane⟩
  case frame =>
    rw [evaluateEach_lanes, evaluateEach_register, evaluateEach_ring]
    exact ((u.minuteMoved n).startRun.evaluateEach_frame ds).trans (congrArg
      (State.withReports ((u.minuteMoved n).startRun.evaluateEach ds).ports ((u.minuteMoved n).startRun.evaluateEach ds).attn.ports)
      (minuteMoved_startRun_frame u n) :)
  case runs => rw [evaluateEach_boardRuns, State.port, ports]; rfl
  case ring => rw [evaluateEach_ring]; exact startRun_ring _
  case lane =>
    dsimp only
    rw [lane]
    refine ⟨rfl, rfl, rfl, rfl, windowsAfter_eq (s.lane i) n, ?_⟩
    exact grantLowHolds_eq { s.lane i with windows := (s.lane i).windowsAfter n, live := _ } n

end Sys2Proof.Machine
end

section
/-! The sweep of the register at a minute boundary, record by record. -/

namespace Sys2Proof.Machine

/-! ## One record (R50, R83) -/

section
variable {gone : List Window} {n : Nat} {r : PassRecord}

theorem sweepRecord_carried {since : Nat} (h : r.state = .carried since) : sweepRecord gone n r = some r := by
  simp only [sweepRecord, h]

theorem sweepRecord_redeemed {w : Nat} (h : r.state = .redeemed w) :
    sweepRecord gone n r = if ∃ x ∈ gone, x.start = w then none else some r := by
  simp only [sweepRecord, h, List.any_eq_true, beq_iff_eq]

variable (sorted : gone.Pairwise fun a b => a.start < b.start)
include sorted

/-- An ISSUED record of a retiring window goes or becomes PROTECTED by the window's mark (R50, R83). -/
theorem sweepRecord_issued {w : Nat} (h : r.state = .issued w) : sweepRecord gone n r =
    if ∃ x ∈ gone, x.start = w ∧ x.marked = true then some { r with state := .carried n }
    else if ∃ x ∈ gone, x.start = w then none else some r := by
  simp only [sweepRecord, h]
  cases hx : gone.find? fun x => x.start == w with
  | none =>
    have other : ∀ x ∈ gone, x.start ≠ w := by simpa using hx
    rw [if_neg fun ⟨x, hm, e, _⟩ => other x hm e, if_neg fun ⟨x, hm, e⟩ => other x hm e]
  | some x =>
    obtain ⟨hm, e⟩ := (find_start_iff sorted).1 hx
    dsimp only
    by_cases mark : x.marked = true
    · rw [if_pos mark, if_pos ⟨x, hm, e, mark⟩]
    · rw [if_neg mark, if_neg, if_pos ⟨x, hm, e⟩]
      rintro ⟨y, hy, e', mark'⟩
      rw [window_eq_of_start sorted hy hm (e'.trans e.symm)] at mark'
      exact mark mark'

/-- The riders written off are those of the ISSUED records whose window retires without the mark (R50). -/
theorem noShowRiders_eq (register : List PassRecord) (i : Fin 64) : noShowRiders gone register i =
    ((register.filter fun r => decide (r.lane = i ∧ ∃ x ∈ gone, r.state = .issued x.start ∧ x.marked = false)).map
      PassRecord.party).sum := by
  have lost : ∀ w, ((gone.find? fun x => x.start == w).any fun x => !x.marked) = true ↔
      ∃ x ∈ gone, w = x.start ∧ x.marked = false := by
    intro w
    rw [Option.any_eq_true]
    simp only [find_start_iff sorted, Bool.not_eq_true']
    exact ⟨fun ⟨x, ⟨hm, e⟩, mark⟩ => ⟨x, hm, e.symm, mark⟩, fun ⟨x, hm, e, mark⟩ => ⟨x, ⟨hm, e.symm⟩, mark⟩⟩
  unfold noShowRiders
  congr 2
  refine List.filter_congr fun r _ => ?_
  rw [Bool.eq_iff_iff, Bool.and_eq_true, decide_eq_true_iff, decide_eq_true_iff]
  refine and_congr_right fun _ => ?_
  cases hs : r.state with
  | issued w => simpa using lost w
  | redeemed w => simp
  | carried since => simp

end

/-! ## The register (R50, R68, R83) -/

/-- The windows that retire stand in the order of their starts (R44, R49). -/
theorem retired_sorted {l : Lane} (h : l.CalendarLaw) (n : Nat) : (l.retired n).Pairwise fun a b => a.start < b.start :=
  (sorted_of_starts (protectAt_starts l n) h.2.2.1).filter _

/-- The register and the lanes of a minute boundary taken by MINUTE_BOUNDARY. -/
theorem minuteBoundary_swept {s t : State} {n : Nat} {rest : List Nat} (hr : s.resetHeld = false)
    (hn : s.clock.minutesDue = n :: rest) (h : exec .minuteBoundary s = .next t) :
    t.register = s.register.filterMap (fun r => sweepRecord ((s.lane r.lane).retired n) n r) ∧
      ∀ i, (t.lane i).live.noShow = min 65535 ((s.lane i).live.noShow + noShowRiders ((s.lane i).retired n) s.register i) := by
  obtain ⟨ds, parts, -⟩ := minuteBoundary_eq { s with clock := { s.clock with minutesDue := rest } } n
  rw [exec, execMinuteBoundary, whileReleased_released hr, hn] at h
  cases h
  dsimp only
  rw [parts]
  refine ⟨?_, fun i => ?_⟩
  · rw [evaluateEach_register, startRun_register]
    rfl
  · rw [State.lane, evaluateEach_lanes, startRun_lanes, ← State.lane, minuteMoved_lane]
    rfl

/-- A record of the key of one that the sweep drops is not there after it (R68). -/
theorem swept_key_absent {s t : State} (hl : s.RegisterLaw) {gone : Fin 64 → List Window} {n : Nat}
    (ht : t.register = s.register.filterMap fun r => sweepRecord (gone r.lane) n r) {r : PassRecord} (hr : r ∈ s.register)
    (drop : sweepRecord (gone r.lane) n r = none) : ∀ q ∈ t.register, ¬ (q.ticket = r.ticket ∧ q.lane = r.lane) := by
  rintro q hq ⟨ticket, lane⟩
  rw [ht] at hq
  obtain ⟨x, hx, kept⟩ := List.mem_filterMap.1 hq
  have same : x = r := eq_of_key_eq hl.1 hx hr ((sweepRecord_some kept).1.symm.trans (passKey_inj.2 ⟨ticket, lane⟩))
  rw [same, drop] at kept
  cases kept

/-- Settles O18: the sweep of each record under the windows that retire, read record by record and for the whole register. -/
theorem minuteBoundarySweepsRecords : Obligations.MinuteBoundarySweepsRecords := by
  intro s t n rest hr calendar law hn h gone
  obtain ⟨swept, noShow⟩ := minuteBoundary_swept hr hn h
  have retired : ∀ i, (s.lane i).retired n = gone i := fun i => by rw [Lane.retired, protectAt_eq]; rfl
  have sorted : ∀ i, (gone i).Pairwise fun a b => a.start < b.start := fun i => retired i ▸ retired_sorted (calendar i) n
  simp only [retired] at swept noShow
  have mem : ∀ {r q : PassRecord}, r ∈ s.register → sweepRecord (gone r.lane) n r = some q → q ∈ t.register := fun hm hq => by
    rw [swept]
    exact List.mem_filterMap.2 ⟨_, hm, hq⟩
  refine ⟨fun r hm => ?_, ?_, fun i => ?_⟩
  · cases hs : r.state with
    | carried since => exact mem hm (sweepRecord_carried hs)
    | redeemed w =>
      refine ⟨fun stays x hx e => ?_, fun stays => mem hm ?_⟩
      · exact swept_key_absent law swept hm (by rw [sweepRecord_redeemed hs, if_pos ⟨x, hx, e⟩]) r stays ⟨rfl, rfl⟩
      · rw [sweepRecord_redeemed hs, if_neg fun ⟨x, hx, e⟩ => stays x hx e]
    | issued w =>
      refine ⟨fun stays => mem hm ?_, fun x hx e => ?_⟩
      · rw [sweepRecord_issued (sorted _) hs, if_neg fun ⟨x, hx, e, _⟩ => stays x hx e, if_neg fun ⟨x, hx, e⟩ => stays x hx e]
      · split
        · next mark => exact mem hm (by rw [sweepRecord_issued (sorted _) hs, if_pos ⟨x, hx, e, mark⟩])
        · next mark =>
          refine swept_key_absent law swept hm ?_
          rw [sweepRecord_issued (sorted _) hs, if_neg, if_pos ⟨x, hx, e⟩]
          rintro ⟨y, hy, e', mark'⟩
          rw [window_eq_of_start (sorted _) hy hx (e'.trans e.symm)] at mark'
          exact mark mark'
  · rw [swept]
    refine List.filterMap_congr fun r _ => ?_
    cases hs : r.state with
    | carried since => exact sweepRecord_carried hs
    | redeemed w => exact sweepRecord_redeemed hs
    | issued w => exact sweepRecord_issued (sorted _) hs
  · rw [noShow, noShowRiders_eq (sorted i)]

end Sys2Proof.Machine
end

section
/-! POST_GRANTS accepted: the grants its arguments carry, and the ring they fill. -/

namespace Sys2Proof.Machine

/-! ## The arguments (R55, R197) -/

/-- One grant of a POST_GRANTS, as its four bytes. -/
def Grant.bytes (g : Grant) : List Byte := [byteOf g.lane.val] ++ le16 g.minute ++ [BitVec.ofInt 8 g.delta]

/-- The arguments of a POST_GRANTS (R55, R197). -/
def grantArgs (grants : List Grant) : List Byte := byteOf grants.length :: grants.flatMap Grant.bytes

theorem signed8_ofInt {d : Int} (low : -128 ≤ d) (high : d ≤ 127) : signed8 (BitVec.ofInt 8 d).toNat = d := by
  rw [BitVec.toNat_ofInt, signed8]
  split <;> omega

theorem grantArgs_length (grants : List Grant) : (grantArgs grants).length = 1 + 4 * grants.length := by
  have four : ∀ g : Grant, g.bytes.length = 4 := fun _ => rfl
  simp [grantArgs, List.length_flatMap, four]
  omega

/-- What the agent reads of each grant: lane, minute and delta as they were sent. -/
theorem parseGrants_bytes {grants : List Grant} (h : ∀ g ∈ grants, g.minute ≤ 2879 ∧ -128 ≤ g.delta ∧ g.delta ≤ 127) :
    parseGrants (grants.flatMap Grant.bytes) = grants.map fun g => (g.lane.val, g.minute, g.delta) := by
  induction grants with
  | nil => rfl
  | cons g gs ih =>
    obtain ⟨⟨hm, low, high⟩, hgs⟩ := List.forall_mem_cons.1 h
    have lane : (byteOf g.lane.val).toNat = g.lane.val := byteOf_toNat_of_lt (g.lane.isLt.trans (by decide))
    have minute : (byteOf g.minute).toNat + 256 * (byteOf (g.minute / 256)).toNat = g.minute := by
      rw [byteOf_toNat, byteOf_toNat]
      omega
    rw [List.flatMap_cons, List.map_cons, ← ih hgs]
    simp only [Grant.bytes, le16, List.cons_append, List.nil_append, parseGrants, lane, minute, signed8_ofInt low high]

theorem grantOf_raw (g : Grant) : grantOf (g.lane.val, g.minute, g.delta) = g := by
  unfold grantOf
  dsimp only
  rw [dif_pos g.lane.isLt]

/-! ## The posting (R57) -/

theorem postGrants_eq (s : State) (grants : List Grant) : s.postGrants grants =
    let ring := s.ring.grants ++ grants.take (min grants.length (512 - s.ring.grants.length))
    { s with ring := { s.ring with
        grants := ring
        running := if s.clock.day = .opened then !ring.isEmpty else s.ring.running } } := by
  have taken : grants.take (Config.ringCapacity - s.ring.grants.length) =
      grants.take (min grants.length (512 - s.ring.grants.length)) := by
    rw [Nat.min_comm]
    exact List.take_eq_take_min
  unfold State.postGrants
  rw [taken, State.startRun_frame, startRun_ring]
  dsimp only
  split <;> rfl

/-- POST_GRANTS of valid grants passes the checks of R56 and posts them (R57). -/
theorem carryPostGrants_accepted (s : State) {grants : List Grant} (h1 : 1 ≤ grants.length) (h20 : grants.length ≤ 20)
    (hg : ∀ g ∈ grants, g.minute ≤ 2879 ∧ -128 ≤ g.delta ∧ g.delta ≤ 127) : carryPostGrants (grantArgs grants) s =
    let accepted := min grants.length (512 - s.ring.grants.length)
    ⟨s.postGrants grants, if accepted = grants.length then .ok else .part,
      byteOf accepted :: le16 (s.postGrants grants).ring.grants.length, false⟩ := by
  have count : fieldAt (grantArgs grants) 0 1 = grants.length := by
    rw [fieldAt_byte]
    exact byteOf_toNat_of_lt (by omega)
  have raw : parseGrants ((grantArgs grants).drop 1) = grants.map fun g => (g.lane.val, g.minute, g.delta) := parseGrants_bytes hg
  have lanes : ((grants.map fun g => (g.lane.val, g.minute, g.delta)).any fun g => decide (63 < g.1)) = false := by
    simp only [List.any_map, List.any_eq_false, Function.comp_apply, decide_eq_true_iff]
    exact fun g _ => by omega
  have minutes : ((grants.map fun g => (g.lane.val, g.minute, g.delta)).any fun g => decide (Config.lastMinute < g.2.1)) = false := by
    simp only [List.any_map, List.any_eq_false, Function.comp_apply, decide_eq_true_iff]
    exact fun g hm => Nat.not_lt.2 (hg g hm).1
  have posted : (grants.map fun g => (g.lane.val, g.minute, g.delta)).map grantOf = grants := by
    rw [List.map_map]
    exact (List.map_congr_left fun g _ => grantOf_raw g).trans (List.map_id _)
  unfold carryPostGrants
  dsimp only
  rw [count, raw, lanes, minutes, posted, grantArgs_length, if_neg (by omega)]
  rfl

/-- Settles O42: the request passes its checks, and the ring takes what it has room for. -/
theorem postGrantsFillsTheRing : Obligations.PostGrantsFillsTheRing := by
  intro s h grants h1 h20 hg args req accepted ring taken
  have carried := carryPostGrants_accepted s.atRequest h1 h20 hg
  rw [postGrants_eq] at carried
  exact takeRequest_answered taken carried

end Sys2Proof.Machine
end

section
/-! OPEN_DAY accepted: the day built, the consumer run taken to its end, and every lane in use published. -/

namespace Sys2Proof.Machine

/-! ## The consumer run to its end (R58) -/

/-- A run goes on only while a resolution has taken a grant from a ring that holds more (R58). -/
theorem resolveHead_run {s : State} (h : s.resolveHead.ring.running = true) :
    s.resolveHead.ring.grants ≠ [] ∧ s.resolveHead.ring.grants.length < s.ring.grants.length := by
  have left : ∀ {r : GrantRing} {rest : List Grant}, (r.leave rest).running = true → rest ≠ [] := fun h => by
    rw [GrantRing.leave] at h
    simpa using And.right (by simpa using h)
  unfold State.resolveHead at h ⊢
  split at h
  · cases h
  · next g rest hg =>
    rw [hg]
    split at h
    iterate 2 exact ⟨left h, Nat.lt_succ_self _⟩
    · cases h
    · exact ⟨left h, Nat.lt_succ_self _⟩

/-- As many resolutions as the ring holds grants end the run. -/
theorem consumeRun_ended {s : State} {n : Nat} (h : s.ring.running = true → s.ring.grants ≠ [] ∧ s.ring.grants.length ≤ n) :
    (s.consumeRun n).ring.running = false := by
  induction n generalizing s with
  | zero => exact Bool.eq_false_iff.2 fun run => (h run).1 (List.eq_nil_of_length_eq_zero (Nat.le_zero.1 (h run).2))
  | succ n ih =>
    unfold State.consumeRun
    split
    · next run =>
      refine ih fun more => ?_
      obtain ⟨holds, shorter⟩ := resolveHead_run more
      exact ⟨holds, by have := (h run).2; omega⟩
    · next stopped => exact Bool.eq_false_iff.2 stopped

/-- A consumer run changes windows and the two grant tallies of a lane, and nothing else of it (R60, R61). -/
theorem consumeRun_lane_frame (s : State) (n : Nat) (i : Fin 64) : (s.consumeRun n).lane i = { s.lane i with
    windows := ((s.consumeRun n).lane i).windows
    live := { (s.lane i).live with
      clampedGrants := ((s.consumeRun n).lane i).live.clampedGrants
      staleGrants := ((s.consumeRun n).lane i).live.staleGrants } } := by
  induction n generalizing s with
  | zero => rfl
  | succ n ih =>
    unfold State.consumeRun
    split
    · rw [ih, resolveHead_lane_frame]
    · rfl

/-! ## The day built (R46, R147) -/

section
variable (s : State) (stored : Nat)

/-- The state of an opening once the window lists stand and the consumer run is started (R147, steps 1 to 4). -/
def State.dayStarted : State := { s with
  clock := { s.clock with day := .opened, ops := 0, dayOffset := stored, minutesDue := [], periodsDue := [] }
  ring := { s.ring with running := !s.ring.grants.isEmpty }
  lanes := tabulate fun i => { s.lane i with
    live := { (s.lane i).live with
      noShow := 0, protectedRedeemed := 0, voidedInWindow := 0, clampedGrants := 0, staleGrants := 0 }
    windows := if (s.lane i).config.ride = 0 then [] else
      ((List.range 32).map fun k => (s.lane i).config.firstStart + k * (s.lane i).config.windowLength).filterMap fun start =>
        if start ≤ 2879 then some ⟨start, 0, 0, 0, false⟩ else none } }

theorem dayStarted_eq : (s.dayBuilt stored).startRun = s.dayStarted stored := by
  have lanes : (s.dayBuilt stored).lanes = (s.dayStarted stored).lanes := by
    refine table_ext fun i => ?_
    rw [State.dayBuilt, State.dayStarted, get_tabulate, get_tabulate, ← buildWindows_eq_filterMap]
    by_cases unused : (s.lane i).config.ride = 0
    · rw [if_pos unused]
      exact congrArg (fun windows => ({ s.lane i with live := (s.lane i).live.clearTallies, windows := windows } : Lane))
        (if_neg (by simpa [Lane.inUse] using unused))
    · rw [if_neg unused]
      exact congrArg (fun windows => ({ s.lane i with live := (s.lane i).live.clearTallies, windows := windows } : Lane))
        (if_pos (by simpa [Lane.inUse] using unused))
  have opened : (s.dayBuilt stored).clock.day = .opened := rfl
  rw [State.startRun_frame, startRun_ring, if_pos opened, lanes]
  rfl

theorem dayStarted_lane (i : Fin 64) : (s.dayStarted stored).lane i = { s.lane i with
    live := (s.lane i).live.clearTallies, windows := ((s.dayStarted stored).lane i).windows } := by
  simp only [State.lane, State.dayStarted, get_tabulate]
  rfl

/-- While the day is SHUT no lane is stale, so its opening brings no source up (R31, R160). -/
theorem dayStarted_sameSources (h : s.ShutLaw) (hd : s.clock.day = .shut) : s.SameSources (s.dayStarted stored) where
  attn := rfl
  ports _ := rfl
  park := rfl
  segments := rfl
  rides i := by rw [dayStarted_lane]
  pending i k _ := by
    obtain ⟨lanes, -⟩ := h hd
    obtain ⟨-, fresh, -, -⟩ := lanes i
    cases k with
    | laneStale =>
      have fresh' : ((s.dayStarted stored).lane i).live.stale = false := by rw [dayStarted_lane]; exact fresh
      rw [State.laneKindPending, State.laneKindPending, fresh, fresh', Bool.and_false, Bool.and_false]
    | laneDown =>
      rw [State.laneKindPending, State.laneKindPending, dayStarted_lane]
      rfl
    | countSkew | grantLow => rw [State.laneKindPending, State.laneKindPending, dayStarted_lane]
    | _ => rfl

/-! ## The opening -/

/-- The state of an opening once the consumer run has ended (R147, step 4). -/
def State.dayConsumed : State := (s.dayStarted stored).consumeRun s.ring.grants.length

theorem openDay_eq : s.openDay stored = (s.giveGrantHeld (s.dayConsumed stored)).publishAll := by
  unfold State.openDay
  dsimp only
  rw [dayStarted_eq]
  rfl

theorem dayConsumed_ended : (s.dayConsumed stored).ring.running = false := by
  refine consumeRun_ended fun run => ⟨fun empty => ?_, Nat.le_refl _⟩
  have grants : s.ring.grants = [] := empty
  have running : (!s.ring.grants.isEmpty) = true := run
  rw [grants] at running
  cases running

theorem dayConsumed_portsKept : s.PortsKept (s.dayConsumed stored) := .of_ports (consumeRun_ports ..)

theorem dayConsumed_lane (i : Fin 64) : (s.dayConsumed stored).lane i = { s.lane i with
    windows := ((s.dayConsumed stored).lane i).windows
    live := ((s.dayConsumed stored).lane i).live } := by
  rw [State.dayConsumed, consumeRun_lane_frame, dayStarted_lane]

theorem dayConsumed_live (i : Fin 64) : ((s.dayConsumed stored).lane i).live.mode = (s.lane i).live.mode ∧
    ((s.dayConsumed stored).lane i).live.posted = (s.lane i).live.posted := by
  rw [State.dayConsumed, consumeRun_lane_frame, dayStarted_lane]
  exact ⟨rfl, rfl⟩

theorem openDay_frame : s.openDay stored = { s.dayConsumed stored with
    lanes := (s.openDay stored).lanes, lines := (s.openDay stored).lines, ports := (s.openDay stored).ports
    attn := { s.attn with ports := (s.openDay stored).attn.ports } } := by
  have attn : (s.dayConsumed stored).attn = s.attn := (consumeRun_attn ..).trans rfl
  rw [openDay_eq, publishAll_attn, ← attn]
  exact (State.publishAll_frame _).trans (congrArg (fun u : State => { u with
    lanes := (s.giveGrantHeld (s.dayConsumed stored)).publishAll.lanes
    lines := (s.giveGrantHeld (s.dayConsumed stored)).publishAll.lines
    ports := (s.giveGrantHeld (s.dayConsumed stored)).publishAll.ports }) (s.giveGrantHeld_frame _))

/-! ## The reports, and what is published (R136, R138, R164) -/

/-- What the consumer has left, with the trunk's report re-evaluated where the head-held flag has changed (R62). -/
def State.dayReported : State := s.giveGrantHeld (s.dayConsumed stored)

theorem dayReported_lane (i : Fin 64) : (s.dayReported stored).lane i = (s.dayConsumed stored).lane i :=
  (congrArg (State.lane · i) (s.giveGrantHeld_frame (s.dayConsumed stored)) :)

theorem dayReported_lines : (s.dayReported stored).lines = s.lines :=
  (congrArg State.lines (s.giveGrantHeld_frame (s.dayConsumed stored))).trans (consumeRun_lines ..)

theorem dayReported_clock : (s.dayReported stored).clock = (s.dayStarted stored).clock :=
  (congrArg State.clock (s.giveGrantHeld_frame (s.dayConsumed stored))).trans (consumeRun_clock ..)

theorem dayReported_ride (i : Fin 64) : ((s.dayReported stored).lane i).config.ride = (s.lane i).config.ride := by
  rw [dayReported_lane, dayConsumed_lane]

theorem dayReported_linkUp (p : Port) : (s.dayReported stored).linkUp p = s.linkUp p := by
  have frame := s.giveGrantHeld_frame (s.dayConsumed stored)
  exact linkUp_congr ((congrArg State.resetHeld frame).trans (consumeRun_resetHeld ..))
    (congrArg Loader.state ((congrArg State.loader frame).trans (consumeRun_loader ..)))
    ((congrArg State.segments frame).trans (consumeRun_segments ..)) p

theorem dayReported_portsKept : s.PortsKept (s.dayReported stored) := giveGrantHeld_portsKept (dayConsumed_portsKept s stored)

theorem dayReported_reportsFollow (h : s.ShutLaw) (hd : s.clock.day = .shut) : s.ReportsFollow (s.dayReported stored) :=
  ((dayStarted_sameSources s stored h hd).trans (consumeRun_sameSources ..)).giveGrantHeld

theorem dayReported_boardRuns (p : Port) : ((s.dayReported stored).port p).boardRuns = (s.port p).boardRuns := by
  have same : ((s.dayConsumed stored).port p).boardRuns = (s.port p).boardRuns := by
    rw [State.port, State.dayConsumed, consumeRun_ports]
    rfl
  refine Eq.trans ?_ same
  unfold State.dayReported State.giveGrantHeld
  split
  · rfl
  · exact evaluate_boardRuns ..

theorem openDay_runsOwed : s.RunsOwed (s.openDay stored) s.allRuns := fun p => by
  have owed := publishAll_runsOwed (s.dayReported stored) p
  have lines : ∀ i, (s.dayReported stored).hasLine i p = s.hasLine i p := fun i => by
    rw [State.hasLine, dayReported_lines]
    rfl
  rw [dayReported_boardRuns, dayReported_linkUp, State.allRuns] at owed
  simp only [dayReported_ride, lines] at owed
  rw [openDay_eq]
  exact owed

theorem openDay_portsKept : s.PortsKept (s.openDay stored) := by
  rw [openDay_eq]
  exact (dayReported_portsKept s stored).trans (publishAll_portsKept _)

/-- A publish of every lane changes no source of a report (R136, R160). -/
theorem publishAll_sameSources (u : State) : u.SameSources u.publishAll where
  attn := publishAll_attn u
  ports := publishAll_tx u
  park := by simp
  segments := by simp
  rides i := by
    rw [publishAll_lane]
    split <;> rfl
  pending i k _ := by
    refine laneKindPending_congr ?_ ?_ k ?_
    · rw [State.dayOpen, publishAll_clock]
      rfl
    · rw [publishAll_lane]
      split <;> rfl
    · rw [publishAll_lane]
      cases k with
      | laneDown | laneStale | countSkew | grantLow => dsimp only; split <;> rfl
      | _ => trivial

/-- A report that follows is read from slot, queue and report alone. -/
theorem State.ReportFollows.of_queue {t u : State} {d : Port} (h : s.ReportFollows t d) (ha : u.attnPort d = t.attnPort d)
    (ht : (u.port d).tx = (t.port d).tx) (hs : (u.port d).sending = (t.port d).sending) (hr : u.report d = t.report d)
    (hf : ∀ r, u.attnFrame d r = t.attnFrame d r) : s.ReportFollows u d := by
  unfold State.ReportFollows at h ⊢
  rwa [ha, ht, hs, hr, hf]

theorem openDay_reportsFollow (h : s.ShutLaw) (hd : s.clock.day = .shut) : s.ReportsFollow (s.openDay stored) := fun d => by
  have same := publishAll_sameSources (s.dayReported stored)
  rw [openDay_eq]
  refine (dayReported_reportsFollow s stored h hd d).of_queue s ?_ (same.ports d) (publishAll_portsKept _ d).2.1
    (same.report fun _ => ?_) fun r => ?_
  · rw [State.attnPort, publishAll_attn]
    rfl
  · rw [publishAll_ring]
  · have address : (s.giveGrantHeld (s.dayConsumed stored)).publishAll.attnAddress d =
        (s.giveGrantHeld (s.dayConsumed stored)).attnAddress d := by
      cases d <;> simp [State.attnAddress, State.segment]
    rw [State.attnFrame, State.attnFrame, address, publishAll_park]
    rfl

/-- A lane after an opening: what the consumer has left of it, published when it is in use (R136). -/
theorem openDay_lane (i : Fin 64) : (s.openDay stored).lane i =
    if (s.lane i).config.ride = 0 then (s.dayConsumed stored).lane i
    else ((s.dayConsumed stored).lane i).published true stored 0 := by
  have clock := dayReported_clock s stored
  have opened : ((s.dayStarted stored).clock.day == .opened) = true := rfl
  have offset : (s.dayStarted stored).clock.dayOffset = stored := rfl
  have first : (s.dayStarted stored).clock.ops / 60 = 0 := Nat.zero_div 60
  rw [openDay_eq]
  refine (publishAll_lane (s.dayReported stored) i).trans ?_
  rw [dayReported_ride, dayReported_lane, State.dayOpen, State.minute, clock, opened, offset, first]

theorem openDay_publish_used {i : Fin 64} (h : (s.lane i).config.ride ≠ 0) :
    ((s.openDay stored).lane i).publish.refresh = 0 ∧ ((s.openDay stored).lane i).publish.lastPublished = (s.lane i).live.posted ∧
      ((s.lane i).live.mode = .closed → ((s.openDay stored).lane i).publish = ⟨.closed, (s.lane i).live.posted, .absent, 0⟩) := by
  obtain ⟨mode, posted⟩ := dayConsumed_live s stored i
  rw [openDay_lane, if_neg h]
  refine ⟨rfl, posted, fun closed => ?_⟩
  have used : ((s.dayConsumed stored).lane i).inUse = true := by
    rw [Lane.inUse_eq_true, dayConsumed_lane]
    exact h
  have kind : ((s.dayConsumed stored).lane i).displayKind true = .closed := by
    rw [Lane.displayKind, used, mode, closed]
    rfl
  rw [Lane.published, kind, posted]
  rfl

theorem openDay_line (j : Fin 192) : (s.openDay stored).lines.get j =
    let b := s.lines.get j
    if b.enable = true then
      { b with pending := some (if (s.lane b.lane).config.ride = 0 then ⟨.off, none, .absent⟩
        else ((s.openDay stored).lane b.lane).publish.content) }
    else b := by
  have line := publishAll_line (s.dayReported stored) j
  rw [dayReported_lines] at line
  simp only [dayReported_ride] at line
  rw [openDay_eq]
  exact line

/-- OPEN_DAY on a SHUT day passes its check, and replies the stored day offset (R146, R147). -/
theorem carryOpenDay_accepted {w : Nat} (hw : w < 4294967296) (hd : s.clock.day = .shut) : carryOpenDay (le32 w) s =
    ⟨s.openDay (storedOffset w), if storedOffset w = w then .ok else .okLegalized, le32 (storedOffset w), false⟩ := by
  have written : fieldAt (le32 w) 0 4 = w := fromLe_le32 hw
  rw [carryOpenDay, withLength_eq (n := 4) (args := le32 w) rfl, State.dayOpen_eq_false.2 hd, written]
  rfl

end

/-- Settles O40: the request passes its check, each part of what it leaves, and a resolution in a run of its own. -/
theorem openDayBuildsTheDay : Obligations.OpenDayBuildsTheDay := by
  refine ⟨?_, fun s held run => grantResolve_run held run⟩
  intro s h w hw shut args req stored start run taken
  refine ⟨s.atRequest.openDay stored, takeRequest_answered taken (carryOpenDay_accepted s.atRequest hw shut),
    openDay_frame s.atRequest stored, ?clock, ?ended, fun none => ?nothing, openDay_portsKept s.atRequest stored,
    openDay_runsOwed s.atRequest stored, fun law => openDay_reportsFollow s.atRequest stored law shut, fun i => ?lane,
    openDay_line s.atRequest stored⟩
  case clock => exact (congrArg State.clock (openDay_frame s.atRequest stored)).trans (consumeRun_clock ..)
  case ended =>
    exact (congrArg (·.ring.running) (openDay_frame s.atRequest stored)).trans (dayConsumed_ended s.atRequest stored)
  case nothing =>
    have length : s.ring.grants.length = 0 := by rw [none]; rfl
    exact congrArg start.consumeRun length
  case lane =>
    have frame := dayConsumed_lane s.atRequest stored i
    refine ⟨?_, ?_, fun unused => ?_, openDay_publish_used s.atRequest stored⟩
    · rw [openDay_lane]
      split <;> exact (congrArg Lane.config frame :)
    · rw [openDay_lane]
      split <;> rfl
    · rw [openDay_lane, if_pos (c := (s.atRequest.lane i).config.ride = 0) unused]
      exact (congrArg Lane.publish frame :)

end Sys2Proof.Machine
end

section
/-! The requests that only report: READ_STATUS, FLASH_READ, FLASH_STATUS, and READ_TABLE with the values of every table. -/

namespace Sys2Proof.Machine

/-! ## Codes -/

theorem flagCode_eq (b : Bool) : byteOf (flagCode b) = if b then 1 else 0 := by cases b <;> rfl

theorem dayCode_eq (d : DayState) : dayCode d = if d = .opened then 1 else 0 := by cases d <;> rfl

theorem flashCode_eq (a : FlashAccess) : flashCode a = match a with | .idle => 0 | .busy => 1 | .unverified => 2 := by cases a <;> rfl

theorem portIndex_val (p : Port) : (portIndex p).val = match p with | .sp k => k.val | .tp => 6 := by cases p <;> rfl

theorem overrideCode_eq (o : Option (Fin 64)) : overrideCode o = match o with | none => 0xFFFF | some i => i.val := by cases o <;> rfl

/-- The code of a window's state, read at minute `n` with windows of `len` minutes (R48, R54). -/
theorem windowStateCode_state (w : Window) (n len : Nat) :
    windowStateCode (w.state n len) = if n < w.start then 0 else if n < w.start + len then 1 else 2 := by
  unfold Window.state
  split
  · rfl
  · split <;> rfl

/-! ## READ_STATUS (R183) -/

theorem allPorts_eq : allPorts = [.tp, .sp 0, .sp 1, .sp 2, .sp 3, .sp 4, .sp 5] := rfl

theorem allPorts_tp : allPorts[0]? = some .tp := rfl

theorem allPorts_sp (k : Fin 6) : allPorts[k.val + 1]? = some (.sp k) := by revert k; decide

section
variable {s : State} {view : Byte}

theorem carryReadStatus_view : fieldAt [view] 0 1 = view.toNat := fieldAt_byte [view] 0

theorem carryReadStatus_park : carryReadStatus [0] s = ⟨s, .ok, s.parkView, false⟩ := rfl

theorem carryReadStatus_port {p : Port} (h0 : view.toNat ≠ 0) (hp : allPorts[view.toNat - 1]? = some p) :
    carryReadStatus [view] s = ⟨s, .ok, (portCounterFields (s.port p).counters).flatMap le16, false⟩ := by
  rw [carryReadStatus, withLength_eq (n := 1) (args := [view]) rfl, carryReadStatus_view]
  simp only [h0, if_false, hp]

theorem carryReadStatus_badIndex (h : 7 < view.toNat) : carryReadStatus [view] s = refuse s .badIndex [] := by
  have beyond : allPorts[view.toNat - 1]? = none := List.getElem?_eq_none (show 7 ≤ view.toNat - 1 by omega)
  rw [carryReadStatus, withLength_eq (n := 1) (args := [view]) rfl, carryReadStatus_view]
  simp only [show view.toNat ≠ 0 by omega, if_false, beyond]

/-- The park view in service: the loader is READY (R183). -/
theorem parkView_ready (h : s.loader.state = .ready) : s.parkView =
    le16 (if s.clock.day = .opened then 1 else 0) ++ le32 s.clock.ops ++ le32 s.clock.dayOffset ++ le16 2
      ++ le16 (outcomeCode s.loader.outcome) ++ le16 s.loader.skipped ++ le16 s.loader.legalized
      ++ le16 (flashCode s.flash.access) ++ le16 (flagCode s.flash.lastWriteOk)
      ++ le16 s.register.length ++ le16 (countState s.register 1) ++ le16 (countState s.register 2) ++ le16 (countState s.register 3)
      ++ le16 s.ring.grants.length ++ le16 (flagCode s.ring.headHeld) ++ le16 s.pendingLines := by
  rw [State.parkView, h, dayCode_eq]
  simp only [State.occupancy, loaderStateCode, List.flatMap_cons, List.flatMap_nil, List.append_assoc, List.nil_append]

end

/-- READ_STATUS answers each of its eight views, and no view above 7 (R183). -/
theorem readStatus_reports (s : State) (h : MgmtHeader) (view : Byte) :
    let req : MgmtRequest := ⟨h.source, h.tag, 15, [view]⟩
    let answered := fun (st : Status) (content : List Byte) =>
      exec (.readStatus h [view]) s = .next (s.atRequest.reply req st content false)
    s.TakesRequest req →
    (view = 0 → answered .ok s.atRequest.parkView) ∧
    (view = 1 → answered .ok ((portCounterFields (s.port .tp).counters).flatMap le16)) ∧
    (∀ k : Fin 6, view.toNat = k.val + 2 → answered .ok ((portCounterFields (s.port (.sp k)).counters).flatMap le16)) ∧
    (7 < view.toNat → answered .badIndex []) := by
  intro req answered taken
  refine ⟨fun park => ?_, fun trunk => ?_, fun k station => ?_, fun above => takeRequest_refused taken (carryReadStatus_badIndex above)⟩
  · subst park
    exact takeRequest_answered taken carryReadStatus_park
  · subst trunk
    exact takeRequest_answered taken (carryReadStatus_port (by decide) allPorts_tp)
  · have place : view.toNat - 1 = k.val + 1 := by omega
    exact takeRequest_answered taken (carryReadStatus_port (by omega) (place ▸ allPorts_sp k))

/-! ## FLASH_READ and FLASH_STATUS (R184) -/

section
variable {s : State} {args : List Byte} (hl : args.length = 3) (given : Nat)
include hl

theorem carryFlashRead_refused {st : Status} (h : flashCheck s (fieldAt args 0 2) (fieldAt args 2 1) = some st) :
    carryFlashRead args given s = refuse s st [] := by
  rw [carryFlashRead, withLength_eq hl]
  simp only [h]

theorem carryFlashRead_accepted (h : flashCheck s (fieldAt args 0 2) (fieldAt args 2 1) = none) :
    carryFlashRead args given s = ⟨s, .ok, s.flashBytes given (fieldAt args 0 2) (fieldAt args 2 1), false⟩ := by
  rw [carryFlashRead, withLength_eq hl]
  simp only [h]

end

theorem fieldAt_flashArgs_offset {offset : Nat} (h : offset < 65536) (length : Byte) :
    fieldAt (le16 offset ++ [length]) 0 2 = offset := fromLe_le16 h

theorem fieldAt_flashArgs_length (offset : Nat) (length : Byte) : fieldAt (le16 offset ++ [length]) 2 1 = length.toNat :=
  fieldAt_byte ..

/-- FLASH_READ of 1 to 64 bytes answers them as the flash gives them, within the image space and with no write in progress (R184). -/
theorem flashRead_reports (s : State) (h : MgmtHeader) (offset length given : Nat) (ho : offset < 65536) (h1 : 1 ≤ length)
    (h64 : length ≤ 64) :
    let args := le16 offset ++ [byteOf length]
    let req : MgmtRequest := ⟨h.source, h.tag, 12, args⟩
    s.TakesRequest req →
    exec (.flashRead h args given) s = .next (
      if 65536 < offset + length then s.atRequest.reply req .badIndex [] false
      else if s.flash.access = .busy then s.atRequest.reply req .busy [] false
      else s.atRequest.reply req .ok ((List.range length).map fun j =>
        if j < given then s.flash.mem.read (offset + j) else 0xFF) false) := by
  intro args req taken
  have three : args.length = 3 := rfl
  have offsetArg : fieldAt args 0 2 = offset := fieldAt_flashArgs_offset ho _
  have lengthArg : fieldAt args 2 1 = length := (fieldAt_flashArgs_length offset _).trans (byteOf_toNat_of_lt (by omega))
  have sized : ¬ (length = 0 ∨ 64 < length) := by omega
  have check : ∀ u : State, flashCheck u (fieldAt args 0 2) (fieldAt args 2 1) =
      if 65536 < offset + length then some .badIndex else if u.flash.access = .busy then some .busy else none := fun u => by
    rw [offsetArg, lengthArg]
    exact if_neg sized
  split
  · next range => exact takeRequest_refused taken (carryFlashRead_refused three given ((check _).trans (if_pos range)))
  · next range =>
    have inRange := fun u => (check u).trans (if_neg range)
    split
    · next busy => exact takeRequest_refused taken (carryFlashRead_refused three given ((inRange _).trans (if_pos busy)))
    · next idle =>
      have carried := carryFlashRead_accepted three given ((inRange s.atRequest).trans (if_neg idle))
      rw [flashBytes_eq, offsetArg, lengthArg] at carried
      exact takeRequest_answered taken carried

theorem flashRead_badLength (s : State) (h : MgmtHeader) (offset : Nat) (length : Byte) (given : Nat)
    (bad : length = 0 ∨ 64 < length.toNat) (taken : s.TakesRequest ⟨h.source, h.tag, 12, le16 offset ++ [length]⟩) :
    exec (.flashRead h (le16 offset ++ [length]) given) s =
      .next (s.atRequest.reply ⟨h.source, h.tag, 12, le16 offset ++ [length]⟩ .badRequest [] false) := by
  have refused : fieldAt (le16 offset ++ [length]) 2 1 = 0 ∨ 64 < fieldAt (le16 offset ++ [length]) 2 1 := by
    rw [fieldAt_flashArgs_length]
    exact bad.imp_left fun zero => by rw [zero]; rfl
  exact takeRequest_refused taken (carryFlashRead_refused rfl given (if_pos refused))

/-- FLASH_STATUS answers the state, the flag, and the last write's offset and length (R184). -/
theorem carryFlashStatus_answer (s : State) : carryFlashStatus [] s = ⟨s, .ok,
    [byteOf (match s.flash.access with | .idle => 0 | .busy => 1 | .unverified => 2), if s.flash.lastWriteOk then 1 else 0]
      ++ le16 s.flash.offset ++ [byteOf s.flash.length], false⟩ := by
  rw [carryFlashStatus, withLength_eq (n := 0) (args := []) rfl, flashCode_eq, flagCode_eq]

/-! ## READ_TABLE (R178) -/

/-- The values a read asks for of its `k`-th entry: the first from the field it names on, the others whole (R178). -/
def State.entryAsked (s : State) (t : TableId) (first field k : Nat) : List Nat :=
  if k = 0 then (s.readEntry t first).drop (field - 1) else s.readEntry t (first + k)

/-- The values a read asks for of its first `m` entries. -/
def State.entriesAsked (s : State) (t : TableId) (first field m : Nat) : List Nat :=
  (List.range m).flatMap (s.entryAsked t first field)

section
variable (s : State) (t : TableId) (first field : Nat)

theorem entriesAsked_succ (m : Nat) :
    s.entriesAsked t first field (m + 1) = s.entriesAsked t first field m ++ s.entryAsked t first field m := by
  rw [State.entriesAsked, List.range_succ, List.flatMap_append, List.flatMap_singleton]
  rfl

theorem entriesAsked_one : s.entriesAsked t first field 1 = (s.readEntry t first).drop (field - 1) :=
  entriesAsked_succ s t first field 0

/-- The taking of a request changes no table. -/
theorem readEntry_atRequest (index : Nat) : s.atRequest.readEntry t index = s.readEntry t index := by cases t <;> rfl

theorem entryAsked_atRequest : s.atRequest.entryAsked t first field = s.entryAsked t first field := by
  funext k
  simp only [State.entryAsked, readEntry_atRequest]

theorem entriesAsked_atRequest (m : Nat) : s.atRequest.entriesAsked t first field m = s.entriesAsked t first field m := by
  rw [State.entriesAsked, entryAsked_atRequest]
  rfl

/-- The values asked for do not get fewer with more entries. -/
theorem entriesAsked_length_mono {m n : Nat} (h : m ≤ n) :
    (s.entriesAsked t first field m).length ≤ (s.entriesAsked t first field n).length := by
  induction h with
  | refl => exact Nat.le_refl _
  | step _ ih =>
    rw [entriesAsked_succ, List.length_append]
    omega

/-- As long as they fit, entries are carried behind the first one, and the read goes on at the next (R178). -/
theorem readWhole_fits {m : Nat} (n : Nat) (h : (s.entriesAsked t first field (m + 1)).length ≤ 42) :
    s.readWhole t (m + n) (first + 1) (s.entriesAsked t first field 1) =
      s.readWhole t n (first + (m + 1)) (s.entriesAsked t first field (m + 1)) := by
  induction m generalizing n with
  | zero => rw [Nat.zero_add]
  | succ m ih =>
    have next : s.entryAsked t first field (m + 1) = s.readEntry t (first + (m + 1)) := if_neg m.succ_ne_zero
    have fewer := entriesAsked_length_mono s t first field (Nat.le_succ (m + 1))
    rw [show m + 1 + n = m + (n + 1) by omega, ih (n + 1) (fewer.trans h), State.readWhole]
    rw [entriesAsked_succ _ _ _ _ (m + 1), next] at h ⊢
    rw [List.length_append] at h
    exact if_pos h

/-- The first entry fits: the read carries it and goes on with the entries behind it (R178). -/
theorem readTable_firstFits (count : Nat) (h : (s.entriesAsked t first field 1).length ≤ 42) :
    s.readTable t first count field =
      s.readWhole t (min count (t.entries - first) - 1) (first + 1) (s.entriesAsked t first field 1) := by
  rw [entriesAsked_one] at h ⊢
  exact if_neg (Nat.not_lt.2 h)

section
variable {count total : Nat} (cut : min count (t.entries - first) = total)
include cut

theorem readTable_whole (h1 : 1 ≤ total) (h : (s.entriesAsked t first field total).length ≤ 42) :
    s.readTable t first count field = ⟨s.entriesAsked t first field total, none⟩ := by
  obtain ⟨m, rfl⟩ := Nat.exists_eq_add_of_le' h1
  have one := entriesAsked_length_mono s t first field h1
  rw [readTable_firstFits s t first field count (by omega), cut]
  exact readWhole_fits s t first field 0 h

theorem readTable_partial {m : Nat} (h1 : 1 ≤ m) (hm : m < total) (h : (s.entriesAsked t first field m).length ≤ 42)
    (hn : 42 < (s.entriesAsked t first field (m + 1)).length) :
    s.readTable t first count field = ⟨s.entriesAsked t first field m, some (first + m, 1)⟩ := by
  obtain ⟨k, rfl⟩ := Nat.exists_eq_add_of_le' h1
  obtain ⟨n, rfl⟩ := Nat.exists_eq_add_of_lt hm
  have one := entriesAsked_length_mono s t first field h1
  have next : s.entryAsked t first field (k + 1) = s.readEntry t (first + (k + 1)) := if_neg k.succ_ne_zero
  rw [entriesAsked_succ, next, List.length_append] at hn
  rw [readTable_firstFits s t first field count (by omega), cut, show k + 1 + n + 1 - 1 = k + (n + 1) by omega,
    readWhole_fits s t first field (n + 1) h, State.readWhole]
  exact if_neg (Nat.not_le.2 hn)

end

theorem readTable_within (count : Nat) (h : 42 < (s.entryAsked t first field 0).length) :
    s.readTable t first count field = ⟨(s.entryAsked t first field 0).take 42, some (first, field + 42)⟩ :=
  if_pos h

end

section
variable (s : State) (table field : Byte) {first count : Nat}

theorem readArgs_length : ([table] ++ le16 first ++ le16 count ++ [field]).length = 6 := rfl

theorem carryReadTable_badTable (h : tableOfCode table.toNat = none) :
    carryReadTable ([table] ++ le16 first ++ le16 count ++ [field]) s = refuse s .badTable [] := by
  have tableArg : fieldAt ([table] ++ le16 first ++ le16 count ++ [field]) 0 1 = table.toNat := fieldAt_byte ..
  rw [carryReadTable, withLength_eq (readArgs_length table field)]
  simp only [tableArg, h]

/-- The checks of R178 in their order, and the read. -/
theorem carryReadTable_eq {t : TableId} (h : tableOfCode table.toNat = some t) (hf : first < 65536) (hc : count < 65536) :
    carryReadTable ([table] ++ le16 first ++ le16 count ++ [field]) s =
      if t.entries ≤ first then refuse s .badIndex []
      else if count = 0 then refuse s .badRequest []
      else if field = 0 ∨ t.fields < field.toNat then refuse s .badField []
      else ⟨s, if (s.readTable t first count field.toNat).next.isNone then .ok else .part,
        readContent table.toNat first field.toNat (s.readTable t first count field.toNat), false⟩ := by
  have tableArg : fieldAt ([table] ++ le16 first ++ le16 count ++ [field]) 0 1 = table.toNat := fieldAt_byte ..
  have firstArg : fieldAt ([table] ++ le16 first ++ le16 count ++ [field]) 1 2 = first := fromLe_le16 hf
  have countArg : fieldAt ([table] ++ le16 first ++ le16 count ++ [field]) 3 2 = count := fromLe_le16 hc
  have fieldArg : fieldAt ([table] ++ le16 first ++ le16 count ++ [field]) 5 1 = field.toNat := fieldAt_byte ..
  have zero : field.toNat = 0 ↔ field = 0 := by rw [← BitVec.toNat_inj]; rfl
  rw [carryReadTable, withLength_eq (readArgs_length table field)]
  simp only [tableArg, firstArg, countArg, fieldArg, h, zero]

/-- The content of a read that carries everything (R197). -/
theorem readContent_whole (values : List Nat) : readContent table.toNat first field.toNat ⟨values, none⟩ =
    [table] ++ le16 first ++ [field, byteOf values.length] ++ [0xFF, 0xFF, 0xFF] ++ values.flatMap le16 := by
  have index : le16 0xFFFF = [0xFF, 0xFF] := by decide
  rw [readContent, byteOf_val, byteOf_val]
  exact congrArg (fun next => [table] ++ le16 first ++ [field, byteOf values.length] ++ next ++ [0xFF] ++ values.flatMap le16) index

/-- The content of a read that goes on elsewhere (R197). -/
theorem readContent_partial (values : List Nat) (index nextField : Nat) :
    readContent table.toNat first field.toNat ⟨values, some (index, nextField)⟩ =
      [table] ++ le16 first ++ [field, byteOf values.length] ++ (le16 index ++ [byteOf nextField]) ++ values.flatMap le16 := by
  rw [readContent, byteOf_val, byteOf_val]
  rfl

end

/-- READ_TABLE in full: its refusals in the order of R178, and what it carries. -/
theorem readTable_reports (s : State) (h : MgmtHeader) (table field : Byte) (first count : Nat) (hf : first < 65536)
    (hc : count < 65536) :
    let args := [table] ++ le16 first ++ le16 count ++ [field]
    let req : MgmtRequest := ⟨h.source, h.tag, 1, args⟩
    let refused := fun st : Status => exec (.readTable h args) s = .next (s.atRequest.reply req st [] false)
    let answered := fun (st : Status) (values : List Nat) (next : List Byte) => exec (.readTable h args) s =
      .next (s.atRequest.reply req st
        ([table] ++ le16 first ++ [field, byteOf values.length] ++ next ++ values.flatMap le16) false)
    s.TakesRequest req →
    (table = 0 ∨ 8 < table.toNat → refused .badTable) ∧
    ∀ t : TableId, tableOfCode table.toNat = some t →
      if t.entries ≤ first then refused .badIndex
      else if count = 0 then refused .badRequest
      else if field = 0 ∨ t.fields < field.toNat then refused .badField
      else
        let total := min count (t.entries - first)
        let entry := s.entryAsked t first field.toNat
        let upTo := s.entriesAsked t first field.toNat
        ((upTo total).length ≤ 42 → answered .ok (upTo total) [0xFF, 0xFF, 0xFF]) ∧
        (∀ m : Nat, 1 ≤ m → m < total → (upTo m).length ≤ 42 → 42 < (upTo (m + 1)).length →
          answered .part (upTo m) (le16 (first + m) ++ [1])) ∧
        (42 < (entry 0).length → answered .part ((entry 0).take 42) (le16 first ++ [byteOf (field.toNat + 42)])) := by
  intro args req refused answered taken
  refine ⟨fun none => takeRequest_refused taken (carryReadTable_badTable _ table field (tableOfCode_none none)), fun t named => ?_⟩
  have carried := carryReadTable_eq s.atRequest table field named hf hc
  split
  · next beyond => exact takeRequest_refused taken (carried.trans (if_pos beyond))
  · next within =>
    rw [if_neg within] at carried
    split
    · next empty => exact takeRequest_refused taken (carried.trans (if_pos empty))
    · next nonempty =>
      rw [if_neg nonempty] at carried
      split
      · next bad => exact takeRequest_refused taken (carried.trans (if_pos bad))
      · next good =>
        rw [if_neg good] at carried
        refine ⟨fun fits => ?whole, fun m h1 hm fits more => ?upToHere, fun long => ?within⟩
        case whole =>
          rw [readTable_whole s.atRequest t first field.toNat rfl (by omega) (by rwa [entriesAsked_atRequest]), readContent_whole,
            entriesAsked_atRequest] at carried
          exact takeRequest_answered taken carried
        case upToHere =>
          rw [readTable_partial s.atRequest t first field.toNat rfl h1 hm (by rwa [entriesAsked_atRequest])
            (by rwa [entriesAsked_atRequest]), readContent_partial, entriesAsked_atRequest] at carried
          exact takeRequest_answered taken carried
        case within =>
          rw [readTable_within s.atRequest t first field.toNat count (by rwa [entryAsked_atRequest]), readContent_partial,
            entryAsked_atRequest] at carried
          exact takeRequest_answered taken carried

/-- One entry of table 2, read whole (R178, R201). -/
theorem readTable_lane (s : State) (h : MgmtHeader) (i : Fin 64) :
    let args := [2, byteOf i.val, 0, 1, 0, 1]
    let req : MgmtRequest := ⟨h.source, h.tag, 1, args⟩
    s.TakesRequest req →
    exec (.readTable h args) s = .next (s.atRequest.reply req .ok
      ([2, byteOf i.val, 0, 1, 19, 0xFF, 0xFF, 0xFF] ++ (laneFields (s.lane i).config).flatMap le16) false) := by
  intro args req taken
  have first : le16 i.val = [byteOf i.val, 0] := le16_small (by omega)
  have argsEq : [2] ++ le16 i.val ++ le16 1 ++ [1] = args := by rw [first]; rfl
  have report := readTable_reports s h 2 1 i.val 1 (by omega) (by omega)
  dsimp only at report
  rw [argsEq, first] at report
  obtain ⟨-, reads⟩ := report taken
  have read := reads .lane rfl
  rw [if_neg (show ¬ TableId.lane.entries ≤ i.val from Nat.not_le.2 i.isLt), if_neg Nat.one_ne_zero, if_neg (by decide)] at read
  obtain ⟨whole, -⟩ := read
  have total : min 1 (TableId.lane.entries - i.val) = 1 := Nat.min_eq_left (by have := i.isLt; show 1 ≤ 64 - i.val; omega)
  have entry : s.entriesAsked .lane i.val (1 : Byte).toNat 1 = laneFields (s.lane i).config := by
    rw [entriesAsked_one]
    exact dif_pos i.isLt
  rw [total, entry] at whole
  have fits : (laneFields (s.lane i).config).length ≤ 42 := Nat.le_add_right 19 23
  exact whole fits

/-! ## The values of every table (R54, R201) -/

section
variable (s : State)

theorem readEntry_window (i : Fin 64) (slot : Fin 32) :
    s.readEntry .window (i.val * 32 + slot.val) = windowFields (s.lane i) s.minute slot.val := by
  have lane : (i.val * 32 + slot.val) / 32 = i.val := by omega
  have place : (i.val * 32 + slot.val) % 32 = slot.val := by omega
  show (if h : (i.val * 32 + slot.val) / 32 < 64 then
    windowFields (s.lane ⟨(i.val * 32 + slot.val) / 32, h⟩) s.minute ((i.val * 32 + slot.val) % 32) else []) = _
  simp only [lane, place, i.isLt, dif_pos]

theorem lineFields_eq (b : BoardLine) : lineFields b = [flagCode b.enable, b.address, b.line, b.lane.val,
    (match b.port with | .sp k => k.val | .tp => 6), flagCode b.pending.isSome] := by
  rw [lineFields, portIndex_val]

theorem ruleFields_eq (r : Rule) : ruleFields r = [flagCode r.enable, flagCode r.chain, selectorCode r.selector,
    operatorCode r.operator, r.mask, r.value, actionCode r.action, (match r.override with | none => 0xFFFF | some i => i.val),
    r.hits] := by
  rw [ruleFields, overrideCode_eq]

theorem windowFields_eq (l : Lane) (n slot : Nat) : windowFields l n slot = match l.windows[slot]? with
    | some w => [1, w.start, (if n < w.start then 0 else if n < w.start + l.config.windowLength then 1 else 2), w.capacity, w.issued,
        w.redeemed, flagCode w.marked]
    | none => [0, 0, 0, 0, 0, 0, 0] := by
  rw [windowFields]
  cases l.windows[slot]? with
  | none => rfl
  | some w =>
    exact congrArg (fun state => [1, w.start, state, w.capacity, w.issued, w.redeemed, flagCode w.marked])
      (windowStateCode_state ..)

/-- The 74 values of the COUNTERS entry, in field order (R201). -/
theorem readEntry_counters : s.readEntry .counters 0 =
    [Port.tp, .sp 0, .sp 1, .sp 2, .sp 3, .sp 4, .sp 5].flatMap (fun q => portCounterFields (s.port q).counters) ++
      let c := s.counters
      [c.forwarded, c.noRoute, c.hairpin, c.misdirected, c.malformedScan, c.defaultTaken, c.unmapped, c.discarded, c.classRefused,
        c.answerDropped, c.offDay, c.badStatus, c.staleGrants, s.ring.grants.length, flagCode s.ring.headHeld, s.register.length,
        countState s.register 1, countState s.register 2, countState s.register 3, c.boardsQueued, c.boardsRefused, s.pendingLines,
        c.attnQueued, c.attnRefused, c.clearRefused, c.malformedRequest, c.replyRefused, c.readerAhead, c.lateClamped,
        outcomeCode s.loader.outcome, s.loader.skipped, s.loader.legalized] := by
  show s.counterFields = _
  simp only [State.counterFields, State.occupancy, allPorts_eq, List.append_assoc, List.cons_append, List.nil_append]

end

/-- Settles O48: each request passes its checks and answers what it names; the entries of the tables, field by field. -/
theorem readingRequestsReport : Obligations.ReadingRequestsReport := by
  refine ⟨readTable_lane, ?status, flashRead_reports, flashRead_badLength,
    fun s h taken => takeRequest_answered taken (carryFlashStatus_answer _), readTable_reports,
    fun s => ⟨rfl, fun j => ?rule, fun k => ?segment, fun j => ?line, fun i => ?live, fun i slot => ?window, readEntry_counters s⟩⟩
  case status =>
    intro s h view req counters taken
    obtain ⟨park, trunk, station, above⟩ := readStatus_reports s h view taken
    refine ⟨fun zero => ?_, trunk, station, above⟩
    rw [park zero, parkView_ready (s := s.atRequest) taken.1.2]
    rfl
  case rule => exact (dif_pos j.isLt).trans (ruleFields_eq _)
  case segment => exact dif_pos k.isLt
  case line => exact (dif_pos j.isLt).trans (lineFields_eq _)
  case live => exact dif_pos i.isLt
  case window => exact (readEntry_window s i slot).trans (windowFields_eq ..)

end Sys2Proof.Machine
end

section
/-! One step, and the register kept by every step. -/

namespace Sys2Proof.Machine

/-- Settles O1: one step is the match on the queue. -/
theorem stepTakesTheFrontCommand : Obligations.StepTakesTheFrontCommand := ⟨fun _ _ _ => rfl, fun _ => rfl⟩

/-- Settles O6: every change of the day keeps the register, and a step makes changes alone. -/
theorem stepKeepsRegisterLaw : Obligations.StepKeepsRegisterLaw := fun _ _ hs h => (step_evolves h).registerLaw hs

end Sys2Proof.Machine
end

section
/-! The queue of waiting commands: no command touches it (log entry 1), and every command is answered. -/

namespace Sys2Proof.Machine

/-! ## What the commands share -/

@[simp] theorem giveGrantHeld_pending (s t : State) : (s.giveGrantHeld t).pending = t.pending :=
  (congrArg State.pending (s.giveGrantHeld_frame t) :)

theorem writeTable_pending {s t : State} {code index : Nat} {pairs : List (Nat × Nat)} {legalized : Bool}
    (h : s.writeTable code index pairs = .accepted t legalized) : t.pending = s.pending := by
  obtain ⟨table, -, -, -, rfl, -⟩ := writeTable_accepted h
  exact (congrArg State.pending (writeEntry_frame s table index (table.legalPairs pairs)) :)

theorem withLength_pending {s : State} {args : List Byte} {n : Nat} {bad : List Byte} {f : Unit → Carried}
    (h : (f ()).state.pending = s.pending) : (withLength args n s bad f).state.pending = s.pending := by
  unfold withLength
  split
  · exact h
  · rfl

theorem onLaneInUse_pending {s : State} {i : Fin 64} {f : State → State} (h : (f s).pending = s.pending) :
    (s.onLaneInUse i f).pending = s.pending := by
  unfold State.onLaneInUse
  split
  · exact h
  · rfl

theorem onOpenDay_pending {s : State} {f : State → State} (h : (f s).pending = s.pending) : (s.onOpenDay f).pending = s.pending := by
  unfold State.onOpenDay
  split
  · exact h
  · rfl

/-- With or without the reset input asserted, the wrapper answers a next state. -/
theorem whileReleased_keepsQueue {s : State} {f : State → State} (hf : (f s).pending = s.pending) :
    ∃ t, whileReleased s f = .next t ∧ t.pending = s.pending :=
  ⟨_, rfl, by split <;> [rfl; exact hf]⟩

theorem takeAction_keepsQueue {s : State} {a : ScanAction} {i : Fin 64} {f : State → State}
    (hf : ∀ u : State, (f u).pending = u.pending) :
    ∃ t, takeAction a s (fun s => s.onLaneInUse i f) = .next t ∧ t.pending = s.pending :=
  whileReleased_keepsQueue (by split <;> [exact onLaneInUse_pending (s := s.atAction a) (hf _); rfl])

theorem takeRequest_keepsQueue {s : State} {req : MgmtRequest} {f : State → Carried}
    (hf : ∀ u : State, (f u).state.pending = u.pending) : ∃ t, takeRequest req s f = .next t ∧ t.pending = s.pending :=
  whileReleased_keepsQueue (by split <;> [exact (reply_pending ..).trans (hf s.atRequest); rfl])

/-! ## Requests -/

section
variable (s : State)

theorem carrySetMode_pending (args : List Byte) : (carrySetMode args s).state.pending = s.pending := by
  refine withLength_pending ?_
  dsimp only
  repeat' split
  any_goals rfl
  exact changeMode_pending ..

theorem carryReadTable_pending (args : List Byte) : (carryReadTable args s).state.pending = s.pending := by
  refine withLength_pending ?_
  dsimp only
  repeat' split
  all_goals rfl

theorem carryWriteTable_pending (args : List Byte) : (carryWriteTable args s).state.pending = s.pending := by
  unfold carryWriteTable
  dsimp only
  split
  · rfl
  · split
    · rfl
    · exact writeTable_pending ‹_›

theorem openDay_pending (offset : Nat) : (s.openDay offset).pending = s.pending := by
  simp [State.openDay, State.dayBuilt]

theorem carryOpenDay_pending (args : List Byte) : (carryOpenDay args s).state.pending = s.pending := by
  refine withLength_pending ?_
  dsimp only
  split
  · rfl
  · exact openDay_pending ..

theorem closeDay_pending : s.closeDay.pending = s.pending := by
  simp [State.closeDay, State.dayEmptied]

theorem carryCloseDay_pending (args : List Byte) : (carryCloseDay args s).state.pending = s.pending := by
  refine withLength_pending ?_
  split
  · rfl
  · split
    · rfl
    · exact closeDay_pending s

theorem carryPostGrants_pending (args : List Byte) : (carryPostGrants args s).state.pending = s.pending := by
  unfold carryPostGrants
  dsimp only
  split
  · rfl
  · split
    · rfl
    · split
      · rfl
      · exact startRun_pending _

theorem voidPass_pending (i : Fin 64) (ticket : Nat) : (s.voidPass i ticket).1.pending = s.pending := by
  unfold State.voidPass State.voidRecord
  dsimp only
  repeat' split
  all_goals rfl

theorem carryVoidPass_pending (args : List Byte) : (carryVoidPass args s).state.pending = s.pending := by
  refine withLength_pending ?_
  dsimp only
  split
  · exact voidPass_pending ..
  · rfl

theorem carryQueryPass_pending (args : List Byte) : (carryQueryPass args s).state.pending = s.pending := by
  refine withLength_pending ?_
  dsimp only
  repeat' split
  all_goals rfl

theorem carryClearAttention_pending (args : List Byte) : (carryClearAttention args s).state.pending = s.pending := by
  refine withLength_pending ?_
  dsimp only
  split
  · rfl
  · exact evaluateEach_pending ..

theorem carryInjectNotice_pending (args : List Byte) : (carryInjectNotice args s).state.pending = s.pending := by
  refine withLength_pending ?_
  dsimp only
  split
  · exact evaluate_pending ..
  · rfl

theorem carryResetSegment_pending (segment : Byte) : (carryResetSegment segment s).state.pending = s.pending := by
  unfold carryResetSegment
  split <;> rfl

theorem carryReadStatus_pending (args : List Byte) : (carryReadStatus args s).state.pending = s.pending := by
  refine withLength_pending ?_
  dsimp only
  repeat' split
  all_goals rfl

theorem carryFlashRead_pending (args : List Byte) (given : Nat) : (carryFlashRead args given s).state.pending = s.pending := by
  refine withLength_pending ?_
  dsimp only
  split <;> rfl

theorem carryFlashWrite_pending (args : List Byte) : (carryFlashWrite args s).state.pending = s.pending := by
  unfold carryFlashWrite
  dsimp only
  repeat' split
  all_goals rfl

theorem carryFlashStatus_pending (args : List Byte) : (carryFlashStatus args s).state.pending = s.pending := withLength_pending rfl

/-! ## Lane actions -/

theorem takeEntry_pending (i : Fin 64) (c : Nat) : (s.takeEntry i c).pending = s.pending := onOpenDay_pending rfl

theorem takeBoarding_pending (i : Fin 64) (c c2 : Nat) : (s.takeBoarding i c c2).pending = s.pending := by
  refine onOpenDay_pending ?_
  dsimp only
  split
  · rfl
  · exact evaluate_pending ..

theorem passRequest_pending (i : Fin 64) (ticket party : Nat) : (s.passRequest i ticket party).1.pending = s.pending := by
  unfold State.passRequest
  split
  · rfl
  · exact evaluate_pending ..
  · rfl

theorem passReturn_pending (i : Fin 64) (ticket event : Nat) : (s.passReturn i ticket event).1.pending = s.pending := by
  unfold State.passReturn
  repeat' split
  all_goals rfl

theorem takePassRequest_pending (o : ScanOrigin) (i : Fin 64) (ticket party : Nat) :
    (s.takePassRequest o i ticket party).pending = s.pending :=
  (sendAnswer_pending ..).trans (passRequest_pending ..)

theorem takePassReturn_pending (o : ScanOrigin) (i : Fin 64) (ticket stamp receipt : Nat) :
    (s.takePassReturn o i ticket stamp receipt).pending = s.pending :=
  (sendAnswer_pending ..).trans (passReturn_pending (s.count _) ..)

theorem autoDown_pending (i : Fin 64) : (s.autoDown i).pending = s.pending := by
  unfold State.autoDown
  dsimp only
  split
  · exact changeMode_pending ..
  · rfl

theorem autoRestart_pending (i : Fin 64) : (s.autoRestart i).pending = s.pending := by
  unfold State.autoRestart
  dsimp only
  repeat' split
  · exact changeMode_pending ..
  all_goals rfl

theorem takeRideStatus_pending (i : Fin 64) (status : Nat) : (s.takeRideStatus i status).pending = s.pending := by
  unfold State.takeRideStatus
  split
  · rfl
  · exact autoDown_pending (s.recordStatus i .fault) i
  · exact autoRestart_pending (s.recordStatus i .up) i

/-! ## Frames -/

theorem receive_pending (p : Port) (bytes : List Byte) : (s.receive p bytes).pending = s.pending := by
  unfold State.receive
  repeat' split
  iterate 4 rfl
  exact evaluate_pending ..

theorem routeByWindow_pending (arrival : Port) (bytes : List Byte) : (s.routeByWindow arrival bytes).pending = s.pending := by
  unfold State.routeByWindow
  dsimp only
  split
  · exact List.foldlRecOn (motive := fun u : State => u.pending = s.pending) _ _ rfl fun u hu p _ => (forward_pending u p bytes).trans hu
  · repeat' split
    · exact forward_pending ..
    · rfl
    · exact forward_pending ..
    · rfl

theorem handToLane_pending (c : Scan) (o : Option (Fin 64)) (f : Fin 64 → ScanAction) : (s.handToLane c o f).pending = s.pending := by
  unfold State.handToLane
  split <;> rfl

theorem decideScan_pending (c : Scan) : (s.decideScan c).1.pending = s.pending := by
  unfold State.decideScan
  split <;> rfl

theorem classify_pending (segment : Fin 6) (f : RxFrame) : (s.classify segment f).pending = s.pending := by
  unfold State.classify
  split
  · rfl
  · refine .trans ?_ (decideScan_pending s (scanOf segment f))
    dsimp only
    split
    iterate 5 exact handToLane_pending ..
    · exact routeByWindow_pending ..
    · rfl
    · exact sendAnswer_pending ..

theorem zoneClear_pending (k : Fin 6) (bytes : List Byte) : (s.zoneClear k bytes).pending = s.pending := by
  unfold State.zoneClear
  dsimp only
  repeat' split
  · rfl
  · exact evaluate_pending ..
  · rfl

theorem handRequest_pending (bytes : List Byte) : (s.handRequest bytes).pending = s.pending := by
  unfold State.handRequest
  dsimp only
  repeat' split
  · rfl
  · exact reply_pending ..
  · exact reply_pending ..
  · rfl

theorem routeRows_pending (arrival : Port) (f : RxFrame) : (s.routeRows arrival f).pending = s.pending := by
  unfold State.routeRows
  dsimp only
  repeat' split
  · rfl
  · rfl
  · rfl
  · exact handRequest_pending ..
  · rfl
  · exact zoneClear_pending ..
  · rfl
  · exact classify_pending ..
  · exact routeByWindow_pending ..
  · exact routeByWindow_pending ..

theorem routeHead_pending (p : Port) : (s.routeHead p).pending = s.pending := by
  unfold State.routeHead
  repeat' split
  · rfl
  · rfl
  · exact routeRows_pending ..

theorem startSending_pending (p : Port) : (s.startSending p).pending = s.pending := by
  unfold State.startSending State.startNotice
  repeat' split
  all_goals rfl

theorem replySent_pending (f : TxFrame) : (s.replySent f).pending = s.pending := by
  unfold State.replySent
  split <;> rfl

theorem finishSending_pending (p : Port) : (s.finishSending p).pending = s.pending := by
  unfold State.finishSending
  dsimp only
  repeat' split
  · rfl
  · exact (roomNotice_pending ..).trans (replySent_pending ..)
  · exact replySent_pending ..
  · rfl

theorem offerBoards_pending (p : Port) (fuel : Nat) : (s.offerBoards p fuel).pending = s.pending := by
  induction fuel generalizing s with
  | zero => rfl
  | succ fuel ih =>
    unfold State.offerBoards
    dsimp only
    repeat' split
    · rfl
    · exact ih _
    · rfl

theorem offerAttention_pending (d : Port) : (s.offerAttention d).pending = s.pending := by
  unfold State.offerAttention
  repeat' split
  all_goals rfl

/-! ## Resets and the loader -/

theorem engineReset_pending : s.engineReset.pending = s.pending := by
  have cleared : s.engineCleared.pending = s.pending := abandonWrite_pending s
  unfold State.engineReset
  dsimp only
  split
  · exact cleared
  · exact (loaderReady_pending ..).trans cleared

theorem probe_pending (header : Option Nat) : (s.probe header).pending = s.pending := by
  unfold State.probe
  dsimp only
  repeat' split
  · rfl
  · exact loaderReady_pending ..
  · exact loaderReady_pending ..
  · exact loaderReady_pending ..
  · rfl

theorem applyEntry_pending (bytes : List Byte) : (s.applyEntry bytes).pending = s.pending := by
  unfold State.applyEntry
  dsimp only
  split
  · rfl
  · next h =>
    have written := writeTable_pending h
    split <;> exact written

theorem loadEntry_pending (given : Nat) : (s.loadEntry given).pending = s.pending := by
  unfold State.loadEntry
  dsimp only
  split
  · rfl
  · split
    · exact (loaderReady_pending ..).trans (evaluate_pending ..)
    · refine .trans ?_ (applyEntry_pending s (s.flashBytes (s.loader.entryGiven given) (8 + 6 * s.loader.position) 6))
      split
      · exact loaderReady_pending ..
      · rfl

theorem completeWrite_pending (verified : Bool) : (s.completeWrite verified).pending = s.pending := by
  unfold State.completeWrite
  split
  · cases verified <;> rfl
  · rfl

/-! ## The clock -/

theorem second_pending : s.second.pending = s.pending := by
  unfold State.second
  split <;> rfl

theorem minuteBoundary_pending (n : Nat) : (s.minuteBoundary n).pending = s.pending :=
  (evaluateEach_pending ..).trans (startRun_pending _)

theorem periodBoundary_pending (d : PeriodDue) : (s.periodBoundary d).pending = s.pending :=
  (evaluateEach_pending ..).trans (markPublished_pending ..)

end

/-! ## Every command -/

/-- Settles O2: no operation of any command writes the queue, and the wrappers always answer a next state. -/
theorem everyCommandIsAnswered : Obligations.EveryCommandIsAnswered := by
  intro c s
  cases c with
  | powerReset => exact ⟨_, rfl, rfl⟩
  | engineReset =>
    rw [exec, execEngineReset]
    refine whileReleased_keepsQueue ?_
    split
    · exact engineReset_pending s
    · rfl
  | segmentReset k =>
    rw [exec, execSegmentReset]
    refine whileReleased_keepsQueue ?_
    split
    · exact resetSegmentPort_pending ..
    · rfl
  | secondArrival =>
    rw [exec, execSecondArrival]
    exact whileReleased_keepsQueue (second_pending s)
  | minuteBoundary =>
    rw [exec, execMinuteBoundary]
    refine whileReleased_keepsQueue ?_
    split
    · rfl
    · exact minuteBoundary_pending ..
  | periodBoundary =>
    rw [exec, execPeriodBoundary]
    refine whileReleased_keepsQueue ?_
    split
    · rfl
    · exact periodBoundary_pending ..
  | clockEndLatch =>
    rw [exec, execClockEndLatch]
    refine whileReleased_keepsQueue ?_
    split
    · exact evaluate_pending ..
    · rfl
  | frameReceive p bytes =>
    rw [exec, execFrameReceive]
    exact whileReleased_keepsQueue (receive_pending s p bytes)
  | routeFrame p =>
    rw [exec, execRouteFrame]
    exact whileReleased_keepsQueue (routeHead_pending s p)
  | countEntry i c => exact takeAction_keepsQueue fun u => takeEntry_pending u i c
  | countBoarding i c c2 => exact takeAction_keepsQueue fun u => takeBoarding_pending u i c c2
  | passRequest o i ticket party => exact takeAction_keepsQueue fun u => takePassRequest_pending u o i ticket party
  | passReturn o i ticket stamp receipt => exact takeAction_keepsQueue fun u => takePassReturn_pending u o i ticket stamp receipt
  | rideStatus i status => exact takeAction_keepsQueue fun u => takeRideStatus_pending u i status
  | setMode _ args => exact takeRequest_keepsQueue fun u => carrySetMode_pending u args
  | readTable _ args => exact takeRequest_keepsQueue fun u => carryReadTable_pending u args
  | writeTable _ args => exact takeRequest_keepsQueue fun u => carryWriteTable_pending u args
  | openDay _ args => exact takeRequest_keepsQueue fun u => carryOpenDay_pending u args
  | closeDay _ args => exact takeRequest_keepsQueue fun u => carryCloseDay_pending u args
  | postGrants _ args => exact takeRequest_keepsQueue fun u => carryPostGrants_pending u args
  | grantResolve =>
    rw [exec, execGrantResolve]
    refine whileReleased_keepsQueue ?_
    split
    · exact (giveGrantHeld_pending ..).trans (resolveHead_pending s)
    · rfl
  | voidPass _ args => exact takeRequest_keepsQueue fun u => carryVoidPass_pending u args
  | queryPass _ args => exact takeRequest_keepsQueue fun u => carryQueryPass_pending u args
  | clearAttention _ args => exact takeRequest_keepsQueue fun u => carryClearAttention_pending u args
  | injectNotice _ args => exact takeRequest_keepsQueue fun u => carryInjectNotice_pending u args
  | resetEngine _ _ => exact takeRequest_keepsQueue fun _ => rfl
  | resetSegment _ segment => exact takeRequest_keepsQueue fun u => carryResetSegment_pending u segment
  | readStatus _ args => exact takeRequest_keepsQueue fun u => carryReadStatus_pending u args
  | flashRead _ args given => exact takeRequest_keepsQueue fun u => carryFlashRead_pending u args given
  | flashWrite _ args => exact takeRequest_keepsQueue fun u => carryFlashWrite_pending u args
  | flashStatus _ args => exact takeRequest_keepsQueue fun u => carryFlashStatus_pending u args
  | flashWriteComplete verified =>
    rw [exec, execFlashWriteComplete]
    exact whileReleased_keepsQueue (completeWrite_pending s verified)
  | mgmtReplyOffer =>
    rw [exec, execMgmtReplyOffer]
    refine whileReleased_keepsQueue ?_
    repeat' split
    · exact offerReply_pending ..
    · rfl
    · rfl
  | boardFrameOffer p =>
    rw [exec, execBoardFrameOffer]
    refine whileReleased_keepsQueue ?_
    split
    · exact offerBoards_pending ..
    · rfl
  | attnFrameOffer d =>
    rw [exec, execAttnFrameOffer]
    refine whileReleased_keepsQueue ?_
    split
    · exact offerAttention_pending ..
    · rfl
  | transmitStart p =>
    rw [exec, execTransmitStart]
    exact whileReleased_keepsQueue (startSending_pending s p)
  | transmitComplete p =>
    rw [exec, execTransmitComplete]
    exact whileReleased_keepsQueue (finishSending_pending s p)
  | loaderProbe header =>
    rw [exec, execLoaderProbe]
    exact whileReleased_keepsQueue (probe_pending s header)
  | loaderEntry given =>
    rw [exec, execLoaderEntry]
    exact whileReleased_keepsQueue (loadEntry_pending s given)
  | resetInputAsserted =>
    refine ⟨_, rfl, ?_⟩
    split
    · rfl
    · exact abandonWrite_pending s

end Sys2Proof.Machine
end

section
/-! The window search: which windows it looks at, and that it finds the first FUTURE one with room. -/

namespace Sys2Proof.Machine

/-! ## Which windows are searched (R75) -/

/-- The list cut into the windows passed over and those searched: what is passed over has opened or ends by the target, what is searched
ends after it, and where windows stand a window length apart all of that is FUTURE. -/
structure Lane.SearchCut (l : Lane) (n target : Nat) (passed searched : List Window) : Prop where
  list : l.windows = passed ++ searched
  skipped : ∀ x ∈ passed, x.start ≤ n ∨ x.start + l.config.windowLength ≤ target
  ends : ∀ x ∈ searched, target < x.start + l.config.windowLength
  future : l.SpacingLaw → ∀ x ∈ searched, n < x.start

section
variable {l : Lane} {n target : Nat}

theorem Lane.SearchCut.all_passed (h : ∀ x ∈ l.windows, x.start + l.config.windowLength ≤ target) :
    l.SearchCut n target l.windows [] :=
  ⟨(List.append_nil _).symm, fun x hx => .inr (h x hx), nofun, fun _ => nofun⟩

theorem Lane.SearchCut.none_passed (ht : n ≤ target) (h : ∀ x ∈ l.windows, target < x.start) : l.SearchCut n target [] l.windows :=
  ⟨rfl, nofun, fun x hx => by have := h x hx; omega, fun _ x hx => by have := h x hx; omega⟩

/-- The cut at the first window that ends after the target: it is searched when it is FUTURE, and else only those after it are. -/
theorem Lane.SearchCut.at_first (ht : n ≤ target) (sorted : l.windows.Pairwise fun a b => a.start < b.start)
    {passed after : List Window} {w : Window} (list : l.windows = passed ++ w :: after)
    (ended : ∀ x ∈ passed, x.start + l.config.windowLength ≤ target) (first : target < w.start + l.config.windowLength) :
    ∃ p, l.SearchCut n target p (if n < w.start then w :: after else after) := by
  have later : ∀ x ∈ after, w.start < x.start := by
    rw [list] at sorted
    exact (List.pairwise_cons.1 (List.pairwise_append.1 sorted).2.1).1
  have spaced (apart : l.SpacingLaw) : ∀ x ∈ after, w.start + l.config.windowLength ≤ x.start := by
    rw [Lane.SpacingLaw, list] at apart
    exact (List.pairwise_cons.1 (List.pairwise_append.1 apart).2.1).1
  have afterEnds : ∀ x ∈ after, target < x.start + l.config.windowLength := fun x hx => by have := later x hx; omega
  have afterFuture (apart : l.SpacingLaw) : ∀ x ∈ after, n < x.start := fun x hx => by have := spaced apart x hx; omega
  split
  · next future =>
    exact ⟨passed, list, fun x hx => .inr (ended x hx), List.forall_mem_cons.2 ⟨first, afterEnds⟩,
      fun apart => List.forall_mem_cons.2 ⟨future, afterFuture apart⟩⟩
  · next opened =>
    refine ⟨passed ++ [w], by rw [list, List.append_assoc]; rfl, fun x hx => ?_, afterEnds, afterFuture⟩
    rcases List.mem_append.1 hx with hx | hx
    · exact .inr (ended x hx)
    · rw [List.mem_singleton.1 hx]
      exact .inl (Nat.not_lt.1 opened)

theorem searchFrom_cut (h : l.CalendarLaw) (ht : n ≤ target) : ∃ passed, l.SearchCut n target passed (l.searchFrom n target) := by
  obtain ⟨-, -, sorted, -⟩ := h
  unfold Lane.searchFrom
  split
  · next oldest newest ho hn =>
    split
    · next late =>
      refine ⟨_, .all_passed fun x hx => ?_⟩
      have := start_le_newest (d := 1) sorted (by rw [Lane.newestStart, hn]; rfl) hx
      omega
    · split
      · next early =>
        refine ⟨_, .none_passed ht fun x hx => ?_⟩
        obtain ⟨rest, list⟩ := List.head?_eq_some_iff.1 ho
        rw [list] at sorted hx
        rcases List.mem_cons.1 hx with rfl | hx
        · exact early
        · exact early.trans ((List.pairwise_cons.1 sorted).1 x hx)
      · have list := List.takeWhile_append_dropWhile (p := fun w : Window => decide (w.start + l.config.windowLength ≤ target))
          (l := l.windows)
        have ended : ∀ x ∈ l.windows.takeWhile fun w : Window => decide (w.start + l.config.windowLength ≤ target),
            x.start + l.config.windowLength ≤ target := fun x hx => by simpa using List.mem_takeWhile_imp hx
        split
        · next all =>
          rw [all, List.append_nil] at list
          exact ⟨_, .all_passed (list ▸ ended)⟩
        · next w after cut =>
          rw [cut] at list
          have first := List.head_dropWhile_not (fun w : Window => decide (w.start + l.config.windowLength ≤ target))
            (l := l.windows) (by simp [cut])
          simp only [cut, List.head_cons, decide_eq_false_iff_not, Nat.not_le] at first
          simp only [Window.state_future]
          exact Lane.SearchCut.at_first ht sorted list.symm ended first
  · next none =>
    cases list : l.windows with
    | nil => exact ⟨[], ⟨list, nofun, nofun, fun _ => nofun⟩⟩
    | cons x rest => exact (none x _ (by rw [list]; rfl) (by rw [list]; exact List.getLast?_cons ..)).elim

/-- A FUTURE window that ends after the target and starts before `w`. -/
def Lane.isNearer (l : Lane) (n target : Nat) (w x : Window) : Bool :=
  decide (n < x.start) && decide (target < x.start + l.config.windowLength) && decide (x.start < w.start)

/-- The windows nearer than a searched one are the FUTURE ones searched before it. -/
theorem Lane.SearchCut.nearer {passed before after : List Window} {w : Window} (cut : l.SearchCut n target passed (before ++ w :: after))
    (sorted : l.windows.Pairwise fun a b => a.start < b.start) :
    l.windows.filter (l.isNearer n target w) = before.filter fun x => decide (n < x.start) := by
  have list := cut.list
  rw [list] at sorted
  obtain ⟨-, tail, sooner⟩ := List.pairwise_append.1 (List.pairwise_append.1 sorted).2.1
  have fromPassed : passed.filter (l.isNearer n target w) = [] := List.filter_eq_nil_iff.2 fun x hx => by
    have := cut.skipped x hx
    simp [Lane.isNearer]
    omega
  have fromRest : (w :: after).filter (l.isNearer n target w) = [] := List.filter_eq_nil_iff.2 fun x hx => by
    have : ¬ x.start < w.start := by
      rcases List.mem_cons.1 hx with rfl | hx
      · exact Nat.lt_irrefl _
      · exact Nat.lt_asymm ((List.pairwise_cons.1 tail).1 x hx)
    simp [Lane.isNearer, this]
  rw [list, List.filter_append, List.filter_append, fromPassed, fromRest, List.nil_append, List.append_nil]
  refine List.filter_congr fun x hx => ?_
  simp [Lane.isNearer, cut.ends x (List.mem_append_left _ hx), sooner x hx w List.mem_cons_self]

end

/-! ## What the search finds (R74, R75) -/

section
variable {l : Lane} {n party : Nat} {w : Window}

/-- A window that the search finds, with the windows that it met before. -/
theorem findWindow_split (h : l.findWindow n party = some w) : ∃ before after,
    l.searchFrom n (l.issuanceTarget n) = before ++ w :: after ∧ before.length < l.config.searchSpan ∧
      ∀ x ∈ before, n < x.start → x.capacity < x.issued + party := by
  obtain ⟨-, before, after, met, lack⟩ := List.find?_eq_some_iff_append.1 h
  have whole := List.take_append_drop l.config.searchSpan (l.searchFrom n (l.issuanceTarget n))
  refine ⟨before, after ++ (l.searchFrom n (l.issuanceTarget n)).drop l.config.searchSpan, ?_, ?_, fun x hx future => ?_⟩
  · exact whole.symm.trans (by rw [met, List.append_assoc]; rfl)
  · have := congrArg List.length met
    rw [List.length_take, List.length_append, List.length_cons] at this
    omega
  · have := lack x hx
    simp [Window.state_future.2 future] at this
    exact this

/-- The search finds a window when one of those it meets within its span is FUTURE and has room. -/
theorem findWindow_isSome {before after : List Window} (met : l.searchFrom n (l.issuanceTarget n) = before ++ w :: after)
    (span : before.length < l.config.searchSpan) (future : n < w.start) (room : w.issued + party ≤ w.capacity) :
    (l.findWindow n party).isSome = true := by
  refine List.find?_isSome.2 ⟨w, ?_, by simp [Window.state_future.2 future, room]⟩
  rw [met, List.take_append, List.mem_append]
  right
  obtain ⟨k, hk⟩ : ∃ k, l.config.searchSpan - before.length = k + 1 := ⟨l.config.searchSpan - before.length - 1, by omega⟩
  rw [hk]
  exact List.mem_cons_self

end

/-- Settles O33: the search meets the windows of a cut of the list in their order. -/
theorem searchFindsTheFirstWindowWithRoom : Obligations.SearchFindsTheFirstWindowWithRoom := by
  intro l n party law
  obtain ⟨-, -, sorted, -⟩ := id law
  have reach : n ≤ l.issuanceTarget n := by
    unfold Lane.issuanceTarget
    split <;> omega
  obtain ⟨passed, cut⟩ := searchFrom_cut law reach
  intro target nearer
  refine ⟨fun w found => ?_, fun apart w mem future ends room few => ?_⟩
  · obtain ⟨inList, future, room⟩ := findWindow_some found
    obtain ⟨before, after, met, span, lack⟩ := findWindow_split found
    rw [met] at cut
    have before_eq : nearer w = before.filter fun x => decide (n < x.start) := cut.nearer sorted
    rw [before_eq]
    refine ⟨inList, future, cut.ends w (by simp), room, fun x hx => ?_, (List.length_filter_le ..).trans_lt span⟩
    obtain ⟨hx, future⟩ := List.mem_filter.1 hx
    exact lack x hx (of_decide_eq_true future)
  · have searched : w ∈ l.searchFrom n (l.issuanceTarget n) := by
      rw [cut.list] at mem
      refine (List.mem_append.1 mem).resolve_left fun hp => ?_
      have := cut.skipped w hp
      change l.issuanceTarget n < _ at ends
      omega
    obtain ⟨before, after, met⟩ := List.append_of_mem searched
    rw [met] at cut
    have before_eq : nearer w = before := (cut.nearer sorted).trans
      (List.filter_eq_self.2 fun x hx => decide_eq_true (cut.future apart x (List.mem_append_left _ hx)))
    exact findWindow_isSome met (by rwa [← before_eq]) future room

end Sys2Proof.Machine
end

section
/-! PASS_REQUEST: what each outcome of the checks of R72 leaves and answers. -/

namespace Sys2Proof.Machine

/-! ## The action on a lane in use (R72, R105) -/

section
variable {s : State} (hs : s.Serving) {i : Fin 64} (hr : (s.lane i).config.ride ≠ 0) (o : ScanOrigin) (ticket party : Nat)
include hs hr

/-- A pass request on a lane in use: what it leaves, with its answer offered. -/
theorem passRequest_taken : exec (.passRequest o i ticket party) s =
    .next (((s.atAction (.passRequest o i ticket party)).passRequest i ticket party).1.sendAnswer o ticket
      ((s.atAction (.passRequest o i ticket party)).passRequest i ticket party).2) := by
  rw [exec, execPassRequest, takeAction_serving hs, onLaneInUse_used (s := s.atAction _) hr]
  rfl

theorem passRequest_refused {a : Answer} (h : s.checkRequest i ticket party = .refuse a) :
    exec (.passRequest o i ticket party) s = .next ((s.atAction (.passRequest o i ticket party)).sendAnswer o ticket a) := by
  rw [passRequest_taken hs hr, State.passRequest, show (s.atAction _).checkRequest i ticket party = _ from h]

end

/-! ## The checks in their order (R72) -/

section
variable {s : State} {i : Fin 64} {ticket party : Nat}

theorem checkRequest_shut (hd : s.clock.day = .shut) : s.checkRequest i ticket party = .refuse (.bare .dayShut) := by
  rw [State.checkRequest, State.dayOpen_eq_false.2 hd]
  rfl

section
variable (hd : s.clock.day = .opened)
include hd

theorem checkRequest_badParty (hp : party = 0 ∨ 8 < party) : s.checkRequest i ticket party = .refuse (.bare .badParty) := by
  rw [State.checkRequest, State.dayOpen_eq_true.2 hd, if_neg (by decide), if_pos hp]

variable (hp : ¬ (party = 0 ∨ 8 < party))
include hp

theorem checkRequest_rideDown (hm : (s.lane i).live.mode = .down) : s.checkRequest i ticket party = .refuse (.bare .rideDown) := by
  rw [State.checkRequest, State.dayOpen_eq_true.2 hd, if_neg (by decide), if_neg hp, if_pos hm]

theorem checkRequest_modeClosed (hm : (s.lane i).live.mode = .closed ∨ (s.lane i).live.mode = .standbyOnly) :
    s.checkRequest i ticket party = .refuse (.bare .modeClosed) := by
  rw [State.checkRequest, State.dayOpen_eq_true.2 hd, if_neg (by decide), if_neg hp, if_neg (by rcases hm with e | e <;> rw [e] <;> nofun),
    if_pos hm]

variable (hm : (s.lane i).live.mode = .run ∨ (s.lane i).live.mode = .passOnly)
include hm

/-- Past the checks of day, party and mode. -/
theorem checkRequest_issuing : s.checkRequest i ticket party =
    match findRecord s.register ticket i with
    | some r => .refuse (s.recordAnswer .alreadyHeld r)
    | none =>
      if s.park.passLimit ≤ liveCount s.register ticket then .refuse (.bare .limitReached)
      else if Config.registerCapacity ≤ s.register.length then .registerFull
      else
        match (s.lane i).findWindow s.minute party with
        | none => .refuse (.bare .noWindow)
        | some w => .issue w := by
  have opened : ¬ (!s.dayOpen) = true := by rw [State.dayOpen_eq_true.2 hd]; decide
  have up : (s.lane i).live.mode ≠ .down := by rcases hm with e | e <;> rw [e] <;> nofun
  have issuing : ¬ ((s.lane i).live.mode = .closed ∨ (s.lane i).live.mode = .standbyOnly) := by
    rcases hm with e | e <;> rw [e] <;> nofun
  exact (if_neg opened).trans ((if_neg hp).trans ((if_neg up).trans (if_neg issuing)))

theorem checkRequest_alreadyHeld {r : PassRecord} (hf : findRecord s.register ticket i = some r) :
    s.checkRequest i ticket party = .refuse (s.recordAnswer .alreadyHeld r) := by
  rw [checkRequest_issuing hd hp hm, hf]

variable (hf : findRecord s.register ticket i = none)
include hf

theorem checkRequest_limitReached (hl : s.park.passLimit ≤ liveCount s.register ticket) :
    s.checkRequest i ticket party = .refuse (.bare .limitReached) := by
  rw [checkRequest_issuing hd hp hm, hf]
  exact if_pos hl

variable (hl : liveCount s.register ticket < s.park.passLimit)
include hl

theorem checkRequest_registerFull (hc : 16384 ≤ s.register.length) : s.checkRequest i ticket party = .registerFull := by
  rw [checkRequest_issuing hd hp hm, hf]
  exact (if_neg (by omega)).trans (if_pos hc)

variable (hc : s.register.length < 16384)
include hc

theorem checkRequest_search : s.checkRequest i ticket party =
    match (s.lane i).findWindow s.minute party with
    | none => .refuse (.bare .noWindow)
    | some w => .issue w := by
  rw [checkRequest_issuing hd hp hm, hf]
  exact (if_neg (by omega)).trans (if_neg (Nat.not_le.2 hc))

theorem checkRequest_noWindow (hw : (s.lane i).findWindow s.minute party = none) :
    s.checkRequest i ticket party = .refuse (.bare .noWindow) := by
  rw [checkRequest_search hd hp hm hf hl hc, hw]

theorem checkRequest_issues {w : Window} (hw : (s.lane i).findWindow s.minute party = some w) :
    s.checkRequest i ticket party = .issue w := by
  rw [checkRequest_search hd hp hm hf hl hc, hw]

end
end

/-- A mode that is neither DOWN, CLOSED nor STANDBY_ONLY issues passes (R72). -/
theorem LaneMode.issues {m : LaneMode} (hd : m ≠ .down) (hc : ¬ (m = .closed ∨ m = .standbyOnly)) : m = .run ∨ m = .passOnly := by
  cases m <;> simp_all

/-! ## The register full (R73, R164) -/

theorem latchRegisterFull_spec (s : State) :
    s.latchRegisterFull.attn.registerFull = true ∧
    State.OnlyReports { s with attn := { s.attn with registerFull := true } } s.latchRegisterFull ∧
    (s.latchRegisterFull.attnPort .tp).last = s.latchRegisterFull.report .tp ∧ s.ReportsFollow s.latchRegisterFull := by
  have only := evaluate_onlyReports { s with attn := { s.attn with registerFull := true } } .tp
  refine ⟨(congrArg (·.attn.registerFull) only.1).trans rfl, only, ?_, ?_⟩
  · rw [State.latchRegisterFull, evaluate_last, evaluate_report]
  · refine evaluateEach_reportsFollow (ds := [.tp]) (fun _ => rfl) (fun _ => rfl) fun d hd => ?_
    cases d with
    | tp => exact absurd (List.mem_singleton.2 rfl) hd
    | sp z => rfl

/-- Settles O34: the checks pass, so the request issues into the window found. -/
theorem passRequestIssues : Obligations.PassRequestIssues := by
  intro s o i ticket party w hs hr hd h1 h8 hm hf hl hc hw
  have issue : (s.atAction (.passRequest o i ticket party)).checkRequest i ticket party = .issue w :=
    checkRequest_issues (s := s.atAction _) hd (by omega) hm hf hl hc hw
  refine ⟨(s.atAction (.passRequest o i ticket party)).issuePass i ticket party w, rfl, insertRecord_perm .., ?_⟩
  rw [passRequest_taken hs hr, State.passRequest, issue]
  rfl

/-- Settles O35: the checks of R72 in their order, and what a full register latches. -/
theorem passRequestRefused : Obligations.PassRequestRefused := by
  refine ⟨fun s o i ticket party hs hr => ?_, fun s o i ticket party hs hr hd h1 h8 hm hf hl hc => ?_⟩
  · intro u answered
    have refused := @passRequest_refused s hs i hr o ticket party
    split
    · next hd => exact refused (checkRequest_shut hd)
    next hd =>
    replace hd := DayState.ne_shut.1 hd
    split
    · next hp => exact refused (checkRequest_badParty hd hp)
    next hp =>
    split
    · next hm => exact refused (checkRequest_rideDown hd hp hm)
    next down =>
    split
    · next hm => exact refused (checkRequest_modeClosed hd hp hm)
    next closed =>
    have hm := LaneMode.issues down closed
    refine ⟨fun r hf => refused (checkRequest_alreadyHeld hd hp hm hf), fun hf hl => refused (checkRequest_limitReached hd hp hm hf hl),
      fun hf hl hc hw => refused (checkRequest_noWindow hd hp hm hf hl hc hw)⟩
  · have full : (s.atAction (.passRequest o i ticket party)).checkRequest i ticket party = .registerFull :=
      checkRequest_registerFull (s := s.atAction _) hd (by omega) hm hf hl hc
    obtain ⟨latched, only, last, follow⟩ := latchRegisterFull_spec (s.atAction (.passRequest o i ticket party))
    refine ⟨_, ?_, latched, only, last, follow⟩
    rw [passRequest_taken hs hr, State.passRequest, full]

end Sys2Proof.Machine
end

section
/-! PASS_RETURN: what each state of the record and of its lane leaves and answers. -/

namespace Sys2Proof.Machine

/-! ## The action on a lane in use (R79, R102, R105, R155) -/

/-- The state in which a pass return meets the register: its stamp has been converted and counted. -/
def State.atReturn (s : State) (o : ScanOrigin) (i : Fin 64) (ticket stamp receipt : Nat) : State :=
  { s.atAction (.passReturn o i ticket stamp receipt) with
    counters := s.counters.stamp (s.convertStamp o.segment stamp receipt).2 }

/-- A pass return on a lane in use: what it leaves, with its answer offered. -/
theorem passReturn_taken {s u : State} (hs : s.Serving) {i : Fin 64} (hr : (s.lane i).config.ride ≠ 0) {o : ScanOrigin}
    {ticket stamp receipt : Nat} {a : Answer}
    (h : (s.atReturn o i ticket stamp receipt).passReturn i ticket (s.convertStamp o.segment stamp receipt).1 = (u, a)) :
    exec (.passReturn o i ticket stamp receipt) s = .next (u.sendAnswer o ticket a) := by
  rw [exec, execPassReturn, takeAction_serving hs, onLaneInUse_used (s := s.atAction _) hr]
  exact congrArg (fun r : State × Answer => Host.Outcome.next (r.1.sendAnswer o ticket r.2)) h

/-! ## The checks in their order (R79) -/

section
variable {s : State} {i : Fin 64} {ticket event : Nat}

theorem passReturn_shut (hd : s.clock.day = .shut) : s.passReturn i ticket event = (s, .bare .dayShut) := by
  rw [State.passReturn, State.dayOpen_eq_false.2 hd]
  rfl

variable (hd : s.clock.day = .opened)
include hd

theorem passReturn_unknown (hf : findRecord s.register ticket i = none) :
    s.passReturn i ticket event = (s, s.noRecordAnswer i ticket) := by
  rw [State.passReturn, State.dayOpen_eq_true.2 hd, hf]
  rfl

variable {r : PassRecord} (hf : findRecord s.register ticket i = some r)
include hf

theorem passReturn_used {w : Nat} (h : r.state = .redeemed w) : s.passReturn i ticket event = (s, s.recordAnswer .used r) := by
  rw [State.passReturn, State.dayOpen_eq_true.2 hd, hf]
  simp [h]

section
variable {since : Nat} (h : r.state = .carried since)
include h

theorem passReturn_carried : s.passReturn i ticket event =
    match (s.lane i).live.mode with
    | .down => (s, .bare .rideDown)
    | .closed => (s, .bare .modeClosed)
    | _ => (s.redeemCarried i r, s.recordAnswer .redeemed r) := by
  rw [State.passReturn, State.dayOpen_eq_true.2 hd, hf]
  simp only [h]
  rfl

theorem passReturn_carried_open (hm : (s.lane i).live.mode.isOpen = true) :
    s.passReturn i ticket event = (s.redeemCarried i r, s.recordAnswer .redeemed r) := by
  rw [passReturn_carried hd hf h]
  split
  · next e => rw [e] at hm; cases hm
  · next e => rw [e] at hm; cases hm
  · rfl

theorem passReturn_carried_closed (hm : (s.lane i).live.mode = .closed) : s.passReturn i ticket event = (s, .bare .modeClosed) := by
  rw [passReturn_carried hd hf h, hm]

theorem passReturn_carried_down (hm : (s.lane i).live.mode = .down) : s.passReturn i ticket event = (s, .bare .rideDown) := by
  rw [passReturn_carried hd hf h, hm]

end

section
variable {start : Nat} (h : r.state = .issued start)
include h

theorem passReturn_rideDown (hm : (s.lane i).live.mode = .down) : s.passReturn i ticket event = (s, .bare .rideDown) := by
  rw [State.passReturn, State.dayOpen_eq_true.2 hd, hf]
  simp [h, hm]

variable (hm : (s.lane i).live.mode ≠ .down)
include hm

/-- The early bound decides a return of an ISSUED record on a lane that is not DOWN (R81). -/
theorem passReturn_issued : s.passReturn i ticket event =
    if event + 60 * (s.lane i).config.earlyTolerance < 60 * start then (s, s.recordAnswer .early r)
    else (s.redeemIssued i r start, s.recordAnswer .redeemed r) := by
  have bound : isEarly event start (s.lane i).config.earlyTolerance = true ↔
      event + 60 * (s.lane i).config.earlyTolerance < 60 * start := by
    rw [isEarly, decide_eq_true_iff]
    omega
  rw [State.passReturn, State.dayOpen_eq_true.2 hd, hf]
  simp only [h, hm, bound]
  rfl

theorem passReturn_early (early : event + 60 * (s.lane i).config.earlyTolerance < 60 * start) :
    s.passReturn i ticket event = (s, s.recordAnswer .early r) := (passReturn_issued hd hf h hm).trans (if_pos early)

theorem passReturn_inTime (early : ¬ event + 60 * (s.lane i).config.earlyTolerance < 60 * start) :
    s.passReturn i ticket event = (s.redeemIssued i r start, s.recordAnswer .redeemed r) :=
  (passReturn_issued hd hf h hm).trans (if_neg early)

end
end

/-! ## Answers and records (R77, R80, R81) -/

theorem recordAnswer_issued (s : State) (result : AnswerResult) {r : PassRecord} {start : Nat} (h : r.state = .issued start) :
    s.recordAnswer result r = ⟨result, some ((s.clock.dayOffset / 60 + start) % 1440,
      (s.clock.dayOffset / 60 + (start + (s.lane r.lane).config.windowLength)) % 1440), some r.party, none⟩ := by
  rw [State.recordAnswer, PassRecord.windowStart, h]
  rfl

theorem recordAnswer_carried (s : State) (result : AnswerResult) {r : PassRecord} {since : Nat} (h : r.state = .carried since) :
    s.recordAnswer result r = ⟨result, none, some r.party, none⟩ := by
  rw [State.recordAnswer, PassRecord.windowStart, h]
  rfl

theorem any_liveRecord {register : List PassRecord} {ticket : Nat} {j : Fin 64} :
    (register.any fun r => r.key == passKey ticket j && r.isLive) = true ↔
      ∃ r ∈ register, r.ticket = ticket ∧ r.lane = j ∧ r.isLive = true := by
  simp [PassRecord.key_eq, and_assoc]

/-- Without a live record elsewhere a return without a record is unknown, and else it is told the lowest other lane (R77, R79). -/
theorem noRecordAnswer_unknown {s : State} {i : Fin 64} {ticket : Nat}
    (h : ∀ j : Fin 64, j ≠ i → ¬ ∃ r ∈ s.register, r.ticket = ticket ∧ r.lane = j ∧ r.isLive = true) :
    s.noRecordAnswer i ticket = .bare .unknownPass := by
  have none : otherLiveLane s.register ticket i = none := List.find?_eq_none.2 fun j _ hj => by
    rw [Bool.and_eq_true, bne_iff_ne, any_liveRecord] at hj
    exact h j hj.1 hj.2
  rw [State.noRecordAnswer, none]

theorem noRecordAnswer_otherRide {s : State} {i j : Fin 64} {ticket : Nat} (hj : j ≠ i)
    (live : ∃ r ∈ s.register, r.ticket = ticket ∧ r.lane = j ∧ r.isLive = true)
    (lowest : ∀ k : Fin 64, k < j → k ≠ i → ¬ ∃ r ∈ s.register, r.ticket = ticket ∧ r.lane = k ∧ r.isLive = true) :
    s.noRecordAnswer i ticket = ⟨.otherRide, none, none, some (s.lane j).config.ride⟩ := by
  have found : otherLiveLane s.register ticket i = some j := by
    rw [otherLiveLane, List.find?_eq_some_iff_getElem]
    refine ⟨?_, j.val, by simp, by simp, fun k hk => ?_⟩
    · rw [Bool.and_eq_true, bne_iff_ne, any_liveRecord]
      exact ⟨hj, live⟩
    · rw [List.getElem_finRange, Bool.not_eq_true', Bool.eq_false_iff, Ne, Bool.and_eq_true, bne_iff_ne, any_liveRecord]
      exact fun hl => lowest _ hk hl.1 hl.2
  rw [State.noRecordAnswer, found]

theorem redeemIssued_eq (s : State) (i : Fin 64) (r : PassRecord) (start : Nat) : s.redeemIssued i r start = { s with
    register := s.register.map fun q => if q.ticket = r.ticket ∧ q.lane = i then { q with state := .redeemed start } else q
    lanes := put s.lanes i { s.lane i with
      windows := (s.lane i).windows.map fun x => if x.start = start then { x with redeemed := x.redeemed + r.party } else x } } := by
  rw [State.redeemIssued, restateRecord_eq]
  rfl

theorem redeemCarried_eq (s : State) (i : Fin 64) (r : PassRecord) : s.redeemCarried i r = { s with
    register := s.register.filter fun q => decide (¬ (q.ticket = r.ticket ∧ q.lane = i))
    lanes := put s.lanes i { s.lane i with live := { (s.lane i).live with
      protectedRedeemed := min 65535 ((s.lane i).live.protectedRedeemed + r.party) } } } := by
  rw [State.redeemCarried, removeRecord_eq]
  rfl

/-- Settles O36: an ISSUED record by the early bound, and the refusals in the order of R79. -/
theorem passReturnIsTaken : Obligations.PassReturnIsTaken := by
  refine ⟨fun s o i ticket stamp receipt start r hs hr hd hm hf h => ?_, fun s o i ticket stamp receipt hs hr => ?_⟩
  · intro e u answer
    obtain ⟨-, rfl, rfl⟩ := findRecord_some hf
    have answers (result : AnswerResult) : u.recordAnswer result r = answer result := recordAnswer_issued u result h
    by_cases he : e.1 + 60 * (s.lane r.lane).config.earlyTolerance < 60 * start
    · rw [if_pos he]
      exact passReturn_taken hs hr ((passReturn_early (s := u) hd hf h hm he).trans (by rw [answers]))
    · rw [if_neg he]
      exact passReturn_taken hs hr ((passReturn_inTime (s := u) hd hf h hm he).trans
        (congrArg₂ Prod.mk (redeemIssued_eq ..) (answers .redeemed)))
  · intro u answered live
    split
    · next hd => exact passReturn_taken hs hr (passReturn_shut (s := u) hd)
    next hd =>
    replace hd := DayState.ne_shut.1 hd
    refine ⟨fun hf => ?_, fun r hf => ⟨fun w h => passReturn_taken hs hr (passReturn_used (s := u) hd hf h),
      fun w h hm => passReturn_taken hs hr (passReturn_rideDown (s := u) hd hf h hm)⟩⟩
    have unknown := passReturn_taken hs hr (passReturn_unknown (s := u) hd hf)
    refine ⟨fun none => ?_, fun j hj here lowest => ?_⟩
    · rwa [noRecordAnswer_unknown (s := u) none] at unknown
    · rwa [noRecordAnswer_otherRide (s := u) hj here lowest] at unknown

/-- Settles O37: the lane's mode decides. -/
theorem passReturnHonoursProtected : Obligations.PassReturnHonoursProtected := by
  intro s o i ticket stamp receipt since r hs hr hd hf h u
  obtain ⟨-, rfl, -⟩ := findRecord_some hf
  refine ⟨fun hm => ?_, fun hm => passReturn_taken hs hr (passReturn_carried_closed (s := u) hd hf h hm),
    fun hm => passReturn_taken hs hr (passReturn_carried_down (s := u) hd hf h hm)⟩
  exact passReturn_taken hs hr ((passReturn_carried_open (s := u) hd hf h hm).trans
    (congrArg₂ Prod.mk (redeemCarried_eq ..) (recordAnswer_carried u .redeemed h)))

end Sys2Proof.Machine
end

section
/-! VOID_PASS by the record's state and its window's, and the records that QUERY_PASS lists. -/

namespace Sys2Proof.Machine

/-! ## The arguments (R85, R86, R197) -/

/-- The arguments of a VOID_PASS or a QUERY_PASS: a ticket and a lane. -/
def passArgs (ticket : Nat) (i : Fin 64) : List Byte := le32 ticket ++ [byteOf i.val]

theorem passArgs_ticket {ticket : Nat} (h : ticket < 4294967296) (i : Fin 64) : fieldAt (passArgs ticket i) 0 4 = ticket :=
  fromLe_le32 h

theorem passArgs_lane (ticket : Nat) (i : Fin 64) : fieldAt (passArgs ticket i) 4 1 = i.val :=
  (fieldAt_byte ..).trans (byteOf_toNat_of_lt (by omega))

/-! ## VOID_PASS (R85) -/

section
variable {s : State} {i : Fin 64} {ticket : Nat}

theorem carryVoidPass_eq (h : ticket < 4294967296) : carryVoidPass (passArgs ticket i) s =
    ⟨(s.voidPass i ticket).1, (s.voidPass i ticket).2.1, voidContent (passArgs ticket i) (s.voidPass i ticket).2.2, false⟩ := by
  rw [carryVoidPass, withLength_eq (n := 5) (args := passArgs ticket i) rfl]
  simp only [passArgs_ticket h, passArgs_lane]
  exact dif_pos i.isLt

theorem voidPass_none (hf : findRecord s.register ticket i = none) : s.voidPass i ticket = (s, .notFound, none) := by
  rw [State.voidPass, hf]

/-- Whether the list has a FUTURE window of a start, as VOID_PASS asks it. -/
theorem windowAt_future {w : Nat} :
    ((s.lane i).windowAt w).any (fun x => x.state s.minute (s.lane i).config.windowLength == .future) = true ↔
    ∃ x ∈ (s.lane i).windowAt w, s.clock.ops / 60 < x.start := by
  simp [Option.any_eq_true, Window.state_future]
  rfl

variable {r : PassRecord} (hf : findRecord s.register ticket i = some r)
include hf

theorem voidPass_redeemed {w : Nat} (h : r.state = .redeemed w) : s.voidPass i ticket = (s, .refusedState, some r) := by
  rw [State.voidPass, hf]
  simp only [h]

theorem voidPass_carried {since : Nat} (h : r.state = .carried since) : s.voidPass i ticket =
    ({ s with register := s.register.filter fun q => decide (¬ (q.ticket = ticket ∧ q.lane = i)) }, .ok, some r) := by
  obtain ⟨-, rfl, -⟩ := findRecord_some hf
  rw [State.voidPass, hf, ← removeRecord_eq]
  simp only [State.voidRecord, h]

section
variable {w : Nat} (h : r.state = .issued w)
include h

theorem voidPass_issued : s.voidPass i ticket = (s.voidRecord i r, .ok, some r) := by
  rw [State.voidPass, hf]
  simp only [h]

/-- A FUTURE window gives its seats back. -/
theorem voidPass_future (future : ∃ x ∈ (s.lane i).windowAt w, s.clock.ops / 60 < x.start) : s.voidPass i ticket =
    ({ s with
      register := s.register.filter fun q => decide (¬ (q.ticket = ticket ∧ q.lane = i))
      lanes := put s.lanes i { s.lane i with
        windows := (s.lane i).windows.map fun x => if x.start = w then { x with issued := x.issued - r.party } else x } },
      .ok, some r) := by
  obtain ⟨-, rfl, -⟩ := findRecord_some hf
  rw [voidPass_issued hf h, ← removeRecord_eq, State.voidRecord]
  simp only [h, if_pos (windowAt_future.2 future)]
  rfl

/-- A window that has opened keeps its seats, and the tally grows. -/
theorem voidPass_opened (opened : ¬ ∃ x ∈ (s.lane i).windowAt w, s.clock.ops / 60 < x.start) : s.voidPass i ticket =
    ({ s with
      register := s.register.filter fun q => decide (¬ (q.ticket = ticket ∧ q.lane = i))
      lanes := put s.lanes i { s.lane i with live := { (s.lane i).live with
        voidedInWindow := min 65535 ((s.lane i).live.voidedInWindow + r.party) } } },
      .ok, some r) := by
  obtain ⟨-, rfl, -⟩ := findRecord_some hf
  rw [voidPass_issued hf h, ← removeRecord_eq, State.voidRecord]
  simp only [h, if_neg (mt windowAt_future.1 opened)]
  rfl

end
end

/-- The reply to a VOID_PASS that meets no record (R85, R197). -/
theorem carryVoidPass_none {s : State} {i : Fin 64} {ticket : Nat} (ht : ticket < 4294967296)
    (hf : findRecord s.register ticket i = none) :
    carryVoidPass (passArgs ticket i) s = ⟨s, .notFound, passArgs ticket i ++ [0, 0] ++ le16 0xFFFF, false⟩ := by
  rw [carryVoidPass_eq ht, voidPass_none hf, voidContent, List.append_assoc]
  rfl

/-- The reply to a VOID_PASS that meets a record: its state, party and window (R85, R197). -/
theorem carryVoidPass_found {s t : State} {i : Fin 64} {ticket code window : Nat} (ht : ticket < 4294967296) {st : Status}
    {r : PassRecord} (hv : s.voidPass i ticket = (t, st, some r)) (hc : passStateCode r.state = code)
    (hw : r.windowStart.getD 0xFFFF = window) : carryVoidPass (passArgs ticket i) s =
      ⟨t, st, passArgs ticket i ++ [byteOf code, byteOf r.party] ++ le16 window, false⟩ := by
  subst hc hw
  rw [carryVoidPass_eq ht, hv, voidContent, List.append_assoc]
  rfl

/-! ## QUERY_PASS (R86) -/

section
variable {s : State} {i : Fin 64} {ticket : Nat} (h : ticket < 4294967296)
include h

theorem carryQueryPass_eq : carryQueryPass (passArgs ticket i) s =
    match recordsFrom s.register ticket i.val, (recordsFrom s.register ticket i.val).drop 10 with
    | [], _ => ⟨s, .notFound, [0, 0xFF], false⟩
    | rs, [] => ⟨s, .ok, [byteOf rs.length, 0xFF] ++ rs.flatMap recordBytes, false⟩
    | rs, next :: _ => ⟨s, .part, [10, byteOf next.lane.val] ++ (rs.take 10).flatMap recordBytes, false⟩ := by
  rw [carryQueryPass, withLength_eq (n := 5) (args := passArgs ticket i) rfl]
  simp only [passArgs_ticket h, passArgs_lane]
  exact if_neg (by omega)

theorem carryQueryPass_none (hr : recordsFrom s.register ticket i.val = []) :
    carryQueryPass (passArgs ticket i) s = ⟨s, .notFound, [0, 0xFF], false⟩ := by
  rw [carryQueryPass_eq h, hr]

theorem carryQueryPass_all {rs : List PassRecord} (hr : recordsFrom s.register ticket i.val = rs) (h1 : 1 ≤ rs.length)
    (h10 : rs.length ≤ 10) :
    carryQueryPass (passArgs ticket i) s = ⟨s, .ok, [byteOf rs.length, 0xFF] ++ rs.flatMap recordBytes, false⟩ := by
  rw [carryQueryPass_eq h, hr, List.drop_eq_nil_of_le h10]
  cases rs with
  | nil => cases h1
  | cons => rfl

theorem carryQueryPass_part {rs : List PassRecord} (hr : recordsFrom s.register ticket i.val = rs)
    {r : PassRecord} (h10 : rs[10]? = some r) :
    carryQueryPass (passArgs ticket i) s = ⟨s, .part, [10, byteOf r.lane.val] ++ (rs.take 10).flatMap recordBytes, false⟩ := by
  obtain ⟨more, eleventh⟩ := List.getElem?_eq_some_iff.1 h10
  rw [carryQueryPass_eq h, hr, List.drop_eq_getElem_cons more, eleventh]
  cases rs with
  | nil => cases more
  | cons => rfl

end

theorem recordsFrom_eq (register : List PassRecord) (ticket first : Nat) : recordsFrom register ticket first =
    register.filter fun r => decide (r.ticket = ticket ∧ first ≤ r.lane.val) := by
  unfold recordsFrom
  congr 1
  funext r
  rw [Bool.decide_and]
  rfl

/-- Settles O39: the record found decides a VOID_PASS, and the number of records a QUERY_PASS. -/
theorem voidAndQueryPass : Obligations.VoidAndQueryPass := by
  refine ⟨fun s h ticket i ht => ?_, fun s h ticket i ht => ?_⟩
  · intro args req content without l hr
    have reply {t : State} {st : Status} {r : PassRecord} {code window : Nat} (hv : s.atRequest.voidPass i ticket = (t, st, some r))
        (hc : passStateCode r.state = code) (hw : r.windowStart.getD 0xFFFF = window) :
        exec (.voidPass h args) s = .next (t.reply req st (content code r.party window) false) :=
      takeRequest_answered hr (carryVoidPass_found ht hv hc hw)
    split
    · next hf => exact takeRequest_answered hr (carryVoidPass_none ht hf)
    · next r hf =>
      split
      · next w hw =>
        exact reply (voidPass_redeemed (s := s.atRequest) hf hw) (congrArg passStateCode hw)
          (by simp [PassRecord.windowStart, hw])
      · next since hw =>
        exact reply (voidPass_carried (s := s.atRequest) hf hw) (congrArg passStateCode hw)
          (by simp [PassRecord.windowStart, hw])
      · next w hw =>
        have issued : r.windowStart.getD 0xFFFF = w := by simp [PassRecord.windowStart, hw]
        split
        · next future => exact reply (voidPass_future (s := s.atRequest) hf hw future) (congrArg passStateCode hw) issued
        · next opened => exact reply (voidPass_opened (s := s.atRequest) hf hw opened) (congrArg passStateCode hw) issued
  · intro args req records hr
    have listed : recordsFrom s.atRequest.register ticket i.val = records := recordsFrom_eq ..
    exact ⟨fun none => takeRequest_answered hr (carryQueryPass_none ht (listed.trans none)),
      fun h1 h10 => takeRequest_answered hr (carryQueryPass_all ht listed h1 h10),
      fun r h10 => takeRequest_answered hr (carryQueryPass_part ht listed h10)⟩

end Sys2Proof.Machine
end

section
/-! Replies and answers: what an offer leaves of TP, of the agent and of the counters, and where an ANSWER goes. -/

namespace Sys2Proof.Machine

/-! ## The offer of a reply (R174, R176, R182) -/

/-- The producer under which a reply stands in TP's queue (R182). -/
def replyProducer (engine : Bool) : Producer := if engine then .engineReply else .reply

/-- The agent's state once its reply is queued (R174, R182). -/
def afterReply (engine : Bool) : AgentMode := if engine then .resetting else .idle

section
variable {s : State} (frame : List Byte) (engine : Bool)

theorem admits_reply : s.admits .tp (replyProducer engine) = true ↔ s.linkUp .tp = true ∧ (s.port .tp).tx.length < 48 :=
  admits_generated (by cases engine <;> decide)

theorem offerReply_queued (up : s.linkUp .tp = true) (room : (s.port .tp).tx.length < 48) :
    s.offerReply frame engine =
      { s.enqueue .tp ⟨frame, replyProducer engine⟩ with agent := ⟨afterReply engine, s.agent.request, none, 0⟩ } :=
  if_pos ((admits_reply engine).2 ⟨up, room⟩)

theorem offerReply_held (full : s.linkUp .tp = false ∨ 48 ≤ (s.port .tp).tx.length) :
    s.offerReply frame engine = { s with
      agent := ⟨.holding, s.agent.request, some ⟨frame, engine⟩, s.agent.offersDue⟩
      counters := { s.counters with replyRefused := inc s.counters.replyRefused } } := by
  refine if_neg fun admitted => ?_
  obtain ⟨up, room⟩ := (admits_reply engine).1 admitted
  rcases full with down | long
  · rw [up] at down; cases down
  · omega

end

/-- The state in which a held reply is offered: the offer is owed no more. -/
def State.atReplyOffer (s : State) : State := { s with agent := { s.agent with offersDue := s.agent.offersDue - 1 } }

theorem mgmtReplyOffer_offers {s : State} (released : s.resetHeld = false) {frame : List Byte} {engine : Bool}
    (holding : s.agent.mode = .holding) (held : s.agent.reply = some ⟨frame, engine⟩) (owed : 0 < s.agent.offersDue) :
    exec .mgmtReplyOffer s = .next (s.atReplyOffer.offerReply frame engine) := by
  have command : exec .mgmtReplyOffer s = execMgmtReplyOffer s := rfl
  rw [command, execMgmtReplyOffer, whileReleased_released released, held]
  exact congrArg Host.Outcome.next (if_pos ⟨holding, owed⟩)

/-! ## The offer of an answer (R105, R120) -/

theorem sendAnswer_eq (s : State) (o : ScanOrigin) (ticket : Nat) (a : Answer) : s.sendAnswer o ticket a =
    if s.linkUp (.sp o.segment) = true ∧ (s.port (.sp o.segment)).tx.length < 48 then
      s.enqueue (.sp o.segment) ⟨buildFrame kindAnswer o.source s.park.nodeAddress (answerPayload ticket o.ride a), .answer⟩
    else s.count fun c => { c with answerDropped := inc c.answerDropped } :=
  if_congr (admits_generated (by decide)) rfl rfl

theorem answerPayload_eq (ticket ride : Nat) (a : Answer) : answerPayload ticket ride a =
    le32 ticket ++ [byteOf ride, byteOf (answerResultCode a.result)]
      ++ le16 (match a.window with | some w => w.1 | none => 0xFFFF) ++ le16 (match a.window with | some w => w.2 | none => 0xFFFF)
      ++ [byteOf (a.party.getD 0), byteOf (a.otherRide.getD 0)] := by
  unfold answerPayload
  cases a.window <;> rfl

/-- Settles O52: a reply is queued where TP admits it and held where it does not, at a held reply's own offer too, and an ANSWER is
queued or dropped. -/
theorem replyIsQueuedOrHeld : Obligations.ReplyIsQueuedOrHeld := by
  refine ⟨fun s req st content engine => ?_, fun s frame engine serving holding held owed => ?_, fun s o ticket a => ?_⟩
  · intro frame
    refine ⟨fun up room => ?_, fun full => offerReply_held frame engine full⟩
    have offered : s.reply req st content engine = s.offerReply frame engine := rfl
    rw [offered, offerReply_queued frame engine up room]
    exact ⟨rfl, fun p hp => setPort_port_other s _ hp, setPort_port_same s _ _⟩
  · refine ⟨_, mgmtReplyOffer_offers serving.1 holding held owed, State.offerReply_frame s.atReplyOffer frame engine, ?_⟩
    by_cases room : (s.port .tp).tx.length < 48
    · rw [if_pos room, offerReply_queued (s := s.atReplyOffer) frame engine serving.linkUp_trunk room]
      exact ⟨fun p hp => setPort_port_other _ _ hp, setPort_port_same .., rfl, rfl⟩
    · rw [if_neg room, offerReply_held (s := s.atReplyOffer) frame engine (.inr (Nat.le_of_not_lt room))]
      refine ⟨fun _ _ => rfl, rfl, ?_, rfl⟩
      simp only [State.atReplyOffer, holding, held]
  · intro p frame
    rw [sendAnswer_eq, answerPayload_eq]
    rfl

end Sys2Proof.Machine
end

section
/-! The chains of the classifier's rules: where each begins and ends, and which one decides a scan. -/

namespace Sys2Proof.Machine

/-! ## Whether a chain matches (R96, R97) -/

/-- A rule's test as R96 states it, of the masked value it selects. -/
def Rule.TestsTrue (r : Rule) (selected : Nat) : Prop :=
  match r.operator with
  | .eq => selected &&& r.mask = r.value
  | .ne => selected &&& r.mask ≠ r.value
  | .gt => r.value < selected &&& r.mask
  | .lt => selected &&& r.mask < r.value

theorem Rule.tests_iff {r : Rule} {c : Scan} : r.tests c = true ↔ r.TestsTrue (c.selected r.selector) := by
  unfold Rule.tests Operator.holds Rule.TestsTrue
  cases r.operator <;> simp

theorem chainMatches_iff {chain : List (Nat × Rule)} {c : Scan} : chainMatches chain c = true ↔
    (∃ r ∈ chain, r.2.enable = true) ∧ ∀ r ∈ chain, r.2.enable = true → r.2.TestsTrue (c.selected r.2.selector) := by
  simp [chainMatches, Rule.tests_iff, ← Bool.not_eq_true, or_iff_not_imp_left]

/-! ## Chains as a splitting of the rules (R97) -/

/-- A rule whose flag is ON is joined with the chain that follows it. -/
theorem splitBy_joined {r : Nat × Rule} (on : r.2.chain = true) {rest chain : List (Nat × Rule)} {later : List (List (Nat × Rule))}
    (h : rest.splitBy (fun r _ => r.2.chain) = chain :: later) :
    (r :: rest).splitBy (fun r _ => r.2.chain) = (r :: chain) :: later := by
  obtain ⟨whole, filled, joined, cut⟩ := List.splitBy_eq_iff.1 h
  rw [List.isChain_cons] at cut
  refine List.splitBy_eq_iff.2 ⟨by simp [whole], by simpa using mt (List.mem_cons_of_mem chain) filled, fun x hx => ?_, List.isChain_cons.2 ⟨fun y hy => ?_, cut.2⟩⟩
  · rcases List.mem_cons.1 hx with rfl | hx
    · exact List.isChain_cons.2 ⟨fun _ _ => on, joined chain List.mem_cons_self⟩
    · exact joined x (List.mem_cons_of_mem _ hx)
  · obtain ⟨hc, hy, off⟩ := cut.1 y hy
    exact ⟨List.cons_ne_nil r chain, hy, by rwa [List.getLast_cons hc]⟩

theorem chains_eq_splitBy (rules : List (Nat × Rule)) : chains rules = rules.splitBy fun r _ => r.2.chain := by
  induction rules with
  | nil => rfl
  | cons r rest ih =>
    rw [chains, ih]
    cases on : r.2.chain with
    | false => exact (List.splitBy_append (l := [r]) (m := rest) (by simp [on])).symm
    | true =>
      cases h : rest.splitBy fun r _ => r.2.chain with
      | nil => rw [List.splitBy_eq_nil.1 h]; rfl
      | cons chain later => exact (splitBy_joined on h).symm

/-- The rules with their indexes. -/
def State.ruleList (s : State) : List (Nat × Rule) := (List.finRange 24).map fun j => (j.val, s.rules.get j)

theorem zipIdx_rules (s : State) : (s.rules.toList.zipIdx.map fun r => (r.2, r.1)) = s.ruleList := by
  refine List.ext_getElem (by simp [State.ruleList]) fun i h _ => ?_
  simp [State.ruleList, get_eq_getElem]

theorem decidingChain_eq (s : State) (c : Scan) : s.decidingChain c = (chains s.ruleList).find? fun chain => chainMatches chain c := by
  rw [State.decidingChain, zipIdx_rules]

/-- Rules `a` to `b` are a chain: no rule is joined with `a`, each is joined with the next up to `b`, and `b` ends it, rule 23's flag
being read as OFF (R97). -/
def State.IsChain (s : State) (a b : Fin 24) : Prop :=
  a ≤ b ∧ (∀ j : Fin 24, j.val + 1 = a.val → (s.rules.get j).chain = false) ∧
    (∀ j : Fin 24, a ≤ j → j < b → (s.rules.get j).chain = true) ∧ (b.val = 23 ∨ (s.rules.get b).chain = false)

/-- A list holds rules `a` to `b` with their indexes, `a` first. -/
def State.Spans (s : State) (chain : List (Nat × Rule)) (a b : Fin 24) : Prop :=
  chain.head? = some (a.val, s.rules.get a) ∧ ∀ r, r ∈ chain ↔ ∃ j : Fin 24, a ≤ j ∧ j ≤ b ∧ (j.val, s.rules.get j) = r

/-- Where a chain stands in the rules: those before it end with a flag OFF, it is joined throughout, and it ends with a flag
OFF if rules follow. -/
theorem chain_split {rules chain : List (Nat × Rule)} (h : chain ∈ chains rules) : ∃ before after,
    rules = before ++ (chain ++ after) ∧ chain ≠ [] ∧ (∀ r ∈ before.getLast?, r.2.chain = false) ∧
      (chain.IsChain fun r _ => r.2.chain = true) ∧ (after ≠ [] → ∀ r ∈ chain.getLast?, r.2.chain = false) := by
  rw [chains_eq_splitBy] at h
  obtain ⟨earlier, later, split⟩ := List.append_of_mem h
  obtain ⟨whole, -, joined, cut⟩ := List.splitBy_eq_iff.1 split
  rw [List.isChain_append, List.isChain_cons] at cut
  obtain ⟨-, ⟨next, -⟩, previous⟩ := cut
  refine ⟨earlier.flatten, later.flatten, by simp [whole], List.ne_nil_of_mem_splitBy h, fun r hr => ?_, joined chain (by simp), ?_⟩
  · rcases List.eq_nil_or_concat earlier with rfl | ⟨init, x, rfl⟩
    · cases hr
    · obtain ⟨hx, -, off⟩ := previous x (by simp) chain rfl
      have last : (init.concat x).flatten.getLast? = some (x.getLast hx) := by
        simp [List.getLast?_append, List.getLast?_eq_some_getLast hx]
      rw [last] at hr
      cases hr
      exact off
  · intro more r hr
    cases later with
    | nil => exact absurd rfl more
    | cons y ys =>
      obtain ⟨hc, -, off⟩ := next y rfl
      rw [List.getLast?_eq_some_getLast hc] at hr
      cases hr
      exact off

theorem ruleList_getElem? (s : State) (j : Fin 24) : s.ruleList[j.val]? = some (j.val, s.rules.get j) := by
  simp [State.ruleList]

theorem chains_spans {s : State} {chain : List (Nat × Rule)} (h : chain ∈ chains s.ruleList) :
    ∃ a b, s.IsChain a b ∧ s.Spans chain a b := by
  obtain ⟨before, after, whole, filled, start, joined, stop⟩ := chain_split h
  have total : before.length + (chain.length + after.length) = 24 := by
    simpa [State.ruleList, eq_comm] using congrArg List.length whole
  have length : 0 < chain.length := List.length_pos_iff.2 filled
  have entry (j : Fin 24) : (before ++ (chain ++ after))[j.val]? = some (j.val, s.rules.get j) := whole ▸ ruleList_getElem? s j
  obtain ⟨a, ha⟩ : ∃ a : Fin 24, a.val = before.length := ⟨⟨_, by omega⟩, rfl⟩
  obtain ⟨b, hb⟩ : ∃ b : Fin 24, b.val + 1 = a.val + chain.length := ⟨⟨a.val + chain.length - 1, by omega⟩, by simp only; omega⟩
  have inside (j : Fin 24) (low : a ≤ j) (high : j ≤ b) : chain[j.val - a.val]? = some (j.val, s.rules.get j) := by
    rw [← entry j, List.getElem?_append_right (by omega), List.getElem?_append_left (by omega), ha]
  have ordered : a ≤ b := by omega
  have first : chain.head? = some (a.val, s.rules.get a) := by
    simpa [List.head?_eq_getElem?] using inside a le_rfl ordered
  have last : chain.getLast? = some (b.val, s.rules.get b) := by
    rw [List.getLast?_eq_getElem?, ← inside b ordered le_rfl, Nat.eq_sub_of_add_eq hb, Nat.sub_right_comm, Nat.add_sub_cancel_left]
  refine ⟨a, b, ⟨ordered, fun j next => ?_, fun j low high => ?_, ?_⟩, first, fun r => ⟨fun hr => ?_, ?_⟩⟩
  · refine start (j.val, s.rules.get j) ?_
    rw [List.getLast?_eq_getElem?, ← ha, ← next, Nat.add_sub_cancel, Option.mem_def, ← entry j, List.getElem?_append_left (by omega)]
  · obtain ⟨within, at_j⟩ := List.getElem?_eq_some_iff.1 (inside j low high.le)
    have flag := List.isChain_iff_getElem.1 joined (j.val - a.val) (by omega)
    rwa [at_j] at flag
  · rcases eq_or_ne after [] with rfl | more
    · exact .inl (by rw [List.length_nil] at total; omega)
    · exact .inr (stop more _ last)
  · obtain ⟨i, hi, rfl⟩ := List.getElem_of_mem hr
    have located := inside ⟨a.val + i, by omega⟩ (Fin.le_def.2 (by simp)) (Fin.le_def.2 (by simp only; omega))
    rw [Nat.add_sub_cancel_left, List.getElem?_eq_getElem hi, Option.some_inj] at located
    exact ⟨_, Fin.le_def.2 (by simp), Fin.le_def.2 (by simp only; omega), located.symm⟩
  · rintro ⟨j, low, high, rfl⟩
    exact List.mem_of_getElem? (inside j low high)

/-! ## The chain that decides a scan (R98) -/

section
variable {s : State} {c : Scan} {chain : List (Nat × Rule)} {a b a' b' : Fin 24}

/-- A chain that reaches the first rule of another does not begin before it. -/
theorem State.IsChain.start_le (h : s.IsChain a b) (h' : s.IsChain a' b') (reaches : a ≤ b') : a ≤ a' := by
  by_contra before
  have off := h.2.1 ⟨a.val - 1, by omega⟩ (by simp only; omega)
  rw [h'.2.2.1 _ (Fin.le_def.2 (by simp only; omega)) (Fin.lt_def.2 (by simp only; omega))] at off
  cases off

/-- A chain that reaches the last rule of another ends with it. -/
theorem State.IsChain.end_le (h : s.IsChain a b) (h' : s.IsChain a' b') (reaches : a' ≤ b) : b' ≤ b := by
  by_contra beyond
  rcases h.2.2.2 with last | off
  · omega
  · rw [h'.2.2.1 b reaches (lt_of_not_ge beyond)] at off
    cases off

/-- Chains that share a rule are one chain. -/
theorem State.IsChain.unique (h : s.IsChain a b) (h' : s.IsChain a' b') {j : Fin 24} (ha : a ≤ j) (hb : j ≤ b) (ha' : a' ≤ j)
    (hb' : j ≤ b') : a = a' ∧ b = b' :=
  ⟨le_antisymm (h.start_le h' (ha.trans hb')) (h'.start_le h (ha'.trans hb)),
    le_antisymm (h'.end_le h (ha.trans hb')) (h.end_le h' (ha'.trans hb))⟩

/-- The chain of rules `a` to `b` matches a scan (R97). -/
def State.Matched (s : State) (c : Scan) (a b : Fin 24) : Prop :=
  s.IsChain a b ∧ (∃ j : Fin 24, a ≤ j ∧ j ≤ b ∧ (s.rules.get j).enable = true) ∧
    ∀ j : Fin 24, a ≤ j → j ≤ b → (s.rules.get j).enable = true →
      (s.rules.get j).TestsTrue (c.selected (s.rules.get j).selector)

theorem State.IsChain.matched_iff (joined : s.IsChain a b) (spans : s.Spans chain a b) :
    chainMatches chain c = true ↔ s.Matched c a b := by
  obtain ⟨-, members⟩ := spans
  simp only [chainMatches_iff, members, State.Matched, joined, true_and]
  constructor
  · rintro ⟨⟨_, ⟨j, low, high, rfl⟩, on⟩, all⟩
    exact ⟨⟨j, low, high, on⟩, fun i li hi => all _ ⟨i, li, hi, rfl⟩⟩
  · rintro ⟨⟨j, low, high, on⟩, all⟩
    refine ⟨⟨_, ⟨j, low, high, rfl⟩, on⟩, ?_⟩
    rintro _ ⟨i, li, hi, rfl⟩
    exact all i li hi

theorem flatten_chains (rules : List (Nat × Rule)) : (chains rules).flatten = rules := by
  rw [chains_eq_splitBy, List.flatten_splitBy]

/-- Every run of rules that is a chain stands in the list of chains. -/
theorem State.IsChain.mem_chains (h : s.IsChain a b) : ∃ chain ∈ chains s.ruleList, s.Spans chain a b := by
  have listed : (a.val, s.rules.get a) ∈ (chains s.ruleList).flatten := by
    rw [flatten_chains]
    exact List.mem_of_getElem? (ruleList_getElem? s a)
  obtain ⟨chain, mem, holds⟩ := List.mem_flatten.1 listed
  obtain ⟨a', b', joined, spans⟩ := chains_spans mem
  obtain ⟨j, low, high, same⟩ := (spans.2 _).1 holds
  obtain rfl : j = a := Fin.ext (congrArg Prod.fst same)
  obtain ⟨rfl, rfl⟩ := h.unique joined le_rfl h.1 low high
  exact ⟨chain, mem, spans⟩

theorem chains_ordered (s : State) : (chains s.ruleList).Pairwise fun x y => ∀ p ∈ x, ∀ q ∈ y, p.1 < q.1 := by
  refine (List.pairwise_flatten.1 ?_).2
  rw [flatten_chains, State.ruleList, List.pairwise_map]
  exact List.pairwise_lt_finRange 24

/-- The first run of rules that matches decides the scan. -/
theorem decidingChain_first (matched : s.Matched c a b) (first : ∀ a' b' : Fin 24, a' < a → ¬ s.Matched c a' b') :
    ∃ chain, s.decidingChain c = some chain ∧ s.Spans chain a b := by
  obtain ⟨chain, mem, spans⟩ := matched.1.mem_chains
  have matching := (matched.1.matched_iff spans).2 matched
  rw [decidingChain_eq]
  refine ⟨chain, List.find?_eq_some_iff_append.2 ⟨matching, ?_⟩, spans⟩
  obtain ⟨before, after, split⟩ := List.append_of_mem mem
  refine ⟨before, after, split, fun earlier he => ?_⟩
  have ordered := chains_ordered s
  rw [split, List.pairwise_append] at ordered
  obtain ⟨a', b', joined, espans⟩ := chains_spans (s := s) (split ▸ List.mem_append_left _ he)
  have lower : a' < a :=
    ordered.2.2 earlier he chain List.mem_cons_self _ (List.mem_of_mem_head? espans.1) _ (List.mem_of_mem_head? spans.1)
  simpa using mt (joined.matched_iff espans).1 (first a' b' lower)

theorem decidingChain_none (h : ∀ a b : Fin 24, ¬ s.Matched c a b) : s.decidingChain c = none := by
  rw [decidingChain_eq, List.find?_eq_none]
  intro chain mem matching
  obtain ⟨a, b, joined, spans⟩ := chains_spans mem
  exact h a b ((joined.matched_iff spans).1 matching)

end

end Sys2Proof.Machine
end

section
/-! The Scan Classifier: what a scan's frame, the rules and the tables decide, and what each action leaves. -/

namespace Sys2Proof.Machine

/-! ## Counting and deciding (R98, R99) -/

section
variable {s : State} {c : Scan} {chain : List (Nat × Rule)}

theorem countHits_get (j : Fin 24) : (s.countHits chain).rules.get j =
    if ∃ r ∈ chain, r.1 = j.val then { s.rules.get j with hits := min 65535 ((s.rules.get j).hits + 1) } else s.rules.get j := by
  rw [State.countHits, get_tabulate]
  exact if_congr (by simp) rfl rfl

theorem State.Spans.holds_iff {a b : Fin 24} (spans : s.Spans chain a b) (j : Fin 24) :
    (∃ r ∈ chain, r.1 = j.val) ↔ a ≤ j ∧ j ≤ b := by
  constructor
  · rintro ⟨r, mem, index⟩
    obtain ⟨i, low, high, rfl⟩ := (spans.2 r).1 mem
    obtain rfl : i = j := Fin.ext index
    exact ⟨low, high⟩
  · rintro ⟨low, high⟩
    exact ⟨_, (spans.2 _).2 ⟨j, low, high, rfl⟩, rfl⟩

theorem countHits_spans {a b : Fin 24} (spans : s.Spans chain a b) : s.countHits chain = { s with
    rules := tabulate fun j => if a ≤ j ∧ j ≤ b then
      { s.rules.get j with hits := min 65535 ((s.rules.get j).hits + 1) } else s.rules.get j } := by
  refine congrArg (fun rules => { s with rules := rules }) (table_ext (v := (s.countHits chain).rules) fun j => ?_)
  rw [countHits_get, get_tabulate]
  exact if_congr (spans.holds_iff j) rfl rfl

theorem decideScan_chain (h : s.decidingChain c = some chain) : s.decideScan c =
    (s.countHits chain, (chain.head?.map fun r => r.2.action).getD .passThrough, chain.head?.bind fun r => r.2.override) := by
  rw [State.decideScan, h]

theorem decideScan_spans {a b : Fin 24} (h : s.decidingChain c = some chain) (spans : s.Spans chain a b) : s.decideScan c =
    (s.countHits chain, (s.rules.get a).action, (s.rules.get a).override) := by
  rw [decideScan_chain h, spans.1]; rfl

/-- The default taken and counted (R99). -/
def State.tookDefault (s : State) : State := s.count fun k => { k with defaultTaken := inc k.defaultTaken }

theorem decideScan_default (h : s.decidingChain c = none) :
    s.decideScan c = (s.tookDefault, defaultActionOf s.park.defaultAction c, none) := by
  rw [State.decideScan, h]; rfl

theorem not_matched_of_disabled (off : ∀ j : Fin 24, (s.rules.get j).enable = false) (a b : Fin 24) : ¬ s.Matched c a b := by
  rintro ⟨-, ⟨j, -, -, on⟩, -⟩
  rw [off j] at on
  cases on

end

theorem hintAction_eq (n : Nat) : hintAction n = if n = 1 then .countEntry else if n = 2 then .countBoarding
    else if n = 3 then .passRequest else if n = 4 then .passReturn else if n = 5 then .rideStatus else .passThrough := by
  unfold hintAction
  split <;> simp_all

theorem defaultActionOf_eq (d : DefaultAction) (c : Scan) : defaultActionOf d c = match d with
    | .passThrough => .passThrough
    | .discard => .discard
    | .byHint => if c.roleHint = 1 then .countEntry else if c.roleHint = 2 then .countBoarding else if c.roleHint = 3 then .passRequest
        else if c.roleHint = 4 then .passReturn else if c.roleHint = 5 then .rideStatus else .passThrough := by
  cases d with
  | passThrough | discard => rfl
  | byHint => exact hintAction_eq _

/-! ## The lane of a lane action (R100) -/

section
variable {s : State} {c : Scan} {override : Option (Fin 64)} {i : Fin 64}

/-- The lane that an action finds: the override in use, or the lane of the scan's ride (R100). -/
def State.Maps (s : State) (ride : Nat) (override : Option (Fin 64)) (i : Fin 64) : Prop :=
  (override = some i ∧ (s.lane i).config.ride ≠ 0) ∨
    (override = none ∧ (s.lane i).config.ride = ride ∧ ∀ j : Fin 64, (s.lane j).config.ride = ride → j = i)

/-- An action finds no lane: the override is not in use, or no lane has the scan's ride (R100). -/
def State.Unmapped (s : State) (ride : Nat) (override : Option (Fin 64)) : Prop :=
  (∃ i : Fin 64, override = some i ∧ (s.lane i).config.ride = 0) ∨ (override = none ∧ ∀ j : Fin 64, (s.lane j).config.ride ≠ ride)

theorem State.Maps.of_lanes {t : State} {ride : Nat} (h : s.Maps ride override i) (same : t.lanes = s.lanes) : t.Maps ride override i := by
  unfold State.Maps State.lane at *
  rwa [same]

theorem State.Unmapped.of_lanes {t : State} {ride : Nat} (h : s.Unmapped ride override) (same : t.lanes = s.lanes) :
    t.Unmapped ride override := by
  unfold State.Unmapped State.lane at *
  rwa [same]

theorem laneOfRide_only {ride : Nat} (named : ride ≠ 0) (serves : (s.lane i).config.ride = ride)
    (only : ∀ j : Fin 64, (s.lane j).config.ride = ride → j = i) : s.laneOfRide ride = some i := by
  rw [State.laneOfRide, if_neg named, ← Fin.find?_eq_find?_finRange, Fin.find?_eq_some_iff]
  exact ⟨beq_iff_eq.2 serves, fun j lower => beq_eq_false_iff_ne.2 fun same => lower.ne (only j same)⟩

theorem laneOfRide_none {ride : Nat} (named : ride ≠ 0) (unserved : ∀ j : Fin 64, (s.lane j).config.ride ≠ ride) :
    s.laneOfRide ride = none := by
  rw [State.laneOfRide, if_neg named, ← Fin.find?_eq_find?_finRange, Fin.find?_eq_none_iff]
  exact fun j => beq_eq_false_iff_ne.2 (unserved j)

theorem handToLane_mapped (named : c.ride ≠ 0) (h : s.Maps c.ride override i) (action : Fin 64 → ScanAction) :
    s.handToLane c override action = { s with handed := s.handed ++ [action i] } := by
  have selected : s.selectLane c override = some i := by
    rcases h with ⟨rfl, used⟩ | ⟨rfl, serves, only⟩
    · exact if_pos (Lane.inUse_eq_true.2 used)
    · exact laneOfRide_only named serves only
  rw [State.handToLane, selected]
  rfl

theorem handToLane_unmapped (named : c.ride ≠ 0) (h : s.Unmapped c.ride override) (action : Fin 64 → ScanAction) :
    s.handToLane c override action =
      { s with counters := { s.counters with unmapped := min 65535 (s.counters.unmapped + 1) } } := by
  have selected : s.selectLane c override = none := by
    rcases h with ⟨i, rfl, unused⟩ | ⟨rfl, unserved⟩
    · exact if_neg (by simp [Lane.inUse_eq_false.2 unused])
    · exact laneOfRide_none named unserved
  rw [State.handToLane, selected]
  rfl

end

/-! ## A frame routed by the windows (R116, R117, R118) -/

section
variable {s : State} {k z : Fin 6} {bytes : List Byte}

theorem routeSegment_first {destination : Nat} (other : z ≠ k) (counts : (s.segment z).counts destination = true)
    (lower : ∀ j : Fin 6, j < z → j ≠ k → (s.segment j).counts destination = false) :
    s.routeSegment (.sp k) destination = some z := by
  rw [State.routeSegment, ← Fin.find?_eq_find?_finRange, Fin.find?_eq_some_iff]
  refine ⟨by simp [other, counts], fun j hj => ?_⟩
  by_cases arrival : j = k
  · simp [arrival]
  · simp [lower j hj arrival]

theorem routeSegment_none {destination : Nat} (none : ∀ z : Fin 6, z ≠ k → (s.segment z).counts destination = false) :
    s.routeSegment (.sp k) destination = .none := by
  rw [State.routeSegment, ← Fin.find?_eq_find?_finRange, Fin.find?_eq_none_iff]
  intro j
  by_cases arrival : j = k
  · simp [arrival]
  · simp [none j arrival]

/-- A frame that is no broadcast goes to the first segment found. -/
theorem routeByWindow_segment (single : frameDestination bytes ≠ Config.broadcast)
    (found : s.routeSegment (.sp k) (frameDestination bytes) = some z) : s.routeByWindow (.sp k) bytes = s.forward (.sp z) bytes := by
  rw [State.routeByWindow, if_neg single, found]

/-- A frame that is no broadcast and finds no other segment is dropped where its own segment holds it, and goes to TP else. -/
theorem routeByWindow_trunk (single : frameDestination bytes ≠ Config.broadcast)
    (missed : s.routeSegment (.sp k) (frameDestination bytes) = none) : s.routeByWindow (.sp k) bytes =
      if (s.segment k).counts (frameDestination bytes) = true then s.count fun c => { c with hairpin := inc c.hairpin }
      else s.forward .tp bytes := by
  rw [State.routeByWindow, if_neg single, missed]

theorem routeByWindow_rules (s : State) (arrival : Port) (bytes : List Byte) : (s.routeByWindow arrival bytes).rules = s.rules := by
  unfold State.routeByWindow
  dsimp only
  split
  · exact List.foldlRecOn (motive := fun u : State => u.rules = s.rules) _ _ rfl fun u hu p _ => (forward_rules ..).trans hu
  · repeat' split
    · exact forward_rules ..
    · rfl
    · exact forward_rules ..
    · rfl

end

/-! ## A scan acted on (R100 to R104) -/

/-- What becomes of a scan of origin `o` once its action is decided. -/
def State.actOn (s : State) (c : Scan) (o : ScanOrigin) (bytes : List Byte) (action : Action) (override : Option (Fin 64)) : State :=
  match action with
  | .countEntry => s.handToLane c override fun i => .countEntry i c.count
  | .countBoarding => s.handToLane c override fun i => .countBoarding i c.count c.count2
  | .passRequest => s.handToLane c override fun i => .passRequest o i c.ticket c.party
  | .passReturn => s.handToLane c override fun i => .passReturn o i c.ticket c.stamp c.receipt
  | .rideStatus => s.handToLane c override fun i => .rideStatus i c.status
  | .passThrough => s.routeByWindow (.sp o.segment) bytes
  | .discard => s.count fun k => { k with discarded := inc k.discarded }
  | .refuseClass => (s.count fun k => { k with classRefused := inc k.classRefused }).sendAnswer o c.ticket (.bare .classRefused)

theorem actOn_rules (s : State) (c : Scan) (o : ScanOrigin) (bytes : List Byte) (action : Action) (override : Option (Fin 64)) :
    (s.actOn c o bytes action override).rules = s.rules := by
  have toLane (g : Fin 64 → ScanAction) : (s.handToLane c override g).rules = s.rules := by
    unfold State.handToLane
    split <;> rfl
  cases action with
  | passThrough => exact routeByWindow_rules ..
  | discard => rfl
  | refuseClass => exact sendAnswer_rules ..
  | countEntry | countBoarding | passRequest | passReturn | rideStatus => exact toLane _

/-- Where a scan came from, as its frame says. -/
def frameOrigin (k : Fin 6) (f : RxFrame) : ScanOrigin := ⟨k, frameSource f.bytes, frameDestination f.bytes⟩

theorem classify_wellFormed {s t : State} {k : Fin 6} {f : RxFrame} {action : Action} {override : Option (Fin 64)}
    (size : frameLength f.bytes = 16) (same : fieldAt (framePayload f.bytes) 4 1 = frameDestination f.bytes)
    (decides : s.decideScan (scanOf k f) = (t, action, override)) :
    s.classify k f = t.actOn (scanOf k f) (frameOrigin k f) f.bytes action override := by
  have origin : (scanOf k f).origin = frameOrigin k f := by rw [frameOrigin, ← same]; rfl
  rw [State.classify, if_neg (by simp [scanMalformed, size, same]), ← origin]
  dsimp only
  rw [decides]
  rfl

theorem classify_malformed {s : State} {k : Fin 6} {f : RxFrame}
    (h : ¬ (frameLength f.bytes = 16 ∧ fieldAt (framePayload f.bytes) 4 1 = frameDestination f.bytes)) :
    s.classify k f = s.count fun c => { c with malformedScan := inc c.malformedScan } :=
  if_pos (by simpa [scanMalformed, imp_iff_not_or] using h)

/-! ## ROUTE_FRAME for a scan (R93, R115, R116) -/

/-- A SCAN for a ride that a segment port has received is the classifier's (R116 row 7). -/
theorem routeRows_scan {s : State} {k : Fin 6} {f : RxFrame} (node : 256 ≤ s.park.nodeAddress) (scan : frameKind f.bytes = 0x10)
    (low : 1 ≤ frameDestination f.bytes) (high : frameDestination f.bytes ≤ 250) : s.routeRows (.sp k) f = s.classify k f := by
  have notReset : frameKind f.bytes ≠ kindLinkReset := by rw [scan]; decide
  rw [State.routeRows, if_neg notReset, if_neg (by omega), if_neg (by omega)]
  exact if_pos ⟨scan, low, high⟩

/-- The state in which a frame of port `p` is routed: it has left the receive queue. -/
def State.atRoute (s : State) (p : Port) (rest : List RxFrame) : State := s.setPort p { s.port p with rx := rest }

section
variable {s t : State} {k : Fin 6} {f : RxFrame} {rest : List RxFrame}
variable (released : s.resetHeld = false) (head : (s.port (.sp k)).rx = f :: rest) (node : 256 ≤ s.park.nodeAddress)
  (scan : frameKind f.bytes = 0x10) (low : 1 ≤ frameDestination f.bytes) (high : frameDestination f.bytes ≤ 250)
include released head node scan low high

theorem routeFrame_scan : exec (.routeFrame (.sp k)) s = .next ((s.atRoute (.sp k) rest).classify k f) := by
  have command : exec (.routeFrame (.sp k)) s = execRouteFrame (.sp k) s := rfl
  have ready : s.headWaits (.sp k) f = false := by simp [State.headWaits]
  have routed : (s.atRoute (.sp k) rest).routeRows (.sp k) f = _ := routeRows_scan node scan low high
  rw [command, execRouteFrame, whileReleased_released released, ← routed, State.routeHead, head]
  exact congrArg Host.Outcome.next (if_neg (by simp [ready]))

theorem routeFrame_decided (size : frameLength f.bytes = 16)
    (same : fieldAt (framePayload f.bytes) 4 1 = frameDestination f.bytes) {action : Action} {override : Option (Fin 64)}
    (decides : (s.atRoute (.sp k) rest).decideScan (scanOf k f) = (t, action, override)) : exec (.routeFrame (.sp k)) s =
      .next (t.actOn (scanOf k f) (frameOrigin k f) f.bytes action override) := by
  rw [routeFrame_scan released head node scan low high, classify_wellFormed size same decides]

end

/-- Settles O56: a chain matches by its enabled rules, and the hits of the first that matches grow. -/
theorem chainMatchesByItsEnabledRules : Obligations.ChainMatchesByItsEnabledRules := by
  refine ⟨fun chain c => chainMatches_iff, ?_⟩
  intro s k f rest before after chain released head node scan size same low high split passed matching
  have deciding : (s.atRoute (.sp k) rest).decidingChain (scanOf k f) = some chain :=
    (decidingChain_eq ..).trans
      (List.find?_eq_some_iff_append.2 ⟨matching, before, after, split, fun x hx => by rw [passed x hx]; rfl⟩)
  refine ⟨_, routeFrame_decided released head node scan low high size same.symm (decideScan_chain deciding), fun j => ?_⟩
  rw [actOn_rules]
  exact countHits_get j

/-- Settles O55: the first chain that matches a scan, or else the default action, decides it, and each action leaves what it should. -/
theorem scanIsHandedOnByHint : Obligations.ScanIsHandedOnByHint := by
  refine ⟨?_, ?_⟩
  · intro s k f rest i released head disabled byHint node scan size p c ride same low high serves only handed
    let u := s.atRoute (.sp k) rest
    let o : ScanOrigin := ⟨k, frameSource f.bytes, ride⟩
    have origin : frameOrigin k f = o := by rw [frameOrigin, same]
    have decides := decideScan_default (decidingChain_none (not_matched_of_disabled (s := u) (c := c) disabled))
    have given {n : Nat} {g : Fin 64 → ScanAction} (hint : c.roleHint = n)
        (toLane : u.tookDefault.actOn c o f.bytes (hintAction n) none = u.tookDefault.handToLane c none g) : handed (g i) := by
      have default : defaultActionOf u.park.defaultAction c = hintAction n :=
        hint ▸ congrArg (fun d => defaultActionOf d c) byHint
      have ended := routeFrame_decided released head node scan (same ▸ low) (same ▸ high) size same.symm decides
      have named : c.ride ≠ 0 := Nat.ne_of_gt low
      have maps : u.tookDefault.Maps c.ride none i := .inr ⟨rfl, serves, only⟩
      rw [default, origin, toLane, handToLane_mapped named maps] at ended
      exact ended
    exact ⟨fun hint => given hint rfl, fun hint => given hint rfl, fun hint => given hint rfl, fun hint => given hint rfl,
      fun hint => given hint rfl⟩
  · intro s k f rest released head node scan low high u p ride wellFormed selected tests chain matched ends decided
    refine ⟨fun ill => ?_, fun ⟨size, same⟩ => ?_⟩
    · exact (routeFrame_scan released head node scan low high).trans (congrArg _ (classify_malformed ill))
    let c := scanOf k f
    have scanned : c.ride = ride := same
    have settled {v : State} {action : Action} {override : Option (Fin 64)} (decides : u.decideScan c = (v, action, override))
        (lanes : v.lanes = s.lanes) (segments : v.segments = s.segments) (nothing : v.handed = s.handed) :
        decided v action override := by
      have ended : ends (v.actOn c (frameOrigin k f) f.bytes action override) :=
        routeFrame_decided released head node scan low high size same decides
      have toLane (g : Fin 64 → ScanAction) (handed : ends (v.handToLane c override g)) :
          (∀ i, s.Maps ride override i → ends { v with handed := s.handed ++ [g i] }) ∧
          (s.Unmapped ride override →
            ends { v with counters := { v.counters with unmapped := min 65535 (v.counters.unmapped + 1) } }) := by
        have named : c.ride ≠ 0 := scanned ▸ Nat.ne_of_gt low
        rw [← nothing]
        exact ⟨fun i maps => handToLane_mapped named (scanned ▸ maps.of_lanes lanes) g ▸ handed,
          fun unmapped => handToLane_unmapped named (scanned ▸ unmapped.of_lanes lanes) g ▸ handed⟩
      cases action with
      | countEntry | countBoarding | passRequest | passReturn | rideStatus => exact toLane _ ended
      | discard | refuseClass => exact ended
      | passThrough =>
        have single : frameDestination f.bytes ≠ Config.broadcast := Nat.ne_of_lt (Nat.lt_of_le_of_lt high (by decide))
        have segment (z : Fin 6) : v.segment z = s.segment z := congrArg (·.get z) segments
        refine ⟨fun z other counts lower => ?_, fun missed => ?_⟩
        · have found := routeSegment_first (s := v) other (segment z ▸ counts) fun j hj arrival => segment j ▸ lower j hj arrival
          exact routeByWindow_segment single found ▸ ended
        · have found := routeSegment_none (s := v) fun z other => segment z ▸ missed z other
          rw [← segment k]
          exact routeByWindow_trunk single found ▸ ended
    have fields : c.selected = selected := funext fun x => by cases x with
      | ride => exact scanned
      | source | port | ticketClass | party | roleHint => rfl
    have matched_iff (a b : Fin 24) : matched a b ↔ u.Matched c a b := by
      rw [State.Matched, fields]
      exact Iff.rfl
    refine ⟨fun a b run first => ?_, fun none => ?_⟩
    · obtain ⟨found, deciding, spans⟩ := decidingChain_first ((matched_iff a b).1 run)
        fun a' b' lower earlier => first a' b' lower ((matched_iff a' b').2 earlier)
      have decides := decideScan_spans deciding spans
      rw [countHits_spans spans] at decides
      exact settled decides rfl rfl rfl
    · have decides := decideScan_default (decidingChain_none fun a b run => none a b ((matched_iff a b).2 run))
      rw [defaultActionOf_eq] at decides
      exact settled decides rfl rfl rfl

end Sys2Proof.Machine
end

section
/-! FRAME_RECEIVE, TRANSMIT_START and TRANSMIT_COMPLETE: what each leaves of its port, and the notices that follow. -/

namespace Sys2Proof.Machine

/-! ## A frame received (R114, R115) -/

theorem lengthFails_iff {bytes : List Byte} : lengthFails bytes = true ↔
    bytes.length < 9 ∨ 96 < frameLength bytes ∨ bytes.length ≠ 9 + frameLength bytes := by
  simp only [lengthFails, Bool.or_eq_true, decide_eq_true_eq, bne_iff_ne, or_assoc]; rfl

theorem crcFails_iff {bytes : List Byte} : crcFails bytes = true ↔
    (crc16 (bytes.take (bytes.length - 2))).toNat ≠ fieldAt bytes (bytes.length - 2) 2 := bne_iff_ne

/-- An overrun counted and latched shows in the trunk's report alone, which is re-evaluated (R115, R162, R164). -/
theorem latchOverrun_reports (s : State) (p : Port) (f : PortCounters → PortCounters) :
    let u := s.countPort p f
    let t := u.latchOverrun p
    State.OnlyReports { u with attn := { s.attn with overruns := put s.attn.overruns (portIndex p) true } } t ∧
    (t.attnPort .tp).last = t.report .tp ∧ s.ReportsFollow t := by
  intro u t
  refine ⟨evaluate_onlyReports _ .tp, (evaluate_last ..).trans (evaluate_report ..).symm, ?_⟩
  have queues (d : Port) : (u.port d).tx = (s.port d).tx := by
    rw [countPort_port]
    split
    · next same => rw [same]
    · rfl
  refine evaluateEach_reportsFollow (ds := [.tp]) (fun _ => rfl) queues fun d hd => ?_
  cases d with
  | tp => exact absurd (List.mem_singleton.2 rfl) hd
  | sp z => rfl

section
variable {s : State} {p : Port} {bytes : List Byte}

theorem receive_held (down : s.linkUp p = false) : s.receive p bytes = s := if_pos (by simp [down])

variable (up : s.linkUp p = true)
include up

theorem receive_badSize (bad : lengthFails bytes = true) :
    s.receive p bytes = s.countPort p fun c => { c with lengthError := inc c.lengthError } := by
  rw [State.receive, if_neg (by simp [up]), if_pos bad]

variable (size : ¬ lengthFails bytes = true)
include size

theorem receive_badCrc (bad : crcFails bytes = true) :
    s.receive p bytes = s.countPort p fun c => { c with crcError := inc c.crcError } := by
  rw [State.receive, if_neg (by simp [up]), if_neg size, if_pos bad]

variable (crc : ¬ crcFails bytes = true)
include crc

theorem receive_queued (room : (s.port p).rx.length < 24) : s.receive p bytes = s.setPort p { s.port p with
    rx := (s.port p).rx ++ [⟨bytes, s.receiptSecond⟩]
    counters := { (s.port p).counters with received := inc (s.port p).counters.received } } := by
  rw [State.receive, if_neg (by simp [up]), if_neg size, if_neg crc]
  exact if_pos room

theorem receive_overrun (full : 24 ≤ (s.port p).rx.length) :
    s.receive p bytes = (s.countPort p fun c => { c with overrun := inc c.overrun }).latchOverrun p := by
  rw [State.receive, if_neg (by simp [up]), if_neg size, if_neg crc]
  exact if_neg (Nat.not_lt.2 full)

end

theorem receiptSecond_eq (s : State) : s.receiptSecond = if s.clock.day = .opened then s.clock.ops else 0 :=
  if_congr State.dayOpen_eq_true rfl rfl

/-- Settles O53: each check of R114 in its order, and the reports that follow a latched overrun. -/
theorem frameReceiveChecksAndQueues : Obligations.FrameReceiveChecksAndQueues := by
  intro s p bytes released q grown badSize badCrc
  have command : exec (.frameReceive p bytes) s = .next (s.receive p bytes) :=
    whileReleased_released released fun s => s.receive p bytes
  rw [command, ← receiptSecond_eq]
  refine ⟨fun down => ?_, fun up bad => ?_, fun up size bad => ?_, fun up size crc room => ?_, fun up size crc full => ?_⟩
  · rw [receive_held down]
  · rw [receive_badSize up (lengthFails_iff.2 bad)]; rfl
  · rw [receive_badCrc up (mt lengthFails_iff.1 size) (crcFails_iff.2 bad)]; rfl
  · rw [receive_queued up (mt lengthFails_iff.1 size) (mt crcFails_iff.1 crc) room]; rfl
  · refine ⟨_, rfl, ?_⟩
    rw [receive_overrun up (mt lengthFails_iff.1 size) (mt crcFails_iff.1 crc) full]
    exact latchOverrun_reports s p _

/-! ## Transmission (R121, R165, R182) -/

section
variable {s : State} {p : Port} {f : TxFrame} {rest : List TxFrame} (head : (s.port p).tx = f :: rest)
include head

theorem startSending_head (up : s.linkUp p = true) (still : (s.port p).sending = false) :
    s.startSending p = (s.setPort p { s.port p with sending := true }).startNotice p f := by
  rw [State.startSending, head]
  exact if_pos (by rw [up, still]; rfl)

/-- The state in which a completed transmission gives its notice: the frame has left and is counted. -/
def State.sent (s : State) (p : Port) (rest : List TxFrame) : State :=
  s.setPort p { s.port p with
    tx := rest, sending := false
    counters := { (s.port p).counters with transmitted := inc (s.port p).counters.transmitted } }

theorem finishSending_head (sending : (s.port p).sending = true) : s.finishSending p =
    if rest.length = 47 then ((s.sent p rest).replySent f).roomNotice p else (s.sent p rest).replySent f := by
  rw [State.finishSending, head]
  exact (if_pos sending).trans (if_congr Nat.succ_inj rfl rfl)

end

theorem put_again {α : Type} {n : Nat} (v : Vector α n) (i : Fin n) (a b : α) : put (put v i a) i b = put v i b := by simp [put]

/-- The completed RESET ENGINE reply is a cause of an ENGINE reset (R182). -/
theorem replySent_eq (s : State) (f : TxFrame) : s.replySent f = { s with
    engineResetDue := s.engineResetDue || (decide (f.producer = .engineReply) && decide (s.agent.mode = .resetting)) } := by
  unfold State.replySent
  split
  · next caused => simp [caused]
  · next uncaused => simp [← Bool.decide_and, uncaused]

/-- A room notice on an UP link: one more run of board offers, an offer of a PREPARED attention frame, and on TP an offer of the reply
held (R121, R138, R166, R176). -/
theorem roomNotice_up {s : State} {p : Port} (up : s.linkUp p = true) :
    let v := s.setPort p { s.port p with boardRuns := (s.port p).boardRuns + 1 }
    s.roomNotice p = { v with
      attn := { s.attn with ports := (v.oweOffer p).attn.ports }
      agent := { s.agent with offersDue := s.agent.offersDue + if p = .tp ∧ s.agent.mode = .holding then 1 else 0 } } := by
  intro v
  have owed : s.portNotice p = v.oweOffer p := by rw [State.portNotice, State.oweBoardRuns, if_pos up]
  rw [State.roomNotice, owed, State.oweOffer_frame]
  by_cases holds : p = .tp ∧ s.agent.mode = .holding
  · rw [if_pos holds]
    exact if_pos holds
  · rw [if_neg holds]
    exact if_neg holds

/-- Settles O57: a transmission started, and one completed with the notices that it gives. -/
theorem transmissionStartsAndCompletes : Obligations.TransmissionStartsAndCompletes := by
  refine ⟨fun s p f rest released up still head => ?_, fun s p f rest released up sending head => ?_⟩
  · intro u
    have command : exec (.transmitStart p) s = .next (s.startSending p) := whileReleased_released released (State.startSending · p)
    rw [command, startSending_head head up still]
    rfl
  · intro q due
    have command : exec (.transmitComplete p) s = .next (s.finishSending p) := whileReleased_released released (State.finishSending · p)
    rw [command, finishSending_head head sending]
    let u : State := { s with ports := put s.ports (portIndex p) q, engineResetDue := due }
    have replied : (s.sent p rest).replySent f = u := replySent_eq ..
    refine ⟨fun other => by rw [if_neg other, replied], fun room => ⟨u.roomNotice p, by rw [if_pos room, replied], ?_⟩⟩
    have upNow : u.linkUp p = true := (linkUp_congr rfl rfl rfl p).trans up
    have same : u.port p = q := get_put_same ..
    let v := u.setPort p { q with boardRuns := (s.port p).boardRuns + 1 }
    have noticed := roomNotice_up upNow
    rw [same] at noticed
    rw [noticed, ← put_again s.ports (portIndex p) q]
    refine ⟨rfl, fun d hd => (oweOffer_kept v p d).1 hd, ?_⟩
    show (v.oweOffer p).attnPort p = _
    cases h : (s.attnPort p).slot with
    | prepared f => rw [oweOffer_prepared (s := v) h, setAttnPort_attnPort_same]; rfl
    | empty | queued => rw [oweOffer_none (s := v) fun f e => nomatch h.symm.trans e]; rfl

end Sys2Proof.Machine
end

section
/-! Attention: the routes of lane kinds, the report of a destination, and a frame produced and offered. -/

namespace Sys2Proof.Machine

/-! ## Routes (R122, R162) -/

theorem homeSegment_eq_some {s : State} {i : Fin 64} {z : Fin 6} : s.homeSegment i = some z ↔
    (s.lane i).config.ride ≠ 0 ∧ (s.segment z).counts (s.lane i).config.ride = true ∧
      ∀ j : Fin 6, j < z → (s.segment j).counts (s.lane i).config.ride = false := by
  rw [State.homeSegment, ← Fin.find?_eq_find?_finRange, Option.ite_none_right_eq_some, Fin.find?_eq_some_iff, Lane.inUse_eq_true]

theorem laneRoute_zone {s : State} {k : AttnKind} {i : Fin 64} {z : Fin 6} : s.laneRoute k i = .sp z ↔
    s.homeSegment i = some z ∧ hasKind (s.segment z).delegation k = true := by
  unfold State.laneRoute
  cases h : s.homeSegment i with
  | none => simp
  | some y =>
    dsimp only
    split
    · next delegated =>
      simp only [Port.sp.injEq, Option.some.injEq]
      exact ⟨fun same => ⟨same, same ▸ delegated⟩, And.left⟩
    · next undelegated =>
      simp only [reduceCtorEq, Option.some.injEq, false_iff, not_and]
      rintro rfl
      exact undelegated

/-! ## Reports (R159, R160, R164, R197) -/

/-- The sources of a kind that are pending at a destination; none for a kind without a source list. -/
def State.sources (s : State) (d : Port) : AttnKind → List Nat
  | .laneDown => s.pendingLanes .laneDown d
  | .laneStale => s.pendingLanes .laneStale d
  | .countSkew => s.pendingLanes .countSkew d
  | .grantLow => s.pendingLanes .grantLow d
  | .portOverrun => 
    (([6, 0, 1, 2, 3, 4, 5] : List (Fin 7)).filter fun p => s.attn.overruns.get p && decide (d = .tp)).map Fin.val
  | _ => []

/-- Whether a kind is pending at a destination (R159, R160, R162). -/
def State.isPending (s : State) (d : Port) (k : AttnKind) : Bool :=
  match k, d with
  | .imageFault, .tp => s.attn.imageFault
  | .registerFull, .tp => s.attn.registerFull
  | .clockEnd, .tp => s.attn.clockEnd
  | .grantHeld, .tp => s.ring.headHeld
  | .zoneNotice, .sp z => (s.attn.notices.get z).isSome
  | _, _ => decide (s.sources d k ≠ [])

theorem pendingSources_eq (s : State) (d : Port) (k : AttnKind) :
    s.pendingSources d k = if s.isPending d k = true then some (s.sources d k) else none := by
  have listed (l : List Nat) : (if l.isEmpty = true then none else some l) = if decide (l ≠ []) = true then some l else none := by
    cases l <;> rfl
  cases k with
  | laneDown | laneStale | countSkew | grantLow => cases d <;> exact listed _
  | imageFault | registerFull | clockEnd | grantHeld | zoneNotice => cases d <;> rfl
  | portOverrun =>
    cases d with
    | sp z => simp [State.pendingSources, State.isPending, State.sources]
    | tp =>
      have ports : ((allPorts.filter fun p => s.attn.overruns.get (portIndex p)).map fun p => (portIndex p).val) =
          s.sources .tp .portOverrun := by
        have order : ([6, 0, 1, 2, 3, 4, 5] : List (Fin 7)) = allPorts.map portIndex := by decide
        rw [State.sources, order, List.filter_map, List.map_map]
        simp only [decide_true, Bool.and_true]
        rfl
      have pending : s.isPending .tp .portOverrun = decide (s.sources .tp .portOverrun ≠ []) := rfl
      rw [State.pendingSources, ports, pending]
      cases s.sources .tp .portOverrun <;> rfl

/-- Whether a kind is visible in a destination's report (R164). -/
def State.isVisible (s : State) (d : Port) (k : AttnKind) : Bool := (s.enableSet d).getLsbD (kindNumber k - 1) && s.isPending d k

theorem report_kinds (s : State) (d : Port) : (s.report d).kinds = (allKinds.filter (s.isVisible d)).map fun k =>
    ⟨k, (s.sources d k).take 8, decide (8 < (s.sources d k).length)⟩ := by
  rw [← List.filterMap_eq_map', List.filterMap_filter]
  refine congrArg (List.filterMap · allKinds) (funext fun k => ?_)
  rw [State.kindReport, pendingSources_eq, State.isVisible, hasKind]
  cases (s.enableSet d).getLsbD (kindNumber k - 1) <;> cases s.isPending d k <;> rfl

theorem report_notice (s : State) (d : Port) : (s.report d).notice =
    match d with | .tp => 0 | .sp z => if s.isVisible d .zoneNotice then (s.attn.notices.get z).getD 0 else 0 := by
  cases d with
  | tp => rfl
  | sp z =>
    show s.reportNotice (.sp z) = _
    rw [State.reportNotice, State.isVisible, hasKind]
    cases h : s.attn.notices.get z <;> simp [State.isPending, h, State.enableSet]

theorem reportPayload_eq (r : Report) : reportPayload r =
    [byteOf (match r.kinds with | [] => 0 | lead :: _ => kindNumber lead.kind), byteOf r.kinds.length, byteOf r.notice, 0] ++
      r.kinds.flatMap kindReportBytes := by
  unfold reportPayload
  cases r.kinds <;> rfl

/-- Whether the LANE_DOWN condition holds at a lane (R160). -/
def Lane.downHolds (l : Lane) : Bool := decide (l.config.ride ≠ 0) && decide (l.live.mode = .down)

/-- Whether the LANE_STALE condition holds at a lane (R160). -/
def Lane.staleHolds (day : DayState) (l : Lane) : Bool := decide (day = .opened) && decide (l.config.ride ≠ 0) && l.live.stale

theorem laneDown_pending (s : State) (i : Fin 64) : s.laneKindPending .laneDown i = (s.lane i).downHolds := by
  rw [Bool.eq_iff_iff]
  simp [State.laneKindPending, Lane.inUse, Lane.downHolds]

theorem laneStale_pending (s : State) (i : Fin 64) : s.laneKindPending .laneStale i = (s.lane i).staleHolds s.clock.day := by
  rw [Bool.eq_iff_iff]
  simp [State.laneKindPending, Lane.inUse, State.dayOpen, Lane.staleHolds]

/-- The lanes of a kind are those whose condition or latch holds and whose route leads to the destination (R160, R162). -/
theorem pendingLanes_eq {s : State} {k : AttnKind} {pending : Lane → Bool}
    (same : ∀ i, s.laneKindPending k i = pending (s.lane i)) (d : Port) :
    s.pendingLanes k d = ((List.finRange 64).filter fun i => pending (s.lane i) && decide (s.laneRoute k i = d)).map Fin.val := by
  simp only [State.pendingLanes, same]

/-- Settles O46: the route of R162, and the report of R164 kind by kind. -/
theorem laneKindsAreRouted : Obligations.LaneKindsAreRouted := by
  refine ⟨fun s k i z => ?_, fun s d => ?_⟩
  · rw [laneRoute_zone, homeSegment_eq_some]
    exact ⟨fun ⟨⟨used, counts, lower⟩, delegated⟩ => ⟨used, delegated, counts, lower⟩,
      fun ⟨used, delegated, counts, lower⟩ => ⟨⟨used, counts, lower⟩, delegated⟩⟩
  · intro lanes ports sources enables pending visible r
    have sources_eq : s.sources d = sources := funext fun k => by
      cases k with
      | laneDown => exact pendingLanes_eq (pending := Lane.downHolds) (laneDown_pending s) d
      | laneStale => exact pendingLanes_eq (pending := Lane.staleHolds s.clock.day) (laneStale_pending s) d
      | countSkew | grantLow => exact pendingLanes_eq (fun i => rfl) d
      | imageFault | registerFull | portOverrun | grantHeld | clockEnd | zoneNotice => rfl
    have visible_eq : s.isVisible d = visible := funext fun k => by
      have pending_eq : s.isPending d k = pending k := by
        unfold State.isPending
        rw [sources_eq] <;> rfl
      have enables_eq : s.enableSet d = enables := by cases d <;> rfl
      rw [State.isVisible, pending_eq, enables_eq]
    refine ⟨?_, ?_, reportPayload_eq r⟩
    · rw [← visible_eq, ← sources_eq]
      exact report_kinds s d
    · rw [← visible_eq]
      exact report_notice s d

/-! ## A frame produced and offered (R120, R164 to R166) -/

/-- The queue with its waiting attention frames rewritten, frame by frame (R165). -/
theorem rewriteWaiting_eq_mapIdx (sending : Bool) (tx : List TxFrame) (bytes : List Byte) :
    rewriteWaiting sending tx bytes = tx.mapIdx fun n f =>
      if f.producer = .attention ∧ ¬ (n = 0 ∧ sending = true) then { f with bytes := bytes } else f := by
  have waiting (l : List TxFrame) : l.map (fun f => if f.producer = .attention then { f with bytes := bytes } else f) =
      l.mapIdx fun _ f => if f.producer = .attention then { f with bytes := bytes } else f :=
    List.ext_getElem (by simp) fun n h1 h2 => by simp
  cases sending with
  | false => simpa [rewriteWaiting] using waiting tx
  | true =>
    cases tx with
    | nil => rfl
    | cons head rest => simpa [rewriteWaiting, List.mapIdx_cons] using waiting rest

section
variable {s : State} {d : Port}

theorem produce_empty (h : (s.attnPort d).slot = .empty) : s.produce d = s.setAttnPort d ⟨s.report d,
    .prepared (s.attnFrame d (s.report d)),
    if s.linkUp d = true ∨ s.loader.state ≠ .ready then (s.attnPort d).offersDue + 1 else (s.attnPort d).offersDue⟩ := by
  have quiet := produceQuietly_prepared (s := s) (d := d) (by rw [h]; exact nofun)
  have due : (s.linkUp d || s.loader.state != .ready) = true ↔ s.linkUp d = true ∨ s.loader.state ≠ .ready := by simp
  rw [State.produce, h]
  dsimp only
  rw [if_congr due rfl rfl]
  split
  · rw [quiet, oweOffer_prepared (congrArg AttnPort.slot (setAttnPort_attnPort_same ..)), setAttnPort_again, setAttnPort_attnPort_same]
  · exact quiet

theorem produce_again {frame : List Byte} (h : (s.attnPort d).slot = .prepared frame) : s.produce d =
    s.setAttnPort d { s.attnPort d with last := s.report d, slot := .prepared (s.attnFrame d (s.report d)) } := by
  rw [State.produce, h]
  exact produceQuietly_prepared (by rw [h]; exact nofun)

theorem produce_waiting (h : (s.attnPort d).slot = .queued) : s.produce d =
    (s.setPort d { s.port d with tx := rewriteWaiting (s.port d).sending (s.port d).tx (s.attnFrame d (s.report d)) }).setAttnPort d
      ⟨s.report d, .queued, (s.attnPort d).offersDue⟩ := by
  rw [State.produce, h]
  exact (produceQuietly_queued h).trans
    (congrArg (fun slot => State.setAttnPort _ d ⟨s.report d, slot, (s.attnPort d).offersDue⟩) h)

variable {frame : List Byte} (prepared : (s.attnPort d).slot = .prepared frame)
include prepared

theorem offerAttention_admitted (up : s.linkUp d = true) (room : (s.port d).tx.length < 48) : s.offerAttention d =
    ((s.enqueue d ⟨frame, .attention⟩).setAttnPort d { s.attnPort d with slot := .queued, offersDue := 0 }).count fun c =>
      { c with attnQueued := inc c.attnQueued } := by
  rw [State.offerAttention, prepared]
  exact if_pos ((admits_generated (by decide)).2 ⟨up, room⟩)

theorem offerAttention_refused (full : ¬ (s.linkUp d = true ∧ (s.port d).tx.length < 48)) : s.offerAttention d =
    (s.setAttnPort d { s.attnPort d with offersDue := (s.attnPort d).offersDue - 1 }).count fun c =>
      { c with attnRefused := inc c.attnRefused } := by
  rw [State.offerAttention, prepared]
  exact if_neg (mt (admits_generated (by decide)).1 full)

end

/-- Settles O47: the offer of a PREPARED frame, and the production of a report in the three states of its slot. -/
theorem attnFrameIsOffered : Obligations.AttnFrameIsOffered := by
  refine ⟨fun s d frame released owed prepared => ⟨s.offerAttention d, ?_, ?_⟩, fun s d => ?_⟩
  · have command : exec (.attnFrameOffer d) s = .next (if 0 < (s.attnPort d).offersDue then s.offerAttention d else s) :=
      whileReleased_released released fun s => if 0 < (s.attnPort d).offersDue then s.offerAttention d else s
    rw [command, if_pos owed]
  · by_cases room : s.linkUp d = true ∧ (s.port d).tx.length < 48
    · rw [if_pos room, offerAttention_admitted prepared room.1 room.2]
      refine ⟨rfl, fun p hp => ⟨?_, ?_⟩, ?_, ?_, ?_, rfl⟩
      · exact setPort_port_other s _ hp
      · exact setAttnPort_attnPort_other s _ hp
      · rw [count_attnPort, setAttnPort_attnPort_same]
      · exact setPort_port_same ..
      · exact congrArg AttnPort.slot (setAttnPort_attnPort_same ..)
    · rw [if_neg room, offerAttention_refused prepared room]
      refine ⟨rfl, fun p hp => ⟨rfl, ?_⟩, ?_, rfl, ?_, rfl⟩
      · exact setAttnPort_attnPort_other s _ hp
      · rw [count_attnPort, setAttnPort_attnPort_same]
      · exact (congrArg AttnPort.slot (setAttnPort_attnPort_same ..)).trans prepared
  · intro address frame a q newSlot
    refine ⟨?_, rfl⟩
    have built : s.attnFrame d (s.report d) = frame := by cases d <;> rfl
    rw [← built]
    cases h : a.slot with
    | empty => exact produce_empty h
    | prepared f => exact produce_again h
    | queued =>
      rw [produce_waiting h, rewriteWaiting_eq_mapIdx]
      rfl

end Sys2Proof.Machine
end

section
/-! The SEGMENT reset of a port, and the asserted reset input: what each clears, and that nothing acts while the input is held. -/

namespace Sys2Proof.Machine

/-! ## The reset notice over a flushed port (R123, R141, R173) -/

theorem linesSent_lines (s : State) (p : Port) (j : Fin 192) : (s.linesSent p).lines.get j =
    if (s.lines.get j).enable = true ∧ (s.lines.get j).port = p then
      { s.lines.get j with pending := some (s.lineContent (s.lines.get j)) } else s.lines.get j := by
  rw [State.linesSent, oweBoardRuns_lines, State.markLines, get_tabulate]
  exact if_congr (by simp) rfl rfl

/-- The notice to a destination whose slot is not QUEUED: one offer more is owed on an UP link alone. -/
theorem resetNotice_prepared {s : State} {p : Port} (h : (s.attnPort p).slot ≠ .queued) : s.resetNotice p =
    (s.linesSent p).setAttnPort p ⟨s.report p, .prepared (s.attnFrame p (s.report p)),
      (s.attnPort p).offersDue + if s.linkUp p = true then 1 else 0⟩ := by
  unfold State.resetNotice
  split
  · exact linkUpNotice_prepared h
  · show (s.linesSent p).produceQuietly p = _
    rw [produceQuietly_prepared (by rwa [linesSent_attnPort]), linesSent_attnPort, linesSent_report, linesSent_attnFrame]
    rfl

theorem flushPort_notQueued (s : State) (p : Port) : ((s.flushPort p).attnPort p).slot ≠ .queued := by
  have requeued : (((s.flush p).requeueSlot p).attnPort p).slot ≠ .queued := by
    by_cases h : ((s.flush p).attnPort p).slot = .queued
    · rw [requeueSlot_queued h, setAttnPort_attnPort_same]
      exact nofun
    · rwa [requeueSlot_none h]
  have owed : ((((s.flush p).requeueSlot p).oweBoardRuns p 1).attnPort p).slot = (((s.flush p).requeueSlot p).attnPort p).slot := by
    rw [State.attnPort, oweBoardRuns_attn]
    rfl
  rw [State.flushPort, State.portNotice, (oweOffer_kept ..).2.2.1, owed]
  exact requeued

/-! ## The port before the notice (R123) -/

/-- The port flushed, its counters 0, and LINK_RESET queued on an UP link: what a SEGMENT reset does before its notice. -/
def State.portReset (s : State) (p : Port) : State := ((s.flushPort p).countPort p fun _ => .zero).sendLinkReset p

/-- The LINK_RESET frame (R123, R197). -/
def State.linkResetFrame (s : State) : TxFrame := ⟨buildFrame 0x1F 16383 s.park.nodeAddress [], .linkReset⟩

section
variable (s : State) (p : Port)

theorem portReset_frame : s.portReset p = { s with
    ports := (s.portReset p).ports, attn := { s.attn with ports := (s.portReset p).attn.ports } } := by
  rw [State.portReset, State.sendLinkReset_frame, State.countPort, State.setPort, State.flushPort_frame]

theorem portReset_linkUp (r : Port) : (s.portReset p).linkUp r = s.linkUp r :=
  (congrArg (State.linkUp · r) (portReset_frame s p)).trans (by cases r <;> rfl)

theorem portReset_attnPort (r : Port) : (s.portReset p).attnPort r = (s.flushPort p).attnPort r := by
  unfold State.portReset State.sendLinkReset
  split <;> rfl

theorem portReset_port : (s.portReset p).port p =
    ⟨[], if s.linkUp p = true then [s.linkResetFrame] else [], false, .zero, ((s.flushPort p).port p).boardRuns⟩ := by
  obtain ⟨rx, tx⟩ := flushPort_queues s p
  have sending : ((s.flushPort p).port p).sending = false := by
    rw [(flushPort_portsKept s p p).2.1, flush_port, if_pos rfl]
  have park : (s.flushPort p).park = s.park := (congrArg State.park (s.flushPort_frame p) :)
  have counted : ((s.flushPort p).countPort p fun _ => .zero).port p = ⟨[], [], false, .zero, ((s.flushPort p).port p).boardRuns⟩ := by
    rw [countPort_port, if_pos rfl, ← rx, ← sending]
    exact congrArg (fun tx => PortState.mk _ tx _ .zero _) tx
  unfold State.portReset State.sendLinkReset
  rw [countPort_linkUp, flushPort_linkUp]
  split
  · rw [enqueue_port, if_pos rfl, counted, State.linkResetFrame, ← park]
    rfl
  · exact counted

theorem portReset_other {r : Port} (h : r ≠ p) : (s.portReset p).port r = s.port r ∧ (s.portReset p).attnPort r = s.attnPort r := by
  obtain ⟨slot, port⟩ := flushPort_other s h
  refine ⟨?_, (portReset_attnPort s p r).trans slot⟩
  unfold State.portReset State.sendLinkReset
  split
  · rw [enqueue_port, if_neg h, countPort_port, if_neg h, port]
  · rw [countPort_port, if_neg h, port]

end

/-- Settles O15: the port reset, and then the reset notice over its emptied queue. -/
theorem segmentResetActsOnOnePort : Obligations.SegmentResetActsOnOnePort := by
  intro s k released owed
  let p : Port := .sp k
  let u : State := { s with segmentResetsDue := adjust s.segmentResetsDue k (· - 1) }
  let v : State := u.portReset p
  have command : exec (.segmentReset k) s = .next (v.resetNotice p) :=
    (whileReleased_released released _).trans (congrArg Host.Outcome.next (if_pos owed))
  have slot : (v.attnPort p).slot ≠ .queued := by
    rw [portReset_attnPort]
    exact flushPort_notQueued u p
  have frame := portReset_frame u p
  have up : v.linkUp p = s.linkUp p := (portReset_linkUp u p p).trans (linkUp_congr rfl rfl rfl p)
  have report : v.report p = s.report p := (congrArg (State.report · p) frame).trans rfl
  have attnFrame (r : Report) : v.attnFrame p r = s.attnFrame p r := (congrArg (State.attnFrame · p r) frame).trans rfl
  have port : v.port p = _ := portReset_port u p
  have noticed := resetNotice_prepared slot
  have portNow : (v.resetNotice p).port p = ⟨[], if s.linkUp p = true then [s.linkResetFrame] else [], false, .zero,
      ((u.flushPort p).port p).boardRuns + if s.linkUp p = true then 1 else 0⟩ := by
    rw [noticed, setAttnPort_port, linesSent_port, port, up, if_congr (and_iff_right rfl) rfl rfl]
    rfl
  have slotNow : (v.resetNotice p).attnPort p = _ := (congrArg (State.attnPort · p) noticed).trans (setAttnPort_attnPort_same ..)
  rw [report, attnFrame, up] at slotNow
  refine ⟨v.resetNotice p, command, ?_, ?_, ?_, ?_, ?_, fun r hr => ?_, fun j => ?_, ?_, ?_, fun isUp => ?_, fun down => ?_⟩
  · exact (v.resetNotice_frame p).trans
      (congrArg (State.withLinks (v.resetNotice p).lines (v.resetNotice p).ports (v.resetNotice p).attn.ports) frame)
  · exact congrArg PortState.rx portNow
  · exact congrArg PortState.sending portNow
  · exact congrArg PortState.counters portNow
  · exact congrArg PortState.tx portNow
  · obtain ⟨same, sameSlot⟩ := portReset_other u p hr
    rw [noticed, setAttnPort_port, setAttnPort_attnPort_other _ _ hr, linesSent_attnPort, linesSent_port,
      if_neg (not_and_of_not_left _ hr)]
    exact ⟨same, sameSlot⟩
  · have lines : v.lines = s.lines := (congrArg State.lines frame).trans rfl
    have content (b : BoardLine) : v.lineContent b = s.lineContent b := (congrArg (State.lineContent · b) frame).trans rfl
    rw [noticed, setAttnPort_lines, linesSent_lines, lines, content]
  · exact congrArg AttnPort.slot slotNow
  · exact congrArg AttnPort.last slotNow
  · show 0 < ((v.resetNotice p).port p).boardRuns ∧ 0 < ((v.resetNotice p).attnPort p).offersDue
    rw [portNow, slotNow, isUp]
    exact ⟨Nat.succ_pos _, Nat.succ_pos _⟩
  · show ((v.resetNotice p).port p).boardRuns = 0
    rw [portNow, down, flushPort_port (v := u) (p := p) down]
    rfl

/-! ## The reset input (R111, R185, R187) -/

section
variable (s : State)

theorem assertReset_frame : s.assertReset = { s with
    resetHeld := true, ports := s.assertReset.ports, flash := s.assertReset.flash, loader := s.assertReset.loader
    freeDraws := s.assertReset.freeDraws } := by
  rw [State.assertReset, State.abandonWrite_frame]

theorem assertReset_port (p : Port) :
    s.assertReset.port p = { s.port p with rx := [], tx := [], sending := false, boardRuns := 0 } := get_tabulate ..

theorem assertReset_linkUp (p : Port) : s.assertReset.linkUp p = false := rfl

theorem assertReset_idle (idle : s.flash.access ≠ .busy) :
    s.assertReset.flash = s.flash ∧ s.assertReset.freeDraws = s.freeDraws :=
  have kept : s.abandonWrite = s := if_neg idle
  ⟨if_neg idle, (congrArg State.freeDraws kept :)⟩

theorem assertReset_busy (busy : s.flash.access = .busy) :
    s.assertReset.flash = { s.flash with access := .idle, mem := s.abandonWrite.flash.mem } := by
  have flash : s.assertReset.flash = { s.abandonWrite.flash with access := .idle } := if_pos busy
  rw [flash, State.abandonWrite_frame]

theorem assertReset_mem : s.assertReset.flash.mem = s.abandonWrite.flash.mem := by
  by_cases busy : s.flash.access = .busy
  · rw [assertReset_busy s busy]
  · have kept : s.abandonWrite = s := if_neg busy
    rw [(assertReset_idle s busy).1, kept]

end

/-- While the reset input is asserted every command but its release leaves the state as it is (R187). -/
theorem exec_held {c : Instr} {s : State} (held : s.resetHeld = true) (other : c ≠ .powerReset) : exec c s = .next s := by
  have waits (req : MgmtRequest) (f : State → Carried) : takeRequest req s f = .next s := whileReleased_held held _
  have stays (a : ScanAction) (f : State → State) : takeAction a s f = .next s := whileReleased_held held _
  cases c with
  | powerReset => exact absurd rfl other
  | resetInputAsserted => exact congrArg Host.Outcome.next (if_pos held)
  | countEntry | countBoarding | passRequest | passReturn | rideStatus =>
    simp only [exec, execCountEntry, execCountBoarding, execPassRequest, execPassReturn, execRideStatus, stays]
  | setMode | readTable | writeTable | openDay | closeDay | postGrants | voidPass | queryPass | clearAttention | injectNotice
  | resetEngine | resetSegment | readStatus | flashRead | flashWrite | flashStatus => exact waits ..
  | engineReset | segmentReset | secondArrival | minuteBoundary | periodBoundary | clockEndLatch | grantResolve =>
    simp only [exec, execEngineReset, execSegmentReset, execSecondArrival, execMinuteBoundary, execPeriodBoundary,
      execClockEndLatch, execGrantResolve, whileReleased_held held]
  | frameReceive | routeFrame | boardFrameOffer | attnFrameOffer | mgmtReplyOffer | transmitStart | transmitComplete =>
    simp only [exec, execFrameReceive, execRouteFrame, execBoardFrameOffer, execAttnFrameOffer, execMgmtReplyOffer,
      execTransmitStart, execTransmitComplete, whileReleased_held held]
  | flashWriteComplete | loaderProbe | loaderEntry =>
    simp only [exec, execFlashWriteComplete, execLoaderProbe, execLoaderEntry, whileReleased_held held]

/-- Settles O13: what the assertion holds and abandons, and that no command but the release acts while it lasts. -/
theorem resetInputHoldsThePart : Obligations.ResetInputHoldsThePart := by
  refine ⟨fun s released => ⟨s.assertReset, ?_, assertReset_frame s, fun p => ?_, assertReset_idle s, fun busy => ?_, fun a ha => ?_,
    fun ready => if_pos ready, fun loads => if_neg loads⟩, fun c s => exec_held⟩
  · exact congrArg Host.Outcome.next (if_neg (by simp [released]))
  · rw [assertReset_port]
    exact ⟨assertReset_linkUp s p, rfl, rfl, rfl, rfl, rfl⟩
  · rw [assertReset_mem]
    exact assertReset_busy s busy
  · rw [assertReset_mem]
    exact abandonWrite_read ha

end Sys2Proof.Machine
end

section
/-! ROUTE_FRAME: the rows of R116 in their order, and what each leaves of the port, the counters, the agent and the lanes. -/

namespace Sys2Proof.Machine

/-! ## One frame forwarded (R119, R120) -/

theorem forward_eq (s : State) (p : Port) (bytes : List Byte) : s.forward p bytes =
    if s.linkUp p = true ∧ (s.port p).tx.length < 40 then
      (s.enqueue p ⟨bytes, .forwarded⟩).count fun c => { c with forwarded := inc c.forwarded }
    else s.countPort p fun c => { c with forwardDropped := inc c.forwardDropped } :=
  if_congr admits_forwarded rfl rfl

/-! ## Which segment a frame goes to (R116, R117) -/

/-- A frame for an address that a counting window of the segment holds (R117). -/
def Segment.Holds (g : Segment) (a : Nat) : Prop := g.enable = true ∧
  ((g.window1.enable = true ∧ g.window1.base ≤ a ∧ a ≤ g.window1.limit) ∨
    (g.window2.enable = true ∧ g.window2.base ≤ a ∧ a ≤ g.window2.limit))

theorem Segment.counts_iff {g : Segment} {a : Nat} : g.counts a = true ↔ g.Holds a := by
  simp [Segment.counts, Segment.Holds, AddressWindow.contains, and_assoc]

theorem Segment.not_counts {g : Segment} {a : Nat} (missed : ¬ g.Holds a) : g.counts a = false :=
  Bool.eq_false_iff.2 (mt Segment.counts_iff.1 missed)

section
variable {s : State} {p : Port} {bytes : List Byte}

theorem routeSegment_lowest {k : Fin 6} {destination : Nat} (other : Port.sp k ≠ p) (holds : (s.segment k).Holds destination)
    (lower : ∀ j : Fin 6, j < k → Port.sp j ≠ p → ¬ (s.segment j).Holds destination) : s.routeSegment p destination = some k := by
  rw [State.routeSegment, ← Fin.find?_eq_find?_finRange, Fin.find?_eq_some_iff]
  refine ⟨by simp [other, Segment.counts_iff.2 holds], fun j below => ?_⟩
  by_cases arrival : Port.sp j = p
  · simp [arrival]
  · simp [Segment.not_counts (lower j below arrival)]

theorem routeSegment_nowhere {destination : Nat} (missed : ∀ k : Fin 6, Port.sp k ≠ p → ¬ (s.segment k).Holds destination) :
    s.routeSegment p destination = none := by
  rw [State.routeSegment, ← Fin.find?_eq_find?_finRange, Fin.find?_eq_none_iff]
  intro k
  by_cases arrival : Port.sp k = p
  · simp [arrival]
  · simp [Segment.not_counts (missed k arrival)]

theorem routeByWindow_found {k : Fin 6} (single : frameDestination bytes ≠ Config.broadcast)
    (found : s.routeSegment p (frameDestination bytes) = some k) : s.routeByWindow p bytes = s.forward (.sp k) bytes := by
  unfold State.routeByWindow
  dsimp only
  rw [if_neg single, found]

theorem routeByWindow_noRoute (single : frameDestination bytes ≠ Config.broadcast)
    (missed : s.routeSegment .tp (frameDestination bytes) = none) :
    s.routeByWindow .tp bytes = s.count fun c => { c with noRoute := inc c.noRoute } := by
  rw [State.routeByWindow, if_neg single, missed]

/-- A broadcast is offered to every other port whose link is UP (R118). -/
theorem routeByWindow_broadcast (all : frameDestination bytes = 16383) : s.routeByWindow p bytes =
    (allPorts.filter fun q => decide (q ≠ p) && s.linkUp q).foldl (fun t q => t.forward q bytes) s := if_pos all

end

/-! ## The copies of a broadcast (R118, R119) -/

/-- What the offer of a forwarded frame leaves of its port (R119, R120). -/
def State.offered (s : State) (bytes : List Byte) (q : Port) : PortState :=
  if s.linkUp q = true ∧ (s.port q).tx.length < 40 then { s.port q with tx := (s.port q).tx ++ [⟨bytes, .forwarded⟩] }
  else { s.port q with counters := { (s.port q).counters with forwardDropped := inc (s.port q).counters.forwardDropped } }

/-- How many of several ports admit a forwarded frame. -/
def State.admitting (s : State) (ps : List Port) : Nat :=
  (ps.filter fun q => s.linkUp q && decide ((s.port q).tx.length < 40)).length

/-- A counter that has grown `n` times. -/
def grown (count n : Nat) : Nat := if n = 0 then count else min 65535 (count + n)

theorem inc_eq (n : Nat) : inc n = min 65535 (n + 1) := rfl

theorem grown_inc (count n : Nat) : grown (inc count) n = grown count (n + 1) := by
  unfold grown
  rw [inc_eq]
  split <;> simp <;> omega

section
variable (s : State) (p : Port) (bytes : List Byte)

theorem forward_port (q : Port) : (s.forward p bytes).port q = if q = p then s.offered bytes p else s.port q := by
  rw [forward_eq, State.offered]
  by_cases room : s.linkUp p = true ∧ (s.port p).tx.length < 40
  · rw [if_pos room, if_pos room, count_port, enqueue_port]
  · rw [if_neg room, if_neg room, countPort_port]

theorem forward_linkUp (q : Port) : (s.forward p bytes).linkUp q = s.linkUp q :=
  (congrArg (State.linkUp · q) (s.forward_frame p bytes)).trans (by cases q <;> rfl)

theorem forward_counters : (s.forward p bytes).counters =
    { s.counters with forwarded := grown s.counters.forwarded (s.admitting [p]) } := by
  rw [forward_eq]
  by_cases room : s.linkUp p = true ∧ (s.port p).tx.length < 40
  · have one : s.admitting [p] = 1 := by simp [State.admitting, room]
    rw [if_pos room, one]
    rfl
  · have none : s.admitting [p] = 0 := by simpa [State.admitting] using fun up => Nat.not_lt.1 fun free => room ⟨up, free⟩
    rw [if_neg room, none]
    rfl

theorem forward_port_other {q : Port} (other : q ≠ p) : (s.forward p bytes).port q = s.port q :=
  (forward_port ..).trans (if_neg other)

theorem forward_offered {q : Port} (other : q ≠ p) (b : List Byte) : (s.forward p bytes).offered b q = s.offered b q := by
  rw [State.offered, State.offered, forward_linkUp, forward_port_other _ _ _ other]

theorem forward_admitting {ps : List Port} (others : p ∉ ps) : (s.forward p bytes).admitting ps = s.admitting ps := by
  unfold State.admitting
  refine congrArg List.length (List.filter_congr fun q member => ?_)
  rw [forward_linkUp, forward_port_other _ _ _ (ne_of_mem_of_not_mem member others)]

end

theorem State.admitting_cons (s : State) (p : Port) (ps : List Port) :
    s.admitting (p :: ps) = s.admitting [p] + s.admitting ps := by
  rw [State.admitting, ← List.singleton_append, List.filter_append, List.length_append]
  rfl

theorem grown_grown (count m n : Nat) (few : m ≤ 1) : grown (grown count m) n = grown count (m + n) := by
  interval_cases m
  · simp [grown]
  · rw [Nat.add_comm]
    exact grown_inc ..

/-- A frame offered to several ports, each on its own: the forwarded counter grows by the copies admitted, and each port is as its
own offer leaves it (R118). -/
theorem forwardEach (bytes : List Byte) (ps : List Port) (distinct : ps.Nodup) (s : State) :
    let t := ps.foldl (fun u q => u.forward q bytes) s
    t = { s with ports := t.ports, counters := t.counters } ∧
      t.counters = { s.counters with forwarded := grown s.counters.forwarded (s.admitting ps) } ∧
      ∀ q, t.port q = if q ∈ ps then s.offered bytes q else s.port q := by
  induction ps generalizing s with
  | nil => exact ⟨rfl, rfl, fun q => (if_neg List.not_mem_nil).symm⟩
  | cons p ps ih =>
    obtain ⟨absent, distinct⟩ := List.nodup_cons.1 distinct
    obtain ⟨frame, counters, ports⟩ := ih distinct (s.forward p bytes)
    refine ⟨?_, ?_, fun q => ?_⟩
    · let t := ps.foldl (fun u q => u.forward q bytes) (s.forward p bytes)
      have whole (u : State) (h : u = { s with ports := u.ports, counters := u.counters }) :
          { u with ports := t.ports, counters := t.counters } = { s with ports := t.ports, counters := t.counters } := by rw [h]
      exact frame.trans (whole _ (s.forward_frame p bytes))
    · rw [List.foldl_cons, counters, forward_counters, forward_admitting _ _ _ absent, State.admitting_cons s p ps]
      have few : s.admitting [p] ≤ 1 := List.length_filter_le ..
      rw [← grown_grown _ _ _ few]
    · rw [List.foldl_cons, ports]
      by_cases here : q = p
      · subst here
        simp [absent, forward_port]
      · simp [here, forward_port, forward_offered _ _ _ here]

/-! ## The head frame routed (R115, R116) -/

section
variable {s : State} {p : Port} {f : RxFrame} {rest : List RxFrame}

theorem headWaits_false (passes : p ≠ .tp ∨ frameKind f.bytes ≠ 0x15 ∨ frameDestination f.bytes ≠ s.park.nodeAddress ∨
    s.agent.busy = false) : s.headWaits p f = false := by
  rcases passes with h | h | h | h <;> simp [State.headWaits, kindMgmtReq, h]

theorem routeFrame_row (released : s.resetHeld = false) (head : (s.port p).rx = f :: rest) (ready : s.headWaits p f = false) :
    exec (.routeFrame p) s = .next ((s.atRoute p rest).routeRows p f) := by
  have command : exec (.routeFrame p) s = .next (s.routeHead p) := whileReleased_released released fun s => s.routeHead p
  rw [command, State.routeHead, head]
  exact congrArg Host.Outcome.next (if_neg (by simp [ready]))

theorem routeFrame_waits (released : s.resetHeld = false) (head : (s.port p).rx = f :: rest) (waits : s.headWaits p f = true) :
    exec (.routeFrame p) s = .next s := by
  have command : exec (.routeFrame p) s = .next (s.routeHead p) := whileReleased_released released fun s => s.routeHead p
  rw [command, State.routeHead, head]
  exact congrArg Host.Outcome.next (if_pos waits)

end

section
variable {s : State} {p : Port} {f : RxFrame}

theorem routeRows_reset (reset : frameKind f.bytes = 0x1F) : s.routeRows p f =
    if p = .tp then { s with engineResetDue := true } else s.count fun c => { c with misdirected := inc c.misdirected } := if_pos reset

theorem routeRows_noRoute (kind : frameKind f.bytes ≠ 0x1F)
    (unassigned : frameDestination f.bytes = 0 ∨ (251 ≤ frameDestination f.bytes ∧ frameDestination f.bytes ≤ 255)) :
    s.routeRows p f = s.count fun c => { c with noRoute := inc c.noRoute } := (if_neg kind).trans (if_pos unassigned)

theorem routeRows_node (kind : frameKind f.bytes ≠ 0x1F) (node : frameDestination f.bytes = s.park.nodeAddress)
    (high : 256 ≤ s.park.nodeAddress) : s.routeRows p f =
      match p with
      | .tp => if frameKind f.bytes = 0x15 then s.handRequest f.bytes else s.count fun c => { c with misdirected := inc c.misdirected }
      | .sp k => if frameKind f.bytes = 0x14 then s.zoneClear k f.bytes
          else s.count fun c => { c with misdirected := inc c.misdirected } := by
  have assigned : ¬ (frameDestination f.bytes = 0 ∨ (251 ≤ frameDestination f.bytes ∧ frameDestination f.bytes ≤ 255)) := by omega
  refine (if_neg kind).trans ((if_neg assigned).trans ((if_pos node).trans ?_))
  cases p <;> rfl

/-- Past the rows for this Node and for unassigned addresses, a frame that is no scan for the classifier goes by the windows. -/
theorem routeRows_window (kind : frameKind f.bytes ≠ 0x1F) (assigned : frameDestination f.bytes ≠ 0)
    (free : ¬ (251 ≤ frameDestination f.bytes ∧ frameDestination f.bytes ≤ 255))
    (away : frameDestination f.bytes ≠ s.park.nodeAddress)
    (noScan : frameKind f.bytes ≠ 0x10 ∨ 250 < frameDestination f.bytes ∨ p = .tp) :
    s.routeRows p f = s.routeByWindow p f.bytes := by
  refine (if_neg kind).trans ((if_neg (not_or.2 ⟨assigned, free⟩)).trans ((if_neg away).trans ?_))
  cases p with
  | tp => rfl
  | sp k =>
    refine if_neg fun ⟨scan, _, low⟩ => ?_
    rcases noScan with other | high | trunk
    · exact other scan
    · exact Nat.not_lt.2 low high
    · cases trunk

end

/-! ## A request handed to the agent (R116 row 4, R175, R182) -/

/-- The request that a MGMT_REQ frame carries (R197). -/
def frameRequest (bytes : List Byte) : MgmtRequest :=
  ⟨frameSource bytes, fieldAt (framePayload bytes) 0 2, fieldAt (framePayload bytes) 2 1, (framePayload bytes).drop 3⟩

/-- A code that is none of the fifteen requests (R175). -/
def MgmtRequest.Unknown (r : MgmtRequest) : Prop := r.code = 0 ∨ 15 < r.code

/-- A RESET of no known level, or of the wrong length (R182). -/
def MgmtRequest.NoLevel (r : MgmtRequest) : Prop :=
  r.code = 11 ∧ (r.args.length ≠ 2 ∨ (fieldAt r.args 0 1 ≠ 1 ∧ fieldAt r.args 0 1 ≠ 2))

theorem MgmtRequest.unknown_iff {r : MgmtRequest} : (!knownCode r.code) = true ↔ r.Unknown := by
  simp [knownCode, MgmtRequest.Unknown]

theorem MgmtRequest.noLevel_iff {r : MgmtRequest} : r.code = codeReset ∧ (!resetLevelOk r.args) = true ↔ r.NoLevel := by
  simp [resetLevelOk, MgmtRequest.NoLevel, codeReset, levelEngine, levelSegment]

section
variable {s : State} {bytes : List Byte}

theorem handRequest_malformed (short : (framePayload bytes).length < 3) :
    s.handRequest bytes = s.count fun c => { c with malformedRequest := inc c.malformedRequest } := if_pos short

theorem handRequest_bad (long : 3 ≤ (framePayload bytes).length) (bad : (frameRequest bytes).Unknown ∨ (frameRequest bytes).NoLevel) :
    ∃ content, s.handRequest bytes = s.reply (frameRequest bytes) .badRequest content false := by
  have enough := Nat.not_lt.2 long
  by_cases unknown : (frameRequest bytes).Unknown
  · exact ⟨_, (if_neg enough).trans (if_pos (MgmtRequest.unknown_iff.2 unknown))⟩
  · exact ⟨_, (if_neg enough).trans ((if_neg (mt MgmtRequest.unknown_iff.1 unknown)).trans
      (if_pos (MgmtRequest.noLevel_iff.2 (bad.resolve_left unknown))))⟩

theorem handRequest_given (long : 3 ≤ (framePayload bytes).length) (known : ¬ (frameRequest bytes).Unknown)
    (level : ¬ (frameRequest bytes).NoLevel) :
    s.handRequest bytes = { s with agent := { s.agent with request := some (frameRequest bytes) } } :=
  (if_neg (Nat.not_lt.2 long)).trans ((if_neg (mt MgmtRequest.unknown_iff.1 known)).trans
    (if_neg (mt MgmtRequest.noLevel_iff.1 level)))

end

/-! ## A ZONE_CLEAR (R116 row 5, R169) -/

/-- A ZONE_CLEAR names COUNT_SKEW at lane `i`, which is routed to zone `k` (R169). -/
def State.skewNamed (s : State) (k : Fin 6) (kinds lane : Nat) (i : Fin 64) : Bool :=
  kinds.testBit 5 && decide (s.laneRoute .countSkew i = .sp k) && decide (lane = 255 ∨ lane = i.val)

/-- The state with the COUNT_SKEW sources cleared that a ZONE_CLEAR names. -/
def State.skewCleared (s : State) (k : Fin 6) (kinds lane : Nat) : State :=
  s.setLanes fun i => { s.lane i with countSkew := (s.lane i).countSkew && !s.skewNamed k kinds lane i }

section
variable {s : State} {k : Fin 6} {bytes : List Byte}

theorem zoneClear_bad (bad : frameLength bytes ≠ 4 ∨ frameSource bytes ≠ (s.segment k).stationAddress ∨
    (63 < fieldAt (framePayload bytes) 2 1 ∧ fieldAt (framePayload bytes) 2 1 ≠ 255)) :
    s.zoneClear k bytes = s.count fun c => { c with clearRefused := inc c.clearRefused } := if_pos (by omega)

theorem hasKind_countSkew (kinds : Nat) : hasKind (BitVec.ofNat 16 kinds) .countSkew = kinds.testBit 5 := by
  rw [hasKind, BitVec.getLsbD_ofNat]
  rfl

theorem zoneClear_good (good : ¬ (frameLength bytes ≠ 4 ∨ frameSource bytes ≠ (s.segment k).stationAddress ∨
    (63 < fieldAt (framePayload bytes) 2 1 ∧ fieldAt (framePayload bytes) 2 1 ≠ 255))) :
    s.zoneClear k bytes = if (fieldAt (framePayload bytes) 0 2).testBit 5 = true then
      (s.skewCleared k (fieldAt (framePayload bytes) 0 2) (fieldAt (framePayload bytes) 2 1)).evaluate (.sp k) else s := by
  refine (if_neg (by omega)).trans ?_
  rw [hasKind_countSkew]
  refine if_ctx_congr Iff.rfl (fun named => ?_) fun _ => rfl
  refine congrArg (fun u : State => u.evaluate (.sp k)) (congrArg s.setLanes (funext fun i => ?_))
  by_cases lane : fieldAt (framePayload bytes) 2 1 = 255 ∨ fieldAt (framePayload bytes) 2 1 = i.val
  · by_cases routed : s.laneRoute .countSkew i = .sp k <;> simp [State.skewNamed, named, lane, routed]
  · simp [State.skewNamed, named, lane]

end

theorem atRoute_tx (s : State) (p : Port) (rest : List RxFrame) (q : Port) : ((s.atRoute p rest).port q).tx = (s.port q).tx := by
  by_cases here : q = p
  · subst here
    rw [State.atRoute, setPort_port_same]
  · rw [State.atRoute, setPort_port_other _ _ here]

section
variable (s : State) (k : Fin 6) (kinds lane : Nat)

theorem skewCleared_lane (i : Fin 64) : (s.skewCleared k kinds lane).lane i =
    { s.lane i with countSkew := (s.lane i).countSkew && !s.skewNamed k kinds lane i } := get_tabulate ..

/-- The kinds that a ZONE_CLEAR touches at lane `i`. -/
def State.skewGiven (i : Fin 64) : List AttnKind := if s.skewNamed k kinds lane i = true then [.countSkew] else []

/-- The sources cleared are all routed to zone `k`, so that its report alone can change (R162, R169). -/
theorem skewCleared_reportsFollow (rest : List RxFrame) :
    s.ReportsFollow (((s.atRoute (.sp k) rest).skewCleared k kinds lane).evaluate (.sp k)) := by
  let t := (s.atRoute (.sp k) rest).skewCleared k kinds lane
  have cleared (i : Fin 64) : t.lane i = { s.lane i with countSkew := (s.lane i).countSkew && !s.skewNamed k kinds lane i } :=
    skewCleared_lane ..
  have ride (i : Fin 64) : (t.lane i).config.ride = (s.lane i).config.ride := by rw [cleared]
  refine touched_reportsFollow (given := s.skewGiven k kinds lane) (ds := [.sp k]) (fun d touched => ?_) rfl
    (fun d => atRoute_tx ..) (fun i kind _ spared => ?_) rfl rfl ride rfl
  · obtain ⟨i, kind, given, routed⟩ := mem_touched.1 touched
    rw [laneRoute_congr (s := s) (t := t) rfl ride] at routed
    by_cases named : s.skewNamed k kinds lane i = true
    · rw [State.skewGiven, if_pos named, List.mem_singleton] at given
      simp [State.skewNamed] at named
      rw [← routed, given, named.1.2]
      exact List.mem_singleton_self _
    · rw [State.skewGiven, if_neg named] at given
      exact absurd given List.not_mem_nil
  · refine laneKindPending_congr (s := s) (u := t) rfl (ride i) kind ?_
    by_cases named : s.skewNamed k kinds lane i = true
    · have other : kind ≠ .countSkew := by simpa [State.skewGiven, named] using spared
      rw [cleared]
      cases kind with
      | countSkew => exact absurd rfl other
      | laneDown | laneStale | grantLow => rfl
      | imageFault | registerFull | portOverrun | grantHeld | clockEnd | zoneNotice => trivial
    · have same : t.lane i = s.lane i := by simp [cleared, named]
      cases kind with
      | countSkew | laneDown | laneStale | grantLow => rw [same]
      | imageFault | registerFull | portOverrun | grantHeld | clockEnd | zoneNotice => trivial

end

/-- What a ZONE_CLEAR that is not refused leaves (R116 row 5, R169). -/
theorem zoneClear_clears {s : State} {k : Fin 6} {bytes : List Byte} (rest : List RxFrame)
    (good : ¬ (frameLength bytes ≠ 4 ∨ frameSource bytes ≠ (s.segment k).stationAddress ∨
      (63 < fieldAt (framePayload bytes) 2 1 ∧ fieldAt (framePayload bytes) 2 1 ≠ 255))) :
    let u := s.atRoute (.sp k) rest
    let t := u.zoneClear k bytes
    State.OnlyReports { u with lanes := t.lanes } t ∧ s.ReportsFollow t ∧
      ((fieldAt (framePayload bytes) 0 2).testBit 5 = true ∨ (s.attnPort (.sp k)).last = s.report (.sp k) →
        (t.attnPort (.sp k)).last = t.report (.sp k)) ∧
      ∀ i, t.lane i = { s.lane i with
        countSkew := (s.lane i).countSkew && !s.skewNamed k (fieldAt (framePayload bytes) 0 2) (fieldAt (framePayload bytes) 2 1) i } := by
  intro u t
  have ended : t = _ := zoneClear_good (s := u) good
  by_cases named : (fieldAt (framePayload bytes) 0 2).testBit 5 = true
  · rw [ended, if_pos named]
    refine ⟨?_, skewCleared_reportsFollow s k _ _ rest, fun _ => ?_, fun i => ?_⟩
    · rw [evaluate_lanes]
      exact evaluate_onlyReports ..
    · rw [evaluate_last, State.OnlyReports.report (evaluate_onlyReports ..)]
    · exact (congrArg (·.get i) (evaluate_lanes ..)).trans (skewCleared_lane u k _ _ i)
  · rw [ended, if_neg named]
    refine ⟨.refl u, .of_same (fun _ => rfl) (fun d => atRoute_tx ..) fun _ => rfl, fun last => last.resolve_left named, fun i => ?_⟩
    have spared : s.skewNamed k (fieldAt (framePayload bytes) 0 2) (fieldAt (framePayload bytes) 2 1) i = false := by
      simp [State.skewNamed, named]
    rw [spared]
    simp
    rfl

/-! ## A broadcast (R116 row 8, R118) -/

theorem atRoute_linkUp (s : State) (p : Port) (rest : List RxFrame) (q : Port) : (s.atRoute p rest).linkUp q = s.linkUp q := by
  cases q <;> rfl

theorem atRoute_port_same (s : State) (p : Port) (rest : List RxFrame) :
    (s.atRoute p rest).port p = { s.port p with rx := rest } := setPort_port_same ..

theorem atRoute_port_other (s : State) {p q : Port} (rest : List RxFrame) (other : q ≠ p) : (s.atRoute p rest).port q = s.port q :=
  setPort_port_other _ _ other

/-- The ports that a broadcast from port `p` is offered to (R118). -/
def State.copied (s : State) (p : Port) : List Port := allPorts.filter fun q => decide (q ≠ p) && s.linkUp q

theorem State.mem_copied {s : State} {p q : Port} : q ∈ s.copied p ↔ q ≠ p ∧ s.linkUp q = true := by
  simp [State.copied, mem_allPorts]

theorem atRoute_copied (s : State) (p : Port) (rest : List RxFrame) : (s.atRoute p rest).copied p = s.copied p :=
  List.filter_congr fun q _ => by rw [atRoute_linkUp]

theorem atRoute_admitting (s : State) (p : Port) (rest : List RxFrame) : (s.atRoute p rest).admitting (s.copied p) =
    (allPorts.filter fun q => decide (q ≠ p) && s.linkUp q && decide ((s.port q).tx.length < 40)).length := by
  rw [State.admitting, State.copied, List.filter_filter]
  refine congrArg List.length (List.filter_congr fun q _ => ?_)
  rw [atRoute_linkUp, atRoute_tx, ← Bool.and_assoc]
  cases s.linkUp q <;> simp [Bool.and_comm]

theorem State.offered_taken {s : State} {bytes : List Byte} {q : Port} (up : s.linkUp q = true) (room : (s.port q).tx.length < 40) :
    s.offered bytes q = { s.port q with tx := (s.port q).tx ++ [⟨bytes, .forwarded⟩] } := if_pos ⟨up, room⟩

theorem State.offered_dropped {s : State} {bytes : List Byte} {q : Port} (full : ¬ (s.port q).tx.length < 40) :
    s.offered bytes q = { s.port q with counters := { (s.port q).counters with
      forwardDropped := inc (s.port q).counters.forwardDropped } } := if_neg fun taken => full taken.2

theorem atRoute_offered (s : State) {p q : Port} (rest : List RxFrame) (bytes : List Byte) (other : q ≠ p) :
    (s.atRoute p rest).offered bytes q = s.offered bytes q := by
  rw [State.offered, State.offered, atRoute_linkUp, atRoute_port_other s rest other]

/-- Settles O54: by the row of R116 that the head frame meets. -/
theorem routeFrameByTheTable : Obligations.RouteFrameByTheTable := by
  refine ⟨?byWindow, ?dropped, ?request, ?clear, ?broadcast, fun s p bytes => forward_eq s p bytes⟩
  case byWindow =>
    intro s p f rest released head d u inWindow kind assigned free away single noScan
    have routed : exec (.routeFrame p) s = .next (u.routeByWindow p f.bytes) :=
      (routeFrame_row released head (headWaits_false (.inr (.inr (.inl away))))).trans
        (congrArg Host.Outcome.next (routeRows_window (s := u) kind assigned free away noScan))
    refine ⟨fun k other holds lower => ?_, fun missed => ?_⟩
    · exact routed.trans (congrArg Host.Outcome.next (routeByWindow_found single (routeSegment_lowest (s := u) other holds lower)))
    have nowhere : u.routeSegment p d = none := routeSegment_nowhere missed
    refine ⟨?_, ?_, ?_⟩
    · rintro k rfl holds
      exact routed.trans (congrArg Host.Outcome.next ((routeByWindow_trunk single nowhere).trans (if_pos (Segment.counts_iff.2 holds))))
    · rintro k rfl away
      exact routed.trans (congrArg Host.Outcome.next ((routeByWindow_trunk single nowhere).trans
        (if_neg (mt Segment.counts_iff.1 away))))
    · rintro rfl
      exact routed.trans (congrArg Host.Outcome.next (routeByWindow_noRoute single nowhere))
  case dropped =>
    intro s p f rest released head d u misdirected
    have routed (notRequest : p ≠ .tp ∨ frameKind f.bytes ≠ 0x15 ∨ d ≠ s.park.nodeAddress) {t : State}
        (row : u.routeRows p f = t) : exec (.routeFrame p) s = .next t :=
      row ▸ routeFrame_row released head (headWaits_false (notRequest.imp_right (·.imp_right .inl)))
    refine ⟨fun reset trunk => ?_, fun reset segment => ?_, fun kind unassigned away => ?_, fun high node kind wrong => ?_⟩
    · exact routed (.inr (.inl (by omega))) ((routeRows_reset reset).trans (if_pos trunk))
    · exact routed (.inr (.inl (by omega))) ((routeRows_reset reset).trans (if_neg segment))
    · exact routed (.inr (.inr away)) (routeRows_noRoute kind unassigned)
    · have row := routeRows_node (s := u) (p := p) kind node (node ▸ high)
      rcases wrong with ⟨rfl, other⟩ | ⟨segment, other⟩
      · exact routed (.inr (.inl other)) (row.trans (if_neg other))
      · cases p with
        | tp => exact absurd rfl segment
        | sp k => exact routed (.inl segment) (row.trans (if_neg other))
  case request =>
    intro s f rest released head kind node high u payload req unknown noLevel
    refine ⟨fun busy => ?_, fun idle free => ?_⟩
    · have waits : s.agent.busy = true := by
        rcases busy with mode | request
        · simp [Agent.busy, mode]
        · simp [Agent.busy, Option.isSome_iff_ne_none.2 request]
      exact routeFrame_waits released head (by simp [State.headWaits, waits, kind, node, kindMgmtReq])
    · have idle : s.agent.busy = false := by simp [Agent.busy, idle, free]
      have row : u.routeRows .tp f = u.handRequest f.bytes :=
        (routeRows_node (s := u) (p := .tp) (by omega) node high).trans (if_pos kind)
      have routed {t : State} (handed : u.handRequest f.bytes = t) : exec (.routeFrame .tp) s = .next t :=
        (routeFrame_row released head (headWaits_false (.inr (.inr (.inr idle))))).trans
          (congrArg Host.Outcome.next (row.trans handed))
      refine ⟨fun short => routed (handRequest_malformed short), fun long bad => ?_, fun long known level => ?_⟩
      · obtain ⟨content, replied⟩ := handRequest_bad (s := u) long bad
        exact ⟨content, routed replied⟩
      · exact routed (handRequest_given long known level)
  case clear =>
    intro s k f rest released head kind node high u lane bad
    have row : u.routeRows (.sp k) f = u.zoneClear k f.bytes :=
      (routeRows_node (s := u) (p := .sp k) (by omega) node high).trans (if_pos kind)
    have routed : exec (.routeFrame (.sp k)) s = .next (u.zoneClear k f.bytes) :=
      row ▸ routeFrame_row released head (headWaits_false (.inl nofun))
    exact ⟨fun refused => routed.trans (congrArg Host.Outcome.next (zoneClear_bad refused)),
      fun good => ⟨_, routed, zoneClear_clears rest good⟩⟩
  case broadcast =>
    intro s p f rest released head kind all away copied taken n
    let u := s.atRoute p rest
    have row : u.routeRows p f = u.routeByWindow p f.bytes :=
      routeRows_window kind (by omega) (by omega) (all ▸ Ne.symm away) (.inr (.inl (by omega)))
    have routed := (routeFrame_row released head (headWaits_false (.inr (.inr (.inl (all ▸ Ne.symm away)))))).trans
      (congrArg Host.Outcome.next (row.trans (routeByWindow_broadcast all)))
    obtain ⟨frame, counters, ports⟩ := forwardEach f.bytes (u.copied p) (List.Nodup.filter _ (by decide)) u
    have counted : u.admitting (u.copied p) = n := by rw [atRoute_copied, atRoute_admitting]; rfl
    refine ⟨_, routed, frame, ?_, ?_, fun q other => ?_⟩
    · rw [counted] at counters
      exact counters
    · exact (ports p).trans ((if_neg fun member => (State.mem_copied.1 member).1 rfl).trans (atRoute_port_same ..))
    · have member : q ∈ u.copied p ↔ copied q := by rw [atRoute_copied, State.mem_copied]
      have offered := atRoute_offered s rest f.bytes other
      refine ⟨fun ⟨here, room⟩ => ?_, fun here full => ?_, fun spared => ?_⟩
      · exact (ports q).trans ((if_pos (member.2 here)).trans (offered.trans (State.offered_taken here.2 room)))
      · exact (ports q).trans ((if_pos (member.2 here)).trans (offered.trans (State.offered_dropped fun room => full ⟨here, room⟩)))
      · exact (ports q).trans ((if_neg (mt member.1 spared)).trans (atRoute_port_other s rest other))

end Sys2Proof.Machine
end

section
/-! The Settings Loader: the probe, one entry, and the ends of a load, where the offers still owed are refused and the links come up. -/

namespace Sys2Proof.Machine

/-! ## The links that come up with their notices (R112, R193) -/

/-- Each of several ports given its link-up notice once. -/
structure State.NoticesGiven (s t : State) (ps : List Port) : Prop where
  frame : t = s.withLinks t.lines t.ports t.attn.ports
  lines : ∀ j, t.lines.get j = if (s.lines.get j).enable = true ∧ (s.lines.get j).port ∈ ps then
    { s.lines.get j with pending := some (s.lineContent (s.lines.get j)) } else s.lines.get j
  runs : ∀ p ∈ ps, (t.port p).boardRuns = (s.port p).boardRuns + 1
  last : ∀ p ∈ ps, (t.attnPort p).last = s.report p
  prepared : ∀ p ∈ ps, (s.attnPort p).slot ≠ .queued →
    t.attnPort p = ⟨s.report p, .prepared (s.attnFrame p (s.report p)), (s.attnPort p).offersDue + 1⟩
  others : ∀ p, p ∉ ps → t.port p = s.port p ∧ t.attnPort p = s.attnPort p

theorem linkUpNotices_given {ps : List Port} (distinct : ps.Nodup) {s : State} (up : ∀ p ∈ ps, s.linkUp p = true) :
    s.NoticesGiven (ps.foldl State.linkUpNotice s) ps := by
  induction ps generalizing s with
  | nil => exact ⟨rfl, fun j => (if_neg fun h => List.not_mem_nil h.2).symm, nofun, nofun, nofun, fun _ _ => ⟨rfl, rfl⟩⟩
  | cons p ps ih =>
    obtain ⟨absent, distinct⟩ := List.nodup_cons.1 distinct
    have rest := ih distinct (s := s.linkUpNotice p) fun q hq => (linkUpNotice_linkUp ..).trans (up q (.tail _ hq))
    have apart {q : Port} (member : q ∈ ps) : q ≠ p := ne_of_mem_of_not_mem member absent
    rw [List.foldl_cons]
    refine ⟨s.linkUpNotices_frame (p :: ps), fun j => ?_, ?_, ?_, ?_, fun q other => ?_⟩
    · rw [rest.lines, linkUpNotice_lines, linkUpNotice_lineContent]
      by_cases here : (s.lines.get j).port = p <;> by_cases on : (s.lines.get j).enable = true <;> simp [here, on, absent]
    · refine List.forall_mem_cons.2 ⟨?_, fun q member => ?_⟩
      · rw [(rest.others p absent).1, linkUpNotice_boardRuns, if_pos ⟨rfl, up p (.head _)⟩]
      · rw [rest.runs q member, linkUpNotice_port_other s (apart member)]
    · refine List.forall_mem_cons.2 ⟨?_, fun q member => ?_⟩
      · rw [(rest.others p absent).2, linkUpNotice_last]
      · rw [rest.last q member, linkUpNotice_report]
    · refine List.forall_mem_cons.2 ⟨fun free => ?_, fun q member free => ?_⟩
      · rw [(rest.others p absent).2, linkUpNotice_attnPort free]
      · have slot := linkUpNotice_attnPort_other s (apart member)
        rw [rest.prepared q member (slot ▸ free), linkUpNotice_report, linkUpNotice_attnFrame, slot]
    · obtain ⟨here, later⟩ := not_or.1 (mt List.mem_cons.2 other)
      obtain ⟨port, slot⟩ := rest.others q later
      exact ⟨port.trans (linkUpNotice_port_other s here), slot.trans (linkUpNotice_attnPort_other s here)⟩

theorem linkUpNotices_counters (s : State) (ps : List Port) : (ps.foldl State.linkUpNotice s).counters = s.counters :=
  (congrArg State.counters (s.linkUpNotices_frame ps) :)

namespace State.NoticesGiven

variable {s t : State} {ps : List Port} (given : s.NoticesGiven t ps)
include given

theorem linkUp (p : Port) : t.linkUp p = s.linkUp p := (congrArg (State.linkUp · p) given.frame).trans rfl

theorem report (p : Port) : t.report p = s.report p := (congrArg (State.report · p) given.frame).trans rfl

theorem attnFrame (p : Port) (r : Report) : t.attnFrame p r = s.attnFrame p r :=
  (congrArg (State.attnFrame · p r) given.frame).trans rfl

theorem lineContent (b : BoardLine) : t.lineContent b = s.lineContent b :=
  (congrArg (State.lineContent · b) given.frame).trans rfl

end State.NoticesGiven

/-! ## The offers refused before (R172, R193) -/

/-- The offers of a load that destination `p` is still owed: those of a PREPARED frame (log entry 11). -/
def State.owedOffers (s : State) (p : Port) : Nat :=
  match (s.attnPort p).slot with
  | .prepared _ => (s.attnPort p).offersDue
  | _ => 0

theorem refuseOwed_attnRefused {s : State} (p : Port) (fits : s.counters.attnRefused ≤ 65535) :
    (s.refuseOwed p).counters.attnRefused = min 65535 (s.counters.attnRefused + s.owedOffers p) := by
  rw [refuseOwed_eq, State.owedOffers]
  cases (s.attnPort p).slot with
  | prepared f => rfl
  | empty | queued => exact (Nat.min_eq_right fits).symm

theorem refuseOwed_owedOffers (s : State) {p q : Port} (other : q ≠ p) : (s.refuseOwed p).owedOffers q = s.owedOffers q := by
  rw [State.owedOffers, State.owedOffers, (refuseOwed_other s other).1]

theorem refuseOwedEach_attnRefused {ps : List Port} (distinct : ps.Nodup) {s : State} (fits : s.counters.attnRefused ≤ 65535) :
    (ps.foldl State.refuseOwed s).counters.attnRefused = min 65535 (s.counters.attnRefused + (ps.map s.owedOffers).sum) := by
  induction ps generalizing s with
  | nil => exact (Nat.min_eq_right fits).symm
  | cons p ps ih =>
    obtain ⟨absent, distinct⟩ := List.nodup_cons.1 distinct
    have one := refuseOwed_attnRefused p fits
    have same : ps.map (s.refuseOwed p).owedOffers = ps.map s.owedOffers :=
      List.map_congr_left fun q member => refuseOwed_owedOffers s (ne_of_mem_of_not_mem member absent)
    rw [List.foldl_cons, ih distinct (one ▸ Nat.min_le_left ..), one, same, List.map_cons, List.sum_cons]
    omega

theorem refuseOwedEach_attnPort {ps : List Port} (s : State) (p : Port) :
    (ps.foldl State.refuseOwed s).attnPort p = if p ∈ ps then { s.attnPort p with offersDue := 0 } else s.attnPort p := by
  induction ps generalizing s with
  | nil => rfl
  | cons q ps ih =>
    rw [List.foldl_cons, ih]
    by_cases here : p = q
    · subst here
      simp [refuseOwed_attnPort]
    · simp [here, (refuseOwed_other s here).1]

/-! ## The loader READY (R112, R193) -/

/-- The state in which the links come up: the loader is READY, and no offer of the load is owed any more. -/
@[irreducible] def State.atReady (s : State) (outcome : LoaderOutcome) : State :=
  allPorts.foldl State.refuseOwed { s with loader := { s.loader with state := .ready, outcome := outcome } }

/-- The state with another loader, refused counter and attention slots: what the refusals at READY can change. -/
def State.withRefusals (loader : Loader) (refused : Nat) (slots : Vector AttnPort 7) (s : State) : State :=
  { s with loader := loader, counters := { s.counters with attnRefused := refused }, attn := { s.attn with ports := slots } }

section
variable (s : State) (outcome : LoaderOutcome)

theorem atReady_frame : s.atReady outcome = s.withRefusals { s.loader with state := .ready, outcome := outcome }
    (s.atReady outcome).counters.attnRefused (s.atReady outcome).attn.ports := by
  unfold State.atReady
  generalize allPorts = ps
  exact State.refuseOwedEach_frame ..

theorem atReady_lines : (s.atReady outcome).lines = s.lines := (congrArg State.lines (atReady_frame s outcome) :)

theorem atReady_lineContent (b : BoardLine) : (s.atReady outcome).lineContent b = s.lineContent b :=
  (congrArg (State.lineContent · b) (atReady_frame s outcome)).trans rfl

theorem atReady_report (p : Port) : (s.atReady outcome).report p = s.report p :=
  (congrArg (State.report · p) (atReady_frame s outcome)).trans rfl

theorem atReady_attnFrame (p : Port) (r : Report) : (s.atReady outcome).attnFrame p r = s.attnFrame p r :=
  (congrArg (State.attnFrame · p r) (atReady_frame s outcome)).trans rfl

theorem atReady_port (p : Port) : (s.atReady outcome).port p = s.port p :=
  (congrArg (State.port · p) (atReady_frame s outcome)).trans rfl

theorem atReady_attnPort (p : Port) : (s.atReady outcome).attnPort p = { s.attnPort p with offersDue := 0 } := by
  unfold State.atReady
  rw [refuseOwedEach_attnPort, if_pos (mem_allPorts p)]
  rfl

theorem atReady_linkUp (released : s.resetHeld = false) (p : Port) : (s.atReady outcome).linkUp p = s.portEnabled p := by
  have ready : (s.atReady outcome).linkUp p = ((!s.resetHeld && true) && s.portEnabled p) :=
    (congrArg (State.linkUp · p) (atReady_frame s outcome)).trans (by cases p <;> rfl)
  rw [ready, released]
  rfl

end

/-- At READY: every link that is up has had its link-up notice (R112, R141, R166, R193). -/
def State.LinksCameUp (t : State) : Prop := t.loader.state = .ready ∧ t.linkUp .tp = true ∧
  ∀ p : Port, t.linkUp p = true → 0 < (t.port p).boardRuns ∧ (t.attnPort p).last = t.report p ∧
    ∀ j : Fin 192, (t.lines.get j).enable = true → (t.lines.get j).port = p →
      (t.lines.get j).pending = some (t.lineContent (t.lines.get j))

/-- The load of `u` has ended in `t`: what the READY changes of the lines, the ports and the attention slots (R112, R193). -/
def State.LoadEnded (u : State) (outcome : LoaderOutcome) (t : State) : Prop :=
  t = { u with
    loader := { u.loader with state := .ready, outcome := outcome }, lines := t.lines, ports := t.ports
    attn := { u.attn with ports := t.attn.ports }, counters := { u.counters with attnRefused := t.counters.attnRefused } } ∧
  u.PortsKept t ∧ (∀ p : Port, t.linkUp p = true → (t.port p).boardRuns = (u.port p).boardRuns + 1) ∧
  (∀ p : Port, t.linkUp p = u.portEnabled p) ∧
  (∀ j : Fin 192, t.lines.get j = if (u.lines.get j).enable = true ∧ t.linkUp (u.lines.get j).port = true then
    { u.lines.get j with pending := some (u.lineContent (u.lines.get j)) } else u.lines.get j) ∧
  ∀ p : Port, (t.linkUp p = false → t.port p = u.port p ∧ t.attnPort p = { u.attnPort p with offersDue := 0 }) ∧
    (t.linkUp p = true → (u.attnPort p).slot ≠ .queued →
      (t.attnPort p).slot = .prepared (t.attnFrame p (t.report p)) ∧ (t.attnPort p).offersDue = 1)

/-- The offers of the load that were still owed have been refused and counted (R172, log entry 11). -/
def State.OffersRefused (u t : State) : Prop := u.counters.attnRefused ≤ 65535 →
  t.counters.attnRefused = min 65535 (u.counters.attnRefused + (allPorts.map u.owedOffers).sum)

section
variable {s : State} {outcome : LoaderOutcome}

theorem loaderReady_eq : s.loaderReady outcome =
    (allPorts.filter (s.atReady outcome).linkUp).foldl State.linkUpNotice (s.atReady outcome) := by
  unfold State.loaderReady State.atReady
  rfl

theorem loaderReady_given (released : s.resetHeld = false) :
    (s.atReady outcome).NoticesGiven (s.loaderReady outcome) (allPorts.filter s.portEnabled) := by
  have same : allPorts.filter s.portEnabled = allPorts.filter (s.atReady outcome).linkUp :=
    List.filter_congr fun p _ => (atReady_linkUp s outcome released p).symm
  rw [loaderReady_eq, same]
  exact linkUpNotices_given (List.Nodup.filter _ (by decide)) fun p member => (List.mem_filter.1 member).2

theorem loaderReady_linkUp (released : s.resetHeld = false) (p : Port) : (s.loaderReady outcome).linkUp p = s.portEnabled p :=
  ((loaderReady_given released).linkUp p).trans (atReady_linkUp s outcome released p)

theorem loaderReady_report (released : s.resetHeld = false) (p : Port) : (s.loaderReady outcome).report p = s.report p :=
  ((loaderReady_given released).report p).trans (atReady_report s outcome p)

theorem loaderReady_attnFrame (released : s.resetHeld = false) (p : Port) (r : Report) :
    (s.loaderReady outcome).attnFrame p r = s.attnFrame p r :=
  ((loaderReady_given released).attnFrame p r).trans (atReady_attnFrame s outcome p r)

theorem loaderReady_lineContent (released : s.resetHeld = false) (b : BoardLine) :
    (s.loaderReady outcome).lineContent b = s.lineContent b :=
  ((loaderReady_given released).lineContent b).trans (atReady_lineContent s outcome b)

theorem mem_enabledPorts {p : Port} : p ∈ allPorts.filter s.portEnabled ↔ s.portEnabled p = true := by
  simp [mem_allPorts]

theorem loaderReady_lines (released : s.resetHeld = false) (j : Fin 192) : (s.loaderReady outcome).lines.get j =
    if (s.lines.get j).enable = true ∧ s.portEnabled (s.lines.get j).port = true then
      { s.lines.get j with pending := some (s.lineContent (s.lines.get j)) } else s.lines.get j := by
  rw [(loaderReady_given released).lines, atReady_lines, atReady_lineContent]
  exact if_congr (and_congr_right' mem_enabledPorts) rfl rfl

theorem loaderReady_boardRuns (released : s.resetHeld = false) {p : Port} (enabled : s.portEnabled p = true) :
    ((s.loaderReady outcome).port p).boardRuns = (s.port p).boardRuns + 1 := by
  rw [(loaderReady_given released).runs p (mem_enabledPorts.2 enabled), atReady_port]

theorem loaderReady_ended (released : s.resetHeld = false) : s.LoadEnded outcome (s.loaderReady outcome) := by
  have given := loaderReady_given (outcome := outcome) released
  have up (p : Port) := loaderReady_linkUp (outcome := outcome) released p
  refine ⟨s.loaderReady_frame outcome, loaderReady_portsKept s outcome, fun p here => ?_, up, fun j => ?_, fun p => ⟨fun down => ?_,
    fun here free => ?_⟩⟩
  · exact loaderReady_boardRuns released (up p ▸ here)
  · rw [loaderReady_lines released, up]
  · obtain ⟨port, slot⟩ := given.others p (mt mem_enabledPorts.1 (Bool.eq_false_iff.1 (up p ▸ down)))
    exact ⟨port.trans (atReady_port ..), slot.trans (atReady_attnPort ..)⟩
  · have slot := given.prepared p (mem_enabledPorts.2 (up p ▸ here)) (by rwa [atReady_attnPort])
    rw [slot, loaderReady_report released, loaderReady_attnFrame released, atReady_attnPort, atReady_report, atReady_attnFrame]
    exact ⟨rfl, rfl⟩

theorem loaderReady_cameUp (released : s.resetHeld = false) : (s.loaderReady outcome).LinksCameUp := by
  have up (p : Port) := loaderReady_linkUp (outcome := outcome) released p
  refine ⟨(congrArg (·.loader.state) (s.loaderReady_frame outcome) :), up .tp, fun p here => ⟨?_, ?_, fun j on port => ?_⟩⟩
  · rw [loaderReady_boardRuns released (up p ▸ here)]
    exact Nat.succ_pos _
  · rw [(loaderReady_given released).last p (mem_enabledPorts.2 (up p ▸ here)), atReady_report, loaderReady_report released]
  · have line := loaderReady_lines (outcome := outcome) released j
    by_cases marked : (s.lines.get j).enable = true ∧ s.portEnabled (s.lines.get j).port = true
    · rw [if_pos marked] at line
      rw [loaderReady_lineContent released, line]
      rfl
    · rw [if_neg marked] at line
      rw [line] at on port
      exact absurd ⟨on, port ▸ up p ▸ here⟩ marked

theorem loaderReady_refused : s.OffersRefused (s.loaderReady outcome) := by
  intro fits
  let v : State := { s with loader := { s.loader with state := .ready, outcome := outcome } }
  have counted := refuseOwedEach_attnRefused (ps := allPorts) (s := v) (by decide) fits
  have owed : v.owedOffers = s.owedOffers := rfl
  have kept : (s.loaderReady outcome).counters = (s.atReady outcome).counters := by
    rw [loaderReady_eq, linkUpNotices_counters]
  rw [kept, State.atReady, counted, owed]

end

/-! ## One entry applied (R190, R191, R198, R199) -/

/-- Byte `j` of the next entry, as the load reads it (R191, log entry 7). -/
def State.entryByte (s : State) (given j : Nat) : Nat :=
  if s.loader.silent = false ∧ j < given then (s.flash.mem.read (8 + 6 * s.loader.position + j)).toNat else 255

/-- The next entry applied, and the position moved on. -/
def State.entryApplied (s : State) (given : Nat) : State :=
  let silent := s.loader.silent || decide (given < 6)
  match s.writeTable (s.entryByte given 0) (s.entryByte given 1 + 256 * s.entryByte given 2)
    [(s.entryByte given 3, s.entryByte given 4 + 256 * s.entryByte given 5)] with
  | .refused _ _ =>
    { s with loader := { s.loader with
      position := s.loader.position + 1, skipped := s.loader.skipped + 1, silent := silent } }
  | .accepted t legalized =>
    { t with loader := { s.loader with
      position := s.loader.position + 1, silent := silent
      legalized := if legalized then s.loader.legalized + 1 else s.loader.legalized } }

/-- A step of the load before its end is looked at. -/
def State.entryRead (s : State) (given : Nat) : State :=
  let t := s.applyEntry (s.flashBytes (s.loader.entryGiven given) (8 + 6 * s.loader.position) 6)
  { t with loader := { t.loader with position := s.loader.position + 1, silent := decide (s.loader.entryGiven given < 6) } }

/-- What an accepted table write keeps of the machine beside the tables. -/
theorem writeTable_machine {s t : State} {code index : Nat} {pairs : List (Nat × Nat)} {lg : Bool}
    (accepted : s.writeTable code index pairs = .accepted t lg) :
    t.resetHeld = s.resetHeld ∧ t.loader = s.loader ∧ t.flash = s.flash := by
  obtain ⟨table, -, -, -, rfl, -⟩ := writeTable_accepted accepted
  have frame := writeEntry_frame s table index (table.legalPairs pairs)
  exact ⟨(congrArg State.resetHeld frame :), (congrArg State.loader frame :), (congrArg State.flash frame :)⟩

theorem entryFields_eq (f : Nat → Byte) : entryFields ((List.range 6).map f) =
    ((f 0).toNat, (f 1).toNat + 256 * (f 2).toNat, (f 3).toNat, (f 4).toNat + 256 * (f 5).toNat) := rfl

section
variable (s : State) (given : Nat)

theorem entryByte_eq (j : Nat) : (if j < s.loader.entryGiven given then
    s.flash.mem.read (8 + 6 * s.loader.position + j) else erasedByte).toNat = s.entryByte given j := by
  unfold State.entryByte Loader.entryGiven
  cases s.loader.silent with
  | true => rfl
  | false => by_cases here : j < given <;> simp [here, erasedByte]

theorem entryFields_flash : entryFields (s.flashBytes (s.loader.entryGiven given) (8 + 6 * s.loader.position) 6) =
    (s.entryByte given 0, s.entryByte given 1 + 256 * s.entryByte given 2, s.entryByte given 3,
      s.entryByte given 4 + 256 * s.entryByte given 5) := by
  rw [flashBytes_eq, entryFields_eq]
  simp only [entryByte_eq]

theorem entrySilent_eq : decide (s.loader.entryGiven given < 6) = (s.loader.silent || decide (given < 6)) := by
  unfold Loader.entryGiven
  cases s.loader.silent <;> rfl

theorem entryRead_eq : s.entryRead given = s.entryApplied given := by
  unfold State.entryRead State.entryApplied State.applyEntry
  rw [entryFields_flash, entrySilent_eq]
  dsimp only
  cases written : s.writeTable (s.entryByte given 0) (s.entryByte given 1 + 256 * s.entryByte given 2)
    [(s.entryByte given 3, s.entryByte given 4 + 256 * s.entryByte given 5)] with
  | refused status j => rfl
  | accepted t legalized =>
    obtain ⟨_, loader, _⟩ := writeTable_machine written
    cases legalized <;> simp [loader]

theorem entryApplied_keeps : (s.entryApplied given).resetHeld = s.resetHeld ∧ (s.entryApplied given).clock = s.clock ∧
    (s.entryApplied given).register = s.register ∧ (s.entryApplied given).ring = s.ring ∧
    (s.entryApplied given).flash = s.flash := by
  unfold State.entryApplied
  dsimp only
  split
  · exact ⟨rfl, rfl, rfl, rfl, rfl⟩
  · next t legalized written =>
    obtain ⟨held, -, flash⟩ := writeTable_machine written
    obtain ⟨clock, ring, register, -⟩ := writeTable_day written
    exact ⟨held, clock, register, ring, flash⟩

theorem loadEntry_eq (loading : s.loader.state = .loading) : s.loadEntry given =
    if 10921 ≤ s.loader.position then s.truncateLoad
    else if s.loader.count ≤ s.loader.position + 1 then (s.entryApplied given).loaderReady .loaded else s.entryApplied given := by
  have whole : s.loadEntry given = if Config.flashSize < 14 + 6 * s.loader.position then s.truncateLoad
      else if s.loader.count ≤ s.loader.position + 1 then (s.entryRead given).loaderReady .loaded else s.entryRead given :=
    if_neg (not_not_intro loading)
  have last : Config.flashSize < 14 + 6 * s.loader.position ↔ 10921 ≤ s.loader.position := by
    have size : Config.flashSize = 65536 := rfl
    omega
  rw [whole, entryRead_eq]
  exact if_congr last rfl rfl

end

/-! ## A load that ends TRUNCATED (R191) -/

theorem evaluate_notQueued {s : State} {d : Port} (free : (s.attnPort d).slot ≠ .queued) :
    ((s.evaluate d).attnPort d).slot ≠ .queued := by
  rw [evaluate_attnPort]
  dsimp only
  split
  · exact free
  · split
    next waiting => exact absurd waiting free
    next => exact nofun
    next => exact nofun

/-- The state with what a load that has ended in `t` changes. -/
def State.endedAs (outcome : LoaderOutcome) (t u : State) : State :=
  { u with
    loader := { u.loader with state := .ready, outcome := outcome }, lines := t.lines, ports := t.ports
    attn := { u.attn with ports := t.attn.ports }, counters := { u.counters with attnRefused := t.counters.attnRefused } }

/-- Re-evaluating TP's report before the load ends changes nothing of how it ends: TP comes up in any case. -/
theorem State.LoadEnded.of_evaluated {s t : State} {outcome : LoaderOutcome} (ended : (s.evaluate .tp).LoadEnded outcome t) :
    s.LoadEnded outcome t := by
  obtain ⟨frame, kept, runs, up, lines, ports⟩ := ended
  have before := s.evaluate_frame .tp
  have enabled (p : Port) : (s.evaluate .tp).portEnabled p = s.portEnabled p :=
    (congrArg (State.portEnabled · p) before).trans (by cases p <;> rfl)
  have content (b : BoardLine) : (s.evaluate .tp).lineContent b = s.lineContent b :=
    (congrArg (State.lineContent · b) before).trans rfl
  have away {p : Port} (down : t.linkUp p = false) : p ≠ .tp := by
    rintro rfl
    exact absurd ((up .tp).symm.trans down) nofun
  refine ⟨?_, State.PortsKept.trans (evaluate_portsKept s .tp) kept, fun p here => ?_, fun p => (up p).trans (enabled p), fun j => ?_, fun p =>
    ⟨fun down => ?_, fun here free => (ports p).2 here ?_⟩⟩
  · exact frame.trans ((congrArg (State.endedAs outcome t) before).trans rfl)
  · rw [runs p here, evaluate_boardRuns]
  · rw [lines j, evaluate_lines, content]
  · obtain ⟨slot, port⟩ := evaluate_other s (away down)
    rw [← slot, ← port]
    exact (ports p).1 down
  · by_cases trunk : p = .tp
    · subst trunk
      exact evaluate_notQueued free
    · rwa [(evaluate_other s trunk).1]

/-! ## The header (R189, R198) -/

/-- Byte `j` of the header, as the probe reads it (log entry 7). -/
def State.headerByte (s : State) (given j : Nat) : Byte := if j < given then s.flash.mem.read j else 0xFF

theorem header_eq (s : State) (given : Nat) : s.flashBytes given 0 5 = (List.range 5).map (s.headerByte given) := by
  rw [flashBytes_eq]
  simp only [Nat.zero_add]
  rfl

theorem headerMatches_iff (f : Nat → Byte) : headerMatches ((List.range 5).map f) = true ↔ f 0 = 0xC7 ∧ f 1 = 0x3A ∧ f 2 = 1 := by
  have bytes : (List.range 5).map f = [f 0, f 1, f 2, f 3, f 4] := rfl
  simp [headerMatches, bytes]

theorem headerCount_eq (f : Nat → Byte) : fieldAt ((List.range 5).map f) 3 2 = (f 3).toNat + 256 * (f 4).toNat := rfl

/-- The header is that of an image (R189, R198). -/
def State.HeaderMatches (s : State) (given : Nat) : Prop :=
  s.headerByte given 0 = 0xC7 ∧ s.headerByte given 1 = 0x3A ∧ s.headerByte given 2 = 1

/-- How many entries the header counts (R198). -/
def State.headerCount (s : State) (given : Nat) : Nat := (s.headerByte given 3).toNat + 256 * (s.headerByte given 4).toNat

/-- The load of an image begun (R190). -/
def State.loadStarted (s : State) (given : Nat) : State :=
  { s with loader := { s.loader with
    state := .loading, position := 0, count := s.headerCount given, silent := decide (given < 5) } }

section
variable {s : State} (probing : s.loader.state = .probing)
include probing

theorem probe_absent : s.probe none = s.loaderReady .absent := if_neg (not_not_intro probing)

theorem probe_blank {given : Nat} (foreign : ¬ s.HeaderMatches given) : s.probe (some given) = s.loaderReady .blank := by
  have unknown : headerMatches (s.flashBytes given 0 5) = false :=
    Bool.eq_false_iff.2 fun known => foreign ((headerMatches_iff _).1 (header_eq s given ▸ known))
  exact (if_neg (not_not_intro probing)).trans (if_pos (by simp [unknown]))

theorem probe_image {given : Nat} (image : s.HeaderMatches given) : s.probe (some given) =
    if s.headerCount given = 0 then (s.loadStarted given).loaderReady .loaded else s.loadStarted given := by
  have known : headerMatches (s.flashBytes given 0 5) = true := by rwa [header_eq, headerMatches_iff]
  have count : fieldAt (s.flashBytes given 0 5) 3 2 = s.headerCount given := by rw [header_eq, headerCount_eq]; rfl
  refine (if_neg (not_not_intro probing)).trans ((if_neg (by simp [known])).trans ?_)
  rw [count]
  rfl

end

/-! ## The commands of the load -/

section
variable {s : State} (released : s.resetHeld = false)
include released

/-- A probe that ends the load of `u` (R189, R193). -/
theorem loaderProbe_ends {header : Option Nat} {u : State} {outcome : LoaderOutcome} (free : u.resetHeld = false)
    (probed : s.probe header = u.loaderReady outcome) : ∃ t, exec (.loaderProbe header) s = .next t ∧ t.LinksCameUp ∧
      u.LoadEnded outcome t ∧ u.OffersRefused t := by
  have command : exec (.loaderProbe header) s = .next (s.probe header) :=
    whileReleased_released released fun s => s.probe header
  exact ⟨_, command.trans (congrArg _ probed), loaderReady_cameUp free, loaderReady_ended free, loaderReady_refused⟩

variable (given : Nat) (loading : s.loader.state = .loading)
include loading

theorem exec_loaderEntry : exec (.loaderEntry given) s = .next (if 10921 ≤ s.loader.position then s.truncateLoad
    else if s.loader.count ≤ s.loader.position + 1 then (s.entryApplied given).loaderReady .loaded else s.entryApplied given) := by
  have command : exec (.loaderEntry given) s = .next (s.loadEntry given) :=
    whileReleased_released released fun s => s.loadEntry given
  rw [command, loadEntry_eq s given loading]

theorem loaderEntry_more (fits : s.loader.position ≤ 10920) (more : s.loader.position + 1 < s.loader.count) :
    exec (.loaderEntry given) s = .next (s.entryApplied given) := by
  rw [exec_loaderEntry released given loading, if_neg (by omega), if_neg (by omega)]

theorem loaderEntry_last (fits : s.loader.position ≤ 10920) (last : s.loader.count ≤ s.loader.position + 1) :
    ∃ t, exec (.loaderEntry given) s = .next t ∧ t.LinksCameUp ∧ (s.entryApplied given).LoadEnded .loaded t ∧
      (s.entryApplied given).OffersRefused t ∧ t.clock = s.clock ∧ t.register = s.register ∧ t.ring = s.ring ∧
      t.flash = s.flash := by
  obtain ⟨held, clock, register, ring, flash⟩ := entryApplied_keeps s given
  have command := exec_loaderEntry released given loading
  have free := held.trans released
  rw [if_neg (by omega), if_pos last] at command
  exact ⟨_, command, loaderReady_cameUp free, loaderReady_ended free, loaderReady_refused, (loaderReady_clock ..).trans clock,
    (loaderReady_register ..).trans register, (loaderReady_ring ..).trans ring, (loaderReady_flash ..).trans flash⟩

theorem loaderEntry_truncated (past : 10921 ≤ s.loader.position) : ∃ t, exec (.loaderEntry given) s = .next t ∧ t.LinksCameUp ∧
    State.LoadEnded { s with attn := { s.attn with imageFault := true } } .truncated t := by
  have command := exec_loaderEntry released given loading
  rw [if_pos past] at command
  have free : (State.evaluate { s with attn := { s.attn with imageFault := true } } .tp).resetHeld = false :=
    (evaluate_resetHeld ..).trans released
  exact ⟨_, command, loaderReady_cameUp free, (loaderReady_ended free).of_evaluated⟩

end

/-- Settles O60: by the header, and by the place of the entry in the image. -/
theorem loaderLoadsTheImage : Obligations.LoaderLoadsTheImage := by
  refine ⟨?probe, ?entry, ?last, ?truncated⟩
  case probe =>
    intro s given released probing byte image count ended
    refine ⟨loaderProbe_ends released released (probe_absent probing),
      fun foreign => loaderProbe_ends released released (probe_blank probing foreign), fun image empty => ?_, fun image more => ?_⟩
    · have probed : s.probe (some given) = (s.loadStarted given).loaderReady .loaded :=
        (probe_image probing image).trans (if_pos empty)
      have none : s.headerCount given = 0 := empty
      unfold State.loadStarted at probed
      rw [none] at probed
      exact loaderProbe_ends released (u := { s with loader := { s.loader with
        position := 0, count := 0, silent := decide (given < 5) } }) released probed
    · have command : exec (.loaderProbe (some given)) s = .next (s.probe (some given)) :=
        whileReleased_released released fun s => s.probe (some given)
      exact command.trans (congrArg _ ((probe_image probing image).trans (if_neg more)))
  case entry => exact fun s given released loading more fits => loaderEntry_more released given loading fits more
  case last => exact fun s given released loading fits last => loaderEntry_last released given loading fits last
  case truncated => exact fun s given released loading past => loaderEntry_truncated released given loading past

end Sys2Proof.Machine
end

section
/-! BOARD_FRAME_OFFER: one frame of a run of offers, the frames that a run can need, and the whole run. -/

namespace Sys2Proof.Machine

/-! ## One frame of a run (R137, R138) -/

/-- The state once port `p` has taken the BOARD frame of some pending lines (R138). -/
def State.boardQueued (s : State) (p : Port) (group : List (Fin 192)) : State :=
  ((s.enqueue p ⟨s.boardFrame group, .board⟩).unmark group).count fun c => { c with boardsQueued := inc c.boardsQueued }

theorem unmark_line (s : State) (group : List (Fin 192)) (j : Fin 192) :
    (s.unmark group).lines.get j = if j ∈ group then { s.lines.get j with pending := none } else s.lines.get j := by
  simp [State.unmark]

section
variable {s : State} {p : Port} {group : List (Fin 192)}

theorem pendingOn_eq : s.pendingOn p =
    (List.finRange 192).filter fun j => (s.lines.get j).pending.isSome && decide ((s.lines.get j).port = p) :=
  List.filter_congr fun _ _ => by rw [beq_eq_decide]

theorem pendingOn_length_le : (s.pendingOn p).length ≤ 192 :=
  (List.length_filter_le ..).trans_eq List.length_finRange

theorem boardQueued_line (j : Fin 192) :
    (s.boardQueued p group).lines.get j = if j ∈ group then { s.lines.get j with pending := none } else s.lines.get j :=
  unmark_line (s.enqueue p ⟨s.boardFrame group, .board⟩) group j

/-- The lines of the frame are pending no more; every other one still is (R138). -/
theorem pendingOn_boardQueued : (s.boardQueued p group).pendingOn p = (s.pendingOn p).filter fun j => decide (j ∉ group) := by
  rw [State.pendingOn, State.pendingOn, List.filter_filter]
  refine List.filter_congr fun j _ => ?_
  rw [boardQueued_line]
  by_cases carried : j ∈ group <;> simp [carried]

theorem boardQueued_port : (s.boardQueued p group).port p =
    { s.port p with tx := (s.port p).tx ++ [⟨s.boardFrame group, .board⟩] } :=
  setPort_port_same ..

theorem boardQueued_linkUp : (s.boardQueued p group).linkUp p = s.linkUp p := linkUp_congr rfl rfl rfl p

/-- The lines of the board of the lowest pending line, that line first (R137). -/
theorem nextBoard_head {first : Fin 192} {others : List (Fin 192)} (h : s.pendingOn p = first :: others) :
    s.nextBoard p = first ::
      (others.filter fun j => decide ((s.lines.get j).address = (s.lines.get first).address)).take 15 := by
  simp [State.nextBoard, h, beq_eq_decide]

theorem nextBoard_eq {first : Fin 192} {others : List (Fin 192)} (h : s.pendingOn p = first :: others) :
    s.nextBoard p =
      ((first :: others).filter fun j => decide ((s.lines.get j).address = (s.lines.get first).address)).take 16 := by
  rw [nextBoard_head h, List.filter_cons_of_pos (by simp), List.take_succ_cons]

/-- A frame takes at least one line out of pending. -/
theorem pendingOn_boardQueued_lt (h : s.pendingOn p ≠ []) :
    ((s.boardQueued p (s.nextBoard p)).pendingOn p).length < (s.pendingOn p).length := by
  obtain ⟨first, others, waiting⟩ := List.exists_cons_of_ne_nil h
  rw [pendingOn_boardQueued]
  refine List.length_filter_lt_length_iff_exists.2 ⟨first, by simp [waiting], ?_⟩
  simp [nextBoard_head waiting]

/-! ## A run of offers (R138) -/

theorem nextBoard_isEmpty : (s.nextBoard p).isEmpty = true ↔ s.pendingOn p = [] := by
  cases h : s.pendingOn p with
  | nil => simp [State.nextBoard, h]
  | cons first others => simp [nextBoard_head h]

theorem offerBoards_none (h : s.pendingOn p = []) (n : Nat) : s.offerBoards p n = s := by
  cases n with
  | zero => rfl
  | succ n => exact if_pos (nextBoard_isEmpty.2 h)

theorem offerBoards_refused (h : s.pendingOn p ≠ []) (full : s.admits p .board = false) (n : Nat) :
    s.offerBoards p (n + 1) = s.count fun c => { c with boardsRefused := inc c.boardsRefused } :=
  (if_neg (mt nextBoard_isEmpty.1 h)).trans (if_neg (by rw [full]; decide))

theorem offerBoards_admitted (h : s.pendingOn p ≠ []) (room : s.admits p .board = true) (n : Nat) :
    s.offerBoards p (n + 1) = (s.boardQueued p (s.nextBoard p)).offerBoards p n :=
  (if_neg (mt nextBoard_isEmpty.1 h)).trans (if_pos room)

/-- A run ends by itself within as many frames as lines are pending, so a larger bound on its frames changes nothing. -/
theorem offerBoards_enough {n m : Nat} (hn : (s.pendingOn p).length ≤ n) (hm : (s.pendingOn p).length ≤ m) :
    s.offerBoards p n = s.offerBoards p m := by
  induction n generalizing s m with
  | zero =>
    have idle : s.pendingOn p = [] := List.length_eq_zero_iff.1 (Nat.le_zero.1 hn)
    rw [offerBoards_none idle, offerBoards_none idle]
  | succ n ih =>
    by_cases idle : s.pendingOn p = []
    · rw [offerBoards_none idle, offerBoards_none idle]
    · have fewer := pendingOn_boardQueued_lt idle
      obtain ⟨m, rfl⟩ : ∃ k, m = k + 1 := Nat.exists_eq_add_of_le' (by omega)
      cases room : s.admits p .board with
      | false => rw [offerBoards_refused idle room, offerBoards_refused idle room]
      | true =>
        rw [offerBoards_admitted idle room, offerBoards_admitted idle room]
        exact ih (by omega) (by omega)

/-! ## The command (R138) -/

/-- The state once the publisher owes port `p` one run of offers less. -/
def State.runTaken (s : State) (p : Port) : State := s.setPort p { s.port p with boardRuns := (s.port p).boardRuns - 1 }

theorem pendingOn_runTaken : (s.runTaken p).pendingOn p = s.pendingOn p := rfl

theorem admits_runTaken : (s.runTaken p).admits p .board = s.admits p .board := by
  rw [State.admits, State.runTaken, setPort_linkUp, setPort_port_same, State.admits]

/-- Whether the run is taken off before the frame or after it is all one. -/
theorem boardQueued_runTaken : (s.runTaken p).boardQueued p group = (s.boardQueued p group).runTaken p := by
  simp [State.boardQueued, State.runTaken, State.enqueue, State.setPort, State.unmark, State.count, State.port, put_again,
    State.boardFrame, State.boardPayload]

/-- A run that is owed on an UP link. -/
theorem exec_boardFrameOffer (released : s.resetHeld = false) (up : s.linkUp p = true) (owed : 0 < (s.port p).boardRuns) :
    exec (.boardFrameOffer p) s = .next ((s.runTaken p).offerBoards p 192) := by
  have command : exec (.boardFrameOffer p) s = .next (if s.linkUp p && decide (0 < (s.port p).boardRuns) then
      (s.runTaken p).offerBoards p 192 else s) := whileReleased_released released _
  rw [command, if_pos (by simp [up, owed])]

variable (released : s.resetHeld = false) (up : s.linkUp p = true) (owed : 0 < (s.port p).boardRuns)
include released up owed

theorem boardFrameOffer_idle (idle : s.pendingOn p = []) : exec (.boardFrameOffer p) s = .next (s.runTaken p) := by
  rw [exec_boardFrameOffer released up owed, offerBoards_none (s := s.runTaken p) idle]

theorem boardFrameOffer_full (waiting : s.pendingOn p ≠ []) (full : 48 ≤ (s.port p).tx.length) :
    exec (.boardFrameOffer p) s =
      .next ((s.runTaken p).count fun c => { c with boardsRefused := inc c.boardsRefused }) := by
  have refused : (s.runTaken p).admits p .board = false := by
    rw [admits_runTaken, Bool.eq_false_iff]
    exact fun admitted => absurd (admits_length admitted) (by omega)
  rw [exec_boardFrameOffer released up owed, offerBoards_refused (s := s.runTaken p) waiting refused]

/-- The first frame of a run, after which the run goes on. -/
theorem boardFrameOffer_continues (room : (s.port p).tx.length < 48) (waiting : s.pendingOn p ≠ []) :
    exec (.boardFrameOffer p) s = exec (.boardFrameOffer p) (s.boardQueued p (s.nextBoard p)) := by
  have admitted : (s.runTaken p).admits p .board = true := by
    rw [admits_runTaken]
    exact (admits_generated (by decide)).2 ⟨up, room⟩
  have later : 0 < ((s.boardQueued p (s.nextBoard p)).port p).boardRuns := by rw [boardQueued_port]; exact owed
  have fewer : ((s.boardQueued p (s.nextBoard p)).pendingOn p).length < 192 :=
    (pendingOn_boardQueued_lt waiting).trans_le pendingOn_length_le
  have next : (s.runTaken p).nextBoard p = s.nextBoard p := rfl
  rw [exec_boardFrameOffer released up owed,
    exec_boardFrameOffer (s := s.boardQueued p (s.nextBoard p)) released (boardQueued_linkUp.trans up) later,
    offerBoards_admitted (s := s.runTaken p) waiting admitted, next, boardQueued_runTaken,
    offerBoards_enough (n := 191) (m := 192) (by rw [pendingOn_runTaken]; omega) (by rw [pendingOn_runTaken]; omega)]

/-- A frame that carries every pending line of its port ends the run. -/
theorem boardFrameOffer_whole (room : (s.port p).tx.length < 48) (waiting : s.pendingOn p ≠ []) (whole : s.nextBoard p = s.pendingOn p) :
    exec (.boardFrameOffer p) s = .next ((s.boardQueued p (s.nextBoard p)).runTaken p) := by
  have later : 0 < ((s.boardQueued p (s.nextBoard p)).port p).boardRuns := by rw [boardQueued_port]; exact owed
  have idle : (s.boardQueued p (s.nextBoard p)).pendingOn p = [] := by
    rw [pendingOn_boardQueued, whole]
    exact List.filter_eq_nil_iff.2 fun j hj => by simp [hj]
  rw [boardFrameOffer_continues released up owed room waiting]
  exact boardFrameOffer_idle released (boardQueued_linkUp.trans up) later idle

end

/-! ## The frame in the terms of the manual (R137, R197) -/

/-- The state that takes a frame, the frame written out. -/
theorem boardQueued_eq (s : State) (p : Port) (first : Fin 192) (rest : List (Fin 192)) :
    s.boardQueued p (first :: rest) = { s with
      lines := tabulate fun j => if j ∈ first :: rest then { s.lines.get j with pending := none } else s.lines.get j
      ports := put s.ports (portIndex p) { s.port p with
        tx := (s.port p).tx ++ [⟨buildFrame 0x12 (s.lines.get first).address s.park.nodeAddress (s.boardPayload (first :: rest)), .board⟩] }
      counters := { s.counters with boardsQueued := min 65535 (s.counters.boardsQueued + 1) } } := by
  have lines : (s.boardQueued p (first :: rest)).lines =
      tabulate fun j => if j ∈ first :: rest then { s.lines.get j with pending := none } else s.lines.get j :=
    table_ext fun j => by rw [boardQueued_line, get_tabulate]
  rw [← lines]
  rfl

/-- Settles O58: the first frame of a run and what follows it; with one board and at most sixteen lines nothing follows. -/
theorem boardRunsOfferPendingLines : Obligations.BoardRunsOfferPendingLines := by
  unfold Obligations.BoardRunsOfferPendingLines
  intro waiting entry offered ended
  have pending (s : State) (p : Port) : s.pendingOn p = waiting s p := pendingOn_eq
  have queued (s : State) (p : Port) (first : Fin 192) (rest : List (Fin 192)) :
      s.boardQueued p (first :: rest) = offered s p first (first :: rest) := boardQueued_eq ..
  refine ⟨?oneBoard, ?anyBoards, fun s p released up owed => ⟨fun idle => ?idle, fun full left => ?full⟩⟩
  case oneBoard =>
    intro s p first others released up owed room head same few
    have listed := (pending s p).trans head
    have whole : s.nextBoard p = first :: others := by
      rw [nextBoard_head listed, List.filter_eq_self.2 fun j hj => decide_eq_true (same j hj), List.take_of_length_le few]
    rw [boardFrameOffer_whole released up owed room (by simp [listed]) (whole.trans listed.symm), whole, queued]
    rfl
  case anyBoards =>
    intro s p first others released up owed room head board
    have listed := (pending s p).trans head
    have group : ((first :: others).filter board).take 16 = s.nextBoard p := (nextBoard_eq listed).symm
    rw [boardFrameOffer_continues released up owed room (by simp [listed]), group, nextBoard_head listed, queued]
  case idle => exact boardFrameOffer_idle released up owed ((pending s p).trans idle)
  case full => exact boardFrameOffer_full released up owed (pending s p ▸ left) full

end Sys2Proof.Machine
end

section
/-! The publish check of a lane, and the content that its lines show. -/

namespace Sys2Proof.Machine

/-! ## The display kind (R130) -/

section
variable {l : Lane}

theorem Lane.displayKind_off {dayOpen : Bool} (h : dayOpen = false ∨ l.config.ride = 0) : l.displayKind dayOpen = .off := by
  rcases h with rfl | unused
  · rfl
  · simp [Lane.displayKind, Lane.inUse_eq_false.2 unused]

theorem Lane.displayKind_passOnly (hu : l.config.ride ≠ 0) (h : l.live.mode = .passOnly) : l.displayKind true = .passOnly := by
  simp [Lane.displayKind, Lane.inUse_eq_true.2 hu, h]

/-- A lane whose queue boards shows its wait, HELD while it is stale. -/
theorem Lane.displayKind_boarding (hu : l.config.ride ≠ 0) (h : l.live.mode = .run ∨ l.live.mode = .standbyOnly) :
    l.displayKind true = if l.live.stale = true then .held else .wait := by
  rcases h with h | h <;> simp [Lane.displayKind, Lane.inUse_eq_true.2 hu, h]

/-! ## The next return (R131, R132) -/

theorem Lane.shownNext_present {kind : DisplayKind} (h : kind = .passOnly ∨ kind = .wait ∧ l.live.mode = .run) (dayOffset n : Nat) :
    l.shownNext kind dayOffset n = l.nextReturn dayOffset n := by
  rcases h with rfl | ⟨rfl, run⟩
  · rfl
  · exact if_pos run

theorem Lane.shownNext_absent {kind : DisplayKind} (h : ¬ (kind = .passOnly ∨ kind = .wait ∧ l.live.mode = .run))
    (dayOffset n : Nat) : l.shownNext kind dayOffset n = .absent := by
  cases kind with
  | passOnly => exact absurd (.inl rfl) h
  | wait => exact if_neg fun run => h (.inr ⟨rfl, run⟩)
  | off | closed | down | held => rfl

/-! ## The publish check (R133, R135) -/

theorem le_distance {a b m : Nat} (hm : 1 ≤ m) : m ≤ distance a b ↔ a + m ≤ b ∨ b + m ≤ a := by
  unfold distance
  omega

theorem Lane.checkPublishes_iff {dayOpen : Bool} {dayOffset n refresh : Nat} :
    l.checkPublishes dayOpen dayOffset n refresh = true ↔
      l.displayKind dayOpen ≠ l.publish.kind ∨
      ((l.displayKind dayOpen = .wait ∨ l.displayKind dayOpen = .held) ∧
        (l.live.posted + max l.config.changeThreshold 1 ≤ l.publish.lastPublished ∨
          l.publish.lastPublished + max l.config.changeThreshold 1 ≤ l.live.posted)) ∨
      l.shownNext (l.displayKind dayOpen) dayOffset n ≠ l.publish.next ∨ l.config.refreshCount ≤ refresh := by
  simp only [Lane.checkPublishes, Bool.or_eq_true, Bool.and_eq_true, bne_iff_ne, beq_iff_eq, decide_eq_true_iff,
    le_distance (Nat.le_max_right _ 1), or_assoc]

theorem Lane.publishCheck_due {dayOpen : Bool} {dayOffset n : Nat} (h : l.checkPublishes dayOpen dayOffset n l.grownRefresh = true) :
    l.publishCheck dayOpen dayOffset n = (l.published dayOpen dayOffset n, true) := if_pos h

theorem Lane.publishCheck_idle {dayOpen : Bool} {dayOffset n : Nat} (h : ¬ l.checkPublishes dayOpen dayOffset n l.grownRefresh = true) :
    l.publishCheck dayOpen dayOffset n = ({ l with publish := { l.publish with refresh := l.grownRefresh } }, false) := if_neg h

end

/-! ## What a line shows (R129, R131) -/

theorem contentOf_eq (kind : DisplayKind) (posted : Nat) (next : NextReturn) : contentOf kind posted next =
    ⟨kind, if kind = .wait ∨ kind = .held then some posted else none, if kind = .passOnly ∨ kind = .wait then next else .absent⟩ := by
  cases kind <;> rfl

theorem lineContent_off {s : State} {b : BoardLine} (h : s.clock.day = .shut ∨ (s.lane b.lane).config.ride = 0) :
    s.lineContent b = ⟨.off, none, .absent⟩ := by
  rcases h with shut | unused
  · rw [State.lineContent, Lane.currentContent, State.dayOpen_eq_false.2 shut]
    rfl
  · exact Lane.currentContent_unused unused _

theorem lineContent_published {s : State} {b : BoardLine} (h : ¬ (s.clock.day = .shut ∨ (s.lane b.lane).config.ride = 0)) :
    s.lineContent b = (s.lane b.lane).publish.content := by
  obtain ⟨day, used⟩ := not_or.1 h
  have dayOpen : s.dayOpen = true := Bool.eq_true_of_not_eq_false (mt State.dayOpen_eq_false.1 day)
  rw [State.lineContent, Lane.currentContent, dayOpen, Lane.inUse_eq_true.2 used]
  rfl

/-- Settles O59: the conditions of the check are those of R133 on the kind and the next return of the lane. -/
theorem publishCheckDecides : Obligations.PublishCheckDecides := by
  refine ⟨fun l dayOpen dayOffset n => ?check, contentOf_eq, fun s b => ?line⟩
  case check =>
    intro kind next grown due
    have shown : kind = l.displayKind dayOpen := by
      by_cases off : dayOpen = false ∨ l.config.ride = 0
      · exact (if_pos off).trans (Lane.displayKind_off off).symm
      · obtain ⟨day, used⟩ := not_or.1 off
        obtain rfl : dayOpen = true := Bool.eq_true_of_not_eq_false day
        refine (if_neg off).trans ?_
        cases mode : l.live.mode with
        | closed => exact (Lane.displayKind_closed used mode).symm
        | down => exact (Lane.displayKind_down used mode).symm
        | passOnly => exact (Lane.displayKind_passOnly used mode).symm
        | run => exact (Lane.displayKind_boarding used (.inl mode)).symm
        | standbyOnly => exact (Lane.displayKind_boarding used (.inr mode)).symm
    have returns : next = l.shownNext kind dayOffset n := by
      by_cases present : kind = .passOnly ∨ kind = .wait ∧ l.live.mode = .run
      · exact (if_pos present).trans (Lane.shownNext_present present ..).symm
      · exact (if_neg present).trans (Lane.shownNext_absent present ..).symm
    have decides : l.checkPublishes dayOpen dayOffset n l.grownRefresh = true ↔ due := by
      rw [Lane.checkPublishes_iff, ← shown, ← returns]
      rfl
    refine ⟨fun h => ?_, fun h => Lane.publishCheck_idle (mt decides.1 h)⟩
    rw [Lane.publishCheck_due (decides.2 h), Lane.published, ← shown, ← returns]
  case line =>
    intro l
    by_cases off : s.clock.day = .shut ∨ l.config.ride = 0
    · exact (lineContent_off off).trans (if_pos off).symm
    · exact (lineContent_published off).trans (if_neg off).symm

end Sys2Proof.Machine
end

section
/-! The operating day and park time: the seconds and the boundaries they owe, the clock's ranges kept by every step, the latch of
CLOCK_END, and the event time of a stamp. -/

namespace Sys2Proof.Machine

/-! ## What a second owes (R150, R151) -/

theorem ParkClock.reach_eq (c : ParkClock) (ops period : Nat) : c.reach ops period =
    { c with
      ops := ops
      minutesDue := c.minutesDue ++ if ops % 60 = 0 then [ops / 60] else []
      periodsDue := c.periodsDue ++ if ops % period = 0 then [⟨ops, period⟩] else []
      clockEndDue := c.clockEndDue || decide (ops = 172799) } := by
  unfold ParkClock.reach
  congr 1
  · split
    · rfl
    · exact (List.append_nil _).symm
  · split
    · rfl
    · exact (List.append_nil _).symm

theorem ParkClock.mem_reach_minutesDue {c : ParkClock} {ops period m : Nat} :
    m ∈ (c.reach ops period).minutesDue ↔ m ∈ c.minutesDue ∨ ops % 60 = 0 ∧ m = ops / 60 := by
  rw [ParkClock.reach_eq, List.mem_append, List.mem_ite_nil_right, List.mem_singleton]

theorem ParkClock.mem_reach_periodsDue {c : ParkClock} {ops period : Nat} {d : PeriodDue} :
    d ∈ (c.reach ops period).periodsDue ↔ d ∈ c.periodsDue ∨ ops % period = 0 ∧ d = ⟨ops, period⟩ := by
  rw [ParkClock.reach_eq, List.mem_append, List.mem_ite_nil_right, List.mem_singleton]

theorem second_of_open {s : State} (hd : s.clock.day = .opened) (ho : s.clock.ops < 172799) :
    s.second = { s with clock := s.clock.reach (s.clock.ops + 1) s.park.period } :=
  if_pos (by rw [State.dayOpen_eq_true.2 hd, Bool.true_and]; exact decide_eq_true ho)

theorem second_of_stopped {s : State} (h : s.clock.day = .shut ∨ 172799 ≤ s.clock.ops) : s.second = s := by
  refine if_neg fun runs => ?_
  obtain ⟨day, below⟩ := Bool.and_eq_true_iff.1 runs
  rcases h with shut | stopped
  · rw [State.dayOpen_eq_false.2 shut] at day
    cases day
  · exact absurd (of_decide_eq_true below) (Nat.not_lt.2 stopped)

/-- Settles O16: a second of a running clock, and one that finds it stopped. -/
theorem secondsAdvanceAndStop : Obligations.SecondsAdvanceAndStop := by
  refine ⟨fun s released day below => ?_, fun s stopped => ?_⟩
  · rw [exec, execSecondArrival, whileReleased_released released, second_of_open day below, ParkClock.reach_eq]
  · rw [exec, execSecondArrival, whileReleased, second_of_stopped stopped, ite_self]

/-! ## The clock's ranges (R146, R150, R151, R153) -/

/-- The law speaks of OPS, DO and the boundaries owed, so it holds of a later state with the same OPS and DO that owes no other
boundary. -/
theorem State.ClockLaw.of_owed {s t : State} (h : s.ClockLaw) (ops : t.clock.ops = s.clock.ops)
    (offset : t.clock.dayOffset = s.clock.dayOffset) (minutes : t.clock.minutesDue ⊆ s.clock.minutesDue)
    (periods : t.clock.periodsDue ⊆ s.clock.periodsDue) : t.ClockLaw := by
  obtain ⟨last, day, whole, minute, period⟩ := h
  unfold State.ClockLaw
  rw [ops, offset]
  exact ⟨last, day, whole, fun m hm => minute m (minutes hm), fun d hd => period d (periods hd)⟩

theorem State.ClockLaw.of_clock {s t : State} (h : s.ClockLaw) (e : t.clock = s.clock) : t.ClockLaw :=
  h.of_owed (by rw [e]) (by rw [e]) (by rw [e]; exact List.Subset.refl _) (by rw [e]; exact List.Subset.refl _)

/-- The second that OPS reaches is the second at which its boundaries fall, and it is above 0. -/
theorem State.ClockLaw.second {s : State} (h : s.ClockLaw) (below : s.clock.ops < 172799) :
    State.ClockLaw { s with clock := s.clock.reach (s.clock.ops + 1) s.park.period } := by
  obtain ⟨-, day, whole, minute, period⟩ := h
  refine ⟨below, day, whole, fun m hm => ?_, fun d hd => ?_⟩
  · change 1 ≤ m ∧ 60 * m ≤ s.clock.ops + 1
    rcases ParkClock.mem_reach_minutesDue.1 hm with owed | ⟨falls, rfl⟩
    · have := minute m owed
      omega
    · omega
  · change 1 ≤ d.ops ∧ d.ops ≤ s.clock.ops + 1 ∧ d.ops % d.period = 0
    rcases ParkClock.mem_reach_periodsDue.1 hd with owed | ⟨falls, rfl⟩
    · obtain ⟨first, reached, whole⟩ := period d owed
      exact ⟨first, Nat.le_succ_of_le reached, whole⟩
    · exact ⟨Nat.succ_pos _, Nat.le_refl _, falls⟩

theorem storedOffset_whole (w : Nat) : storedOffset w ≤ 86340 ∧ storedOffset w % 60 = 0 := by
  unfold storedOffset
  split <;> omega

theorem voidRecord_clock (s : State) (i : Fin 64) (r : PassRecord) : (s.voidRecord i r).clock = s.clock := by
  unfold State.voidRecord
  dsimp only
  repeat' split
  all_goals rfl

/-- A day just opened stands at second 0 under a stored offset, and owes no boundary. -/
theorem dayBuilt_clockLaw (s : State) (w : Nat) : (s.dayBuilt (storedOffset w)).ClockLaw :=
  ⟨Nat.zero_le _, (storedOffset_whole w).1, (storedOffset_whole w).2, nofun, nofun⟩

theorem Evolves.clockLaw {s t : State} (h : Evolves s t) (hs : s.ClockLaw) : t.ClockLaw := by
  induction h with
  | keep h =>
    refine hs.of_owed ?_ ?_ ?_ ?_ <;> rw [h.clock]
    · exact .refl _
    · exact .refl _
  | trans _ _ ih1 ih2 => exact ih2 (ih1 hs)
  | power s => exact ⟨Nat.zero_le _, Nat.zero_le _, rfl, nofun, nofun⟩
  | second _ below => exact hs.second below
  | minute owed => exact hs.of_owed rfl rfl (by rw [owed]; exact List.subset_cons_self ..) (.refl _)
  | period owed => exact hs.of_owed rfl rfl (.refl _) (by rw [owed]; exact List.subset_cons_self ..)
  | built _ offset => exact dayBuilt_clockLaw _ offset
  | emptied => exact hs.of_owed rfl rfl (List.nil_subset _) (List.nil_subset _)
  | void => exact hs.of_clock (voidRecord_clock ..)
  | resolve => exact hs.of_clock (resolveHead_clock _)
  | write h => exact hs.of_clock (writeTable_day h).1
  | ring | mode | issue | redeem | redeemCarried => exact hs.of_clock rfl

/-- Settles O5: every change of the day keeps the law, and a step makes changes alone. -/
theorem stepKeepsClockLaw : Obligations.StepKeepsClockLaw := fun _ _ hs h => (step_evolves h).clockLaw hs

/-! ## CLOCK_END (R152, R164) -/

/-- A source that is routed to the trunk alone shows in the trunk's report alone, which is re-evaluated (R162, R164). -/
theorem evaluateTrunk_reportsFollow {s u : State} (slots : ∀ d, u.attnPort d = s.attnPort d)
    (queues : ∀ d, (u.port d).tx = (s.port d).tx) (zones : ∀ z, u.report (.sp z) = s.report (.sp z)) :
    s.ReportsFollow (u.evaluate .tp) :=
  evaluateEach_reportsFollow (ds := [.tp]) slots queues fun d other => by
    cases d with
    | tp => exact absurd (List.mem_singleton.2 rfl) other
    | sp z => exact zones z

/-- Settles O24: the latch, and the trunk's report evaluated. -/
theorem clockEndIsLatched : Obligations.ClockEndIsLatched := by
  intro s released due
  let u : State := { s with clock := { s.clock with clockEndDue := false }, attn := { s.attn with clockEnd := true } }
  have command : exec .clockEndLatch s = .next (u.evaluate .tp) := by
    rw [exec, execClockEndLatch, whileReleased_released released, if_pos due]
  have only : u.OnlyReports (u.evaluate .tp) := evaluate_onlyReports u .tp
  have latched : (u.evaluate .tp).attn.clockEnd = true := congrArg (·.attn.clockEnd) only.1
  have taken : (u.evaluate .tp).clock.clockEndDue = false := by rw [evaluate_clock]
  have last : ((u.evaluate .tp).attnPort .tp).last = (u.evaluate .tp).report .tp :=
    (evaluate_last ..).trans (evaluate_report ..).symm
  exact ⟨_, command, latched, taken, only, last, evaluateTrunk_reportsFollow (fun _ => rfl) (fun _ => rfl) fun _ => rfl⟩

/-! ## Event times (R155, R156) -/

theorem stampLag_cast (a dayOffset stamp : Nat) (trim : Int) :
    (stampLag a dayOffset stamp trim : Int) = ((a : Int) + dayOffset - ((stamp : Int) + trim) % 86400) % 86400 := by
  rw [stampLag, Int.natCast_add]
  exact Int.toNat_of_nonneg (Int.emod_nonneg _ (by decide))

section
variable {a dayOffset stamp : Nat} {trim : Int}

theorem eventTime_ahead (lateness : Nat) (ahead : 43200 < stampLag a dayOffset stamp trim) :
    eventTime a dayOffset stamp lateness trim = (a, .ahead) := if_pos ahead

theorem eventTime_behind (lateness : Nat) (behind : stampLag a dayOffset stamp trim ≤ 43200) :
    eventTime a dayOffset stamp lateness trim =
      (a - min (stampLag a dayOffset stamp trim) (60 * lateness),
        if 60 * lateness < stampLag a dayOffset stamp trim then .clamped else .inTime) := if_neg (Nat.not_lt.2 behind)

end

theorem eventTime_le (a dayOffset stamp lateness : Nat) (trim : Int) : (eventTime a dayOffset stamp lateness trim).1 ≤ a := by
  by_cases ahead : 43200 < stampLag a dayOffset stamp trim
  · rw [eventTime_ahead lateness ahead]
  · rw [eventTime_behind lateness (Nat.not_lt.1 ahead)]
    exact Nat.sub_le ..

/-- Settles O38: a reader ahead and one behind, in the lag that the model computes in natural numbers. -/
theorem eventTimeOfAStamp : Obligations.EventTimeOfAStamp := by
  refine ⟨fun a dayOffset stamp lateness trim => ?times, fun s segment stamp receipt => rfl, fun c => ⟨rfl, rfl, rfl⟩⟩
  case times =>
    intro c lag event
    have cast : (stampLag a dayOffset stamp trim : Int) = lag := stampLag_cast ..
    refine ⟨fun ahead => eventTime_ahead lateness (by omega), fun behind => ?_, eventTime_le ..⟩
    have value : event = _ := eventTime_behind lateness (by omega)
    rw [value, ← cast]
    refine ⟨?_, if_congr (by omega) rfl rfl⟩
    dsimp only
    omega

end Sys2Proof.Machine
end

section
/-! CLEAR_ATTENTION and INJECT_NOTICE: what a request names, what is cleared and counted, and the reports that follow. -/

namespace Sys2Proof.Machine

/-! ## What a request names (R168, R196) -/

theorem hasKind_ofNat (set : Nat) (k : AttnKind) : hasKind (BitVec.ofNat 16 set) k = set.testBit (kindNumber k - 1) := by
  have inSet : kindNumber k - 1 < 16 := by cases k <;> decide
  rw [hasKind, BitVec.getLsbD_ofNat, decide_eq_true inSet, Bool.true_and]

theorem toNat_eq_absent {b : Byte} : b.toNat = 255 ↔ b = 0xFF := (BitVec.toNat_inj (y := 0xFF#8))

theorem namedOrAll_byte (b : Byte) (i : Nat) : namedOrAll b.toNat i = decide (b = 0xFF ∨ b.toNat = i) := by
  rw [Bool.eq_iff_iff]
  simp [namedOrAll, toNat_eq_absent]

/-- A CLEAR_ATTENTION names the COUNT_SKEW of lane `i`: the kind, a lane that the trunk has, and that lane or none (R168). -/
def State.trunkSkewNamed (s : State) (set : Nat) (lane : Byte) (i : Fin 64) : Bool :=
  set.testBit 5 && decide (s.laneRoute .countSkew i = .tp) && decide (lane = 0xFF ∨ lane.toNat = i.val)

/-- A CLEAR_ATTENTION names the notice of zone `z`: the kind, and that zone or none (R168). -/
def noticeNamed (set : Nat) (zone : Byte) (z : Fin 6) : Bool :=
  set.testBit 9 && decide (zone = 0xFF ∨ zone.toNat = z.val)

section
variable (set : Nat) (lane zone : Byte)

theorem fieldAt_clearArgs_set (inRange : set < 65536) : fieldAt (le16 set ++ [lane, zone]) 0 2 = set := fromLe_le16 inRange

theorem fieldAt_clearArgs_lane : fieldAt (le16 set ++ [lane, zone]) 2 1 = lane.toNat := fieldAt_byte ..

theorem fieldAt_clearArgs_zone : fieldAt (le16 set ++ [lane, zone]) 3 1 = zone.toNat := fieldAt_byte ..

end

/-! ## What is cleared (R168) -/

section
variable (s : State) (set : Nat) (lane zone : Byte)

/-- The state with the sources cleared that a CLEAR_ATTENTION names. -/
def State.attentionCleared : State := s.clearSources (BitVec.ofNat 16 set) lane.toNat zone.toNat

theorem clearsSkew_eq (i : Fin 64) : (hasKind (BitVec.ofNat 16 set) .countSkew && s.clearsSkew lane.toNat i) =
    ((s.lane i).countSkew && s.trunkSkewNamed set lane i) := by
  simp only [State.clearsSkew, State.trunkSkewNamed, hasKind_countSkew, namedOrAll_byte, Bool.and_assoc, Bool.and_left_comm]

theorem attentionCleared_lane (i : Fin 64) : (s.attentionCleared set lane zone).lane i =
    { s.lane i with countSkew := (s.lane i).countSkew && !s.trunkSkewNamed set lane i } := by
  refine (get_tabulate ..).trans ?_
  rw [clearsSkew_eq]
  split
  · next clears => rw [(Bool.and_eq_true_iff.1 clears).2, Bool.not_true, Bool.and_false]
  · next spares =>
    have kept : ((s.lane i).countSkew && !s.trunkSkewNamed set lane i) = (s.lane i).countSkew := by simpa using spares
    rw [kept]

theorem attentionCleared_attn : (s.attentionCleared set lane zone).attn = { s.attn with
    imageFault := s.attn.imageFault && !set.testBit 0
    registerFull := s.attn.registerFull && !set.testBit 2
    clockEnd := s.attn.clockEnd && !set.testBit 8
    overruns := (s.attentionCleared set lane zone).attn.overruns
    notices := (s.attentionCleared set lane zone).attn.notices } := by
  simp only [State.attentionCleared, State.clearSources, hasKind_ofNat, kindNumber]

theorem attentionCleared_overruns (p : Fin 7) :
    (s.attentionCleared set lane zone).attn.overruns.get p = (s.attn.overruns.get p && !set.testBit 3) := by
  refine (get_tabulate ..).trans ?_
  rw [hasKind_ofNat]
  rfl

theorem attentionCleared_notices (z : Fin 6) : (s.attentionCleared set lane zone).attn.notices.get z =
    if noticeNamed set zone z = true then none else s.attn.notices.get z := by
  refine (get_tabulate ..).trans ?_
  rw [hasKind_ofNat, namedOrAll_byte]
  rfl

end

/-! ## How many sources are cleared (R168) -/

theorem flagCode_cleared (named latched : Bool) :
    flagCode latched = (if named = true ∧ latched = true then 1 else 0) + flagCode (latched && !named) := by
  cases named <;> cases latched <;> rfl

/-- Of the members that had a source, those named are cleared and the others keep theirs. -/
theorem length_filter_cleared {α : Type} (l : List α) (named had : α → Bool) : (l.filter had).length =
    (l.filter fun x => named x && had x).length + (l.filter fun x => had x && !named x).length := by
  rw [List.length_eq_length_filter_add named, List.filter_filter, List.filter_filter]
  simp only [Bool.and_comm]

theorem length_filter_toList {α : Type} {n : Nat} (v : Vector α n) (p : α → Bool) :
    (v.toList.filter p).length = ((List.finRange n).filter fun i => p (v.get i)).length := by
  have entries : v.toList = (List.finRange n).map v.get :=
    List.ext_getElem (by simp) fun i _ _ => by simp [get_eq_getElem]
  rw [entries, List.filter_map, List.length_map]
  rfl

theorem latchedSources_eq (s : State) : s.latchedSources =
    flagCode s.attn.imageFault + flagCode s.attn.registerFull + flagCode s.attn.clockEnd +
      ((List.finRange 7).filter fun p => s.attn.overruns.get p).length +
      ((List.finRange 64).filter fun i => (s.lane i).countSkew).length +
      ((List.finRange 6).filter fun z => (s.attn.notices.get z).isSome).length := by
  rw [State.latchedSources, length_filter_toList, length_filter_toList]
  rfl

section
variable (s : State) (set : Nat) (lane zone : Byte)

/-- How many sources a CLEAR_ATTENTION clears: of the kinds named, the park kinds, the ports, the lanes and the zones that hold one. -/
def State.clearedSources : Nat :=
  let park := fun (bit : Nat) (latched : Bool) => if set.testBit bit = true ∧ latched = true then 1 else 0
  park 0 s.attn.imageFault + park 2 s.attn.registerFull + park 8 s.attn.clockEnd +
    ((List.finRange 7).filter fun p => set.testBit 3 && s.attn.overruns.get p).length +
    ((List.finRange 64).filter fun i => s.trunkSkewNamed set lane i && (s.lane i).countSkew).length +
    ((List.finRange 6).filter fun z => noticeNamed set zone z && (s.attn.notices.get z).isSome).length

/-- Each source is cleared or kept. -/
theorem latchedSources_split : s.latchedSources =
    s.clearedSources set lane zone + (s.attentionCleared set lane zone).latchedSources := by
  have kept (z : Fin 6) : ((s.attentionCleared set lane zone).attn.notices.get z).isSome =
      ((s.attn.notices.get z).isSome && !noticeNamed set zone z) := by
    rw [attentionCleared_notices]
    cases noticeNamed set zone z <;> simp
  have image := flagCode_cleared (set.testBit 0) s.attn.imageFault
  have full := flagCode_cleared (set.testBit 2) s.attn.registerFull
  have clock := flagCode_cleared (set.testBit 8) s.attn.clockEnd
  have ports := length_filter_cleared (List.finRange 7) (fun _ => set.testBit 3) fun p => s.attn.overruns.get p
  have lanes := length_filter_cleared (List.finRange 64) (s.trunkSkewNamed set lane) fun i => (s.lane i).countSkew
  have zones := length_filter_cleared (List.finRange 6) (noticeNamed set zone) fun z => (s.attn.notices.get z).isSome
  rw [latchedSources_eq, latchedSources_eq, attentionCleared_attn]
  simp only [attentionCleared_overruns, attentionCleared_lane, kept, State.clearedSources]
  omega

end

/-! ## The reports (R162, R164) -/

/-- A zone's report shows the lanes pending at the zone, by the zone's enable set, and the zone's notice (R164). -/
theorem zoneReport_congr {s t : State} {z : Fin 6} (lanes : ∀ k, t.pendingLanes k (.sp z) = s.pendingLanes k (.sp z))
    (segments : t.segments = s.segments) (notice : t.attn.notices.get z = s.attn.notices.get z) :
    t.report (.sp z) = s.report (.sp z) := by
  have segment : t.segment z = s.segment z := congrArg (·.get z) segments
  have enables : t.enableSet (.sp z) = s.enableSet (.sp z) := congrArg Segment.zoneEnables segment
  have sources (k : AttnKind) : t.pendingSources (.sp z) k = s.pendingSources (.sp z) k := by
    cases k with
    | imageFault | registerFull | clockEnd | grantHeld | portOverrun => rfl
    | laneDown | laneStale | countSkew | grantLow => simp only [State.pendingSources, lanes]
    | zoneNotice => simp only [State.pendingSources, notice]
  have kinds : t.kindReport (.sp z) = s.kindReport (.sp z) := funext fun k => by simp only [State.kindReport, enables, sources]
  simp only [State.report, State.reportNotice, kinds, segment, notice]

section
variable (s : State) (set : Nat) (lane zone : Byte)

/-- A lane that is routed to a zone keeps its sources: COUNT_SKEW is cleared at the trunk's lanes alone (R168). -/
theorem attentionCleared_pendingLanes (k : AttnKind) (z : Fin 6) :
    (s.attentionCleared set lane zone).pendingLanes k (.sp z) = s.pendingLanes k (.sp z) := by
  have route (i : Fin 64) : (s.attentionCleared set lane zone).laneRoute k i = s.laneRoute k i :=
    laneRoute_congr (s := s) (t := s.attentionCleared set lane zone) rfl (fun j => by rw [attentionCleared_lane]) k i
  refine congrArg (List.map Fin.val) (List.filter_congr fun i _ => ?_)
  rw [route]
  by_cases here : s.laneRoute k i = .sp z
  · refine congrArg (· && _) (laneKindPending_congr (s := s) (u := s.attentionCleared set lane zone) rfl ?ride k ?sources)
    case ride => rw [attentionCleared_lane]
    case sources =>
      rw [attentionCleared_lane]
      cases k with
      | countSkew => simp [State.trunkSkewNamed, here]
      | _ => trivial
  · simp [here]

/-- The zones whose notice a CLEAR_ATTENTION clears. -/
def State.noticesCleared : List (Fin 6) :=
  (List.finRange 6).filter fun z => s.attn.notices.get z != (s.attentionCleared set lane zone).attn.notices.get z

theorem mem_noticesCleared {z : Fin 6} : z ∈ s.noticesCleared set lane zone ↔
    noticeNamed set zone z = true ∧ s.attn.notices.get z ≠ none := by
  simp [State.noticesCleared, attentionCleared_notices]

/-- The trunk and the zones whose notice is cleared are the destinations whose report can change. -/
theorem attentionCleared_reportsFollow : s.ReportsFollow
    ((s.attentionCleared set lane zone).evaluateEach (.tp :: (s.noticesCleared set lane zone).map .sp)) :=
  evaluateEach_reportsFollow (fun _ => rfl) (fun _ => rfl) fun d still => by
    cases d with
    | tp => exact absurd List.mem_cons_self still
    | sp z =>
      refine zoneReport_congr (attentionCleared_pendingLanes s set lane zone · z) rfl ?_
      rw [attentionCleared_notices, ite_eq_right_iff]
      intro named
      by_contra held
      have cleared := (mem_noticesCleared s set lane zone).2 ⟨named, Ne.symm held⟩
      exact still (List.mem_cons_of_mem _ (List.mem_map_of_mem cleared))

end

/-! ## The requests (R167, R168) -/

section
variable (s : State) {set : Nat} {lane zone : Byte}

theorem carryClearAttention_clears (inRange : set < 65536) (laneOk : lane.toNat ≤ 63 ∨ lane = 0xFF)
    (zoneOk : zone.toNat ≤ 5 ∨ zone = 0xFF) :
    carryClearAttention (le16 set ++ [lane, zone]) s =
      ⟨(s.attentionCleared set lane zone).evaluateEach (.tp :: (s.noticesCleared set lane zone).map .sp), .ok,
        [byteOf (s.clearedSources set lane zone)], false⟩ := by
  have count : s.latchedSources - (s.attentionCleared set lane zone).latchedSources = s.clearedSources set lane zone := by
    rw [latchedSources_split s set lane zone, Nat.add_sub_cancel]
  rw [← toNat_eq_absent] at laneOk zoneOk
  rw [carryClearAttention, withLength_eq (n := 4) rfl, fieldAt_clearArgs_set _ _ _ inRange, fieldAt_clearArgs_lane, fieldAt_clearArgs_zone,
    if_neg (by omega), ← count]
  rfl

theorem carryClearAttention_refused (bad : (63 < lane.toNat ∧ lane ≠ 0xFF) ∨ (5 < zone.toNat ∧ zone ≠ 0xFF)) :
    carryClearAttention (le16 set ++ [lane, zone]) s = refuse s .badIndex (unstated codeClearAttention 0 1) := by
  rw [← toNat_eq_absent.ne, ← toNat_eq_absent.ne] at bad
  rw [carryClearAttention, withLength_eq (n := 4) rfl, fieldAt_clearArgs_lane, fieldAt_clearArgs_zone]
  exact if_pos bad

end

section
variable (s : State) (zone code : Byte)

/-- The state with a notice pending at zone `z` (R167). -/
def State.withNotice (s : State) (z : Fin 6) (code : Byte) : State :=
  { s with attn := { s.attn with notices := put s.attn.notices z (some code.toNat) } }

theorem carryInjectNotice_notes {z : Fin 6} (here : z.val = zone.toNat) :
    carryInjectNotice [zone, code] s = ⟨(s.withNotice z code).evaluate (.sp z), .ok, [zone, code], false⟩ := by
  have field : fieldAt [zone, code] 0 1 = z.val := (fieldAt_byte ..).trans here.symm
  have given : fieldAt [zone, code] 1 1 = code.toNat := fieldAt_byte ..
  rw [carryInjectNotice, withLength_eq (n := 2) rfl]
  simp only [field, given, z.isLt, dite_true]
  rfl

theorem carryInjectNotice_refused (bad : 5 < zone.toNat) :
    carryInjectNotice [zone, code] s = refuse s .badIndex (absentByte :: unstated codeInjectNotice 1 1) := by
  have field : fieldAt [zone, code] 0 1 = zone.toNat := fieldAt_byte ..
  rw [carryInjectNotice, withLength_eq (n := 2) rfl]
  exact dif_neg (by omega)

/-- A notice shows in the report of its zone alone (R164). -/
theorem withNotice_reportsFollow (z : Fin 6) : s.ReportsFollow ((s.withNotice z code).evaluate (.sp z)) :=
  evaluateEach_reportsFollow (ds := [.sp z]) (fun _ => rfl) (fun _ => rfl) fun d other => by
    cases d with
    | tp => rfl
    | sp y =>
      have ne : y ≠ z := fun same => other (same ▸ List.mem_singleton_self _)
      exact zoneReport_congr (fun _ => rfl) rfl (get_put_other _ _ ne)

end

/-- Settles O45: the sources cleared and counted with the reports of the trunk and of the zones concerned, the notice made pending with
the report of its zone, and the refusals of R168 and R167. -/
theorem clearsAndNotices : Obligations.ClearsAndNotices := by
  refine ⟨fun s h set lane zone inRange laneOk zoneOk => ?clears, fun s h set lane zone _ bad => ?clearRefused,
    fun s h zone code => ?notices⟩
  case clears =>
    intro args req named skew notice park cleared taken
    let u := s.atRequest.attentionCleared set lane zone
    let ds : List Port := .tp :: (s.atRequest.noticesCleared set lane zone).map .sp
    have command : exec (.clearAttention h args) s = .next ((u.evaluateEach ds).reply req .ok [byteOf cleared] false) :=
      takeRequest_answered taken (carryClearAttention_clears s.atRequest inRange laneOk zoneOk)
    have last (d : Port) (here : d ∈ ds) : ((u.evaluateEach ds).attnPort d).last = (u.evaluateEach ds).report d :=
      (evaluateEach_last u here).trans (evaluateEach_report ..).symm
    have zones (z : Fin 6) (isNamed : notice z = true) (pending : s.attn.notices.get z ≠ none) : .sp z ∈ ds :=
      List.mem_cons_of_mem _ (List.mem_map_of_mem ((mem_noticesCleared s.atRequest set lane zone).2 ⟨isNamed, pending⟩))
    exact ⟨u, u.evaluateEach ds, command, evaluateEach_onlyReports u ds, rfl, attentionCleared_lane s.atRequest set lane zone,
      attentionCleared_attn s.atRequest set lane zone, attentionCleared_overruns s.atRequest set lane zone,
      attentionCleared_notices s.atRequest set lane zone, last .tp List.mem_cons_self,
      fun z isNamed pending => last (.sp z) (zones z isNamed pending),
      attentionCleared_reportsFollow s.atRequest set lane zone⟩
  case clearRefused => exact fun taken => ⟨_, takeRequest_refused taken (carryClearAttention_refused s.atRequest bad)⟩
  case notices =>
    intro req taken
    refine ⟨fun z here => ?_, fun bad => ?_⟩
    · exact ⟨_, takeRequest_answered taken (carryInjectNotice_notes s.atRequest zone code here), evaluate_onlyReports ..,
        (evaluate_last ..).trans (evaluate_report ..).symm, withNotice_reportsFollow s.atRequest code z⟩
    · exact ⟨_, rfl, takeRequest_refused taken (carryInjectNotice_refused s.atRequest zone code bad)⟩

end Sys2Proof.Machine
end

section
/-! The commands that leave the flash as it is, by what each of their operations leaves. -/

namespace Sys2Proof.Machine

/-! ## What the commands share -/

section
variable {s t : State}

theorem writeTable_flash {code index : Nat} {pairs : List (Nat × Nat)} {legalized : Bool}
    (h : s.writeTable code index pairs = .accepted t legalized) : t.flash = s.flash := (writeTable_machine h).2.2

@[simp] theorem giveGrantHeld_flash (s t : State) : (s.giveGrantHeld t).flash = t.flash :=
  (congrArg State.flash (s.giveGrantHeld_frame t) :)

theorem withLength_flash {args : List Byte} {n : Nat} {bad : List Byte} {f : Unit → Carried}
    (hf : (f ()).state.flash = s.flash) : (withLength args n s bad f).state.flash = s.flash := by
  unfold withLength
  split
  · exact hf
  · rfl

theorem whileReleased_flash {f : State → State} (h : whileReleased s f = .next t) (hf : (f s).flash = s.flash) :
    t.flash = s.flash :=
  whileReleased_keeps (P := fun u => u.flash = s.flash) h rfl fun _ => hf

theorem takeAction_flash {a : ScanAction} {i : Fin 64} {f : State → State}
    (h : takeAction a s (fun s => s.onLaneInUse i f) = .next t) (hf : ∀ u : State, (f u).flash = u.flash) :
    t.flash = s.flash := by
  refine takeAction_keeps (P := fun u => u.flash = s.flash) h rfl fun _ => ?_
  unfold State.onLaneInUse
  split
  · exact hf (s.atAction a)
  · rfl

theorem takeRequest_flash {req : MgmtRequest} {f : State → Carried} (h : takeRequest req s f = .next t)
    (hf : ∀ u : State, (f u).state.flash = u.flash) : t.flash = s.flash :=
  takeRequest_keeps (P := fun u => u.flash = s.flash) h rfl fun _ => (reply_flash ..).trans (hf s.atRequest)

end

/-! ## Requests -/

section
variable (s : State)

theorem carrySetMode_flash (args : List Byte) : (carrySetMode args s).state.flash = s.flash := by
  refine withLength_flash ?_
  dsimp only
  repeat' split
  any_goals rfl
  exact changeMode_flash ..

theorem carryReadTable_flash (args : List Byte) : (carryReadTable args s).state.flash = s.flash := by
  refine withLength_flash ?_
  dsimp only
  repeat' split
  all_goals rfl

theorem carryWriteTable_flash (args : List Byte) : (carryWriteTable args s).state.flash = s.flash := by
  unfold carryWriteTable
  dsimp only
  split
  · rfl
  · split
    · rfl
    · exact writeTable_flash ‹_›

theorem carryOpenDay_flash (args : List Byte) : (carryOpenDay args s).state.flash = s.flash := by
  refine withLength_flash ?_
  dsimp only
  split
  · rfl
  · simp [State.openDay, State.dayBuilt]

theorem carryCloseDay_flash (args : List Byte) : (carryCloseDay args s).state.flash = s.flash := by
  refine withLength_flash ?_
  repeat' split
  iterate 2 rfl
  simp [State.closeDay, State.dayEmptied]

theorem carryPostGrants_flash (args : List Byte) : (carryPostGrants args s).state.flash = s.flash := by
  unfold carryPostGrants
  dsimp only
  repeat' split
  iterate 3 rfl
  all_goals exact startRun_flash _

theorem voidPass_flash (i : Fin 64) (ticket : Nat) : (s.voidPass i ticket).1.flash = s.flash := by
  unfold State.voidPass State.voidRecord
  dsimp only
  repeat' split
  all_goals rfl

theorem carryVoidPass_flash (args : List Byte) : (carryVoidPass args s).state.flash = s.flash := by
  refine withLength_flash ?_
  dsimp only
  split
  · exact voidPass_flash ..
  · rfl

theorem carryQueryPass_flash (args : List Byte) : (carryQueryPass args s).state.flash = s.flash := by
  refine withLength_flash ?_
  dsimp only
  repeat' split
  all_goals rfl

theorem carryClearAttention_flash (args : List Byte) : (carryClearAttention args s).state.flash = s.flash := by
  refine withLength_flash ?_
  dsimp only
  split
  · rfl
  · exact evaluateEach_flash ..

theorem carryInjectNotice_flash (args : List Byte) : (carryInjectNotice args s).state.flash = s.flash := by
  refine withLength_flash ?_
  dsimp only
  split
  · exact evaluate_flash ..
  · rfl

theorem carryResetSegment_flash (segment : Byte) : (carryResetSegment segment s).state.flash = s.flash := by
  unfold carryResetSegment
  split <;> rfl

theorem carryReadStatus_flash (args : List Byte) : (carryReadStatus args s).state.flash = s.flash := by
  refine withLength_flash ?_
  dsimp only
  repeat' split
  all_goals rfl

theorem carryFlashRead_flash (args : List Byte) (given : Nat) : (carryFlashRead args given s).state.flash = s.flash := by
  refine withLength_flash ?_
  dsimp only
  split <;> rfl

/-! ## Lane actions -/

theorem takeEntry_flash (i : Fin 64) (c : Nat) : (s.takeEntry i c).flash = s.flash := by
  unfold State.takeEntry State.onOpenDay
  split <;> rfl

theorem takeBoarding_flash (i : Fin 64) (c c2 : Nat) : (s.takeBoarding i c c2).flash = s.flash := by
  unfold State.takeBoarding State.onOpenDay
  dsimp only
  repeat' split
  · rfl
  · exact evaluate_flash ..
  · rfl

theorem passRequest_flash (i : Fin 64) (ticket party : Nat) : (s.passRequest i ticket party).1.flash = s.flash := by
  unfold State.passRequest
  split
  · rfl
  · exact evaluate_flash ..
  · rfl

theorem passReturn_flash (i : Fin 64) (ticket event : Nat) : (s.passReturn i ticket event).1.flash = s.flash := by
  unfold State.passReturn
  repeat' split
  all_goals rfl

theorem takePassRequest_flash (o : ScanOrigin) (i : Fin 64) (ticket party : Nat) :
    (s.takePassRequest o i ticket party).flash = s.flash :=
  (sendAnswer_flash ..).trans (passRequest_flash ..)

theorem takePassReturn_flash (o : ScanOrigin) (i : Fin 64) (ticket stamp receipt : Nat) :
    (s.takePassReturn o i ticket stamp receipt).flash = s.flash :=
  (sendAnswer_flash ..).trans (passReturn_flash (s.count _) ..)

theorem takeRideStatus_flash (i : Fin 64) (status : Nat) : (s.takeRideStatus i status).flash = s.flash := by
  unfold State.takeRideStatus State.autoDown State.autoRestart
  dsimp only
  repeat' split
  · rfl
  · exact changeMode_flash ..
  · rfl
  · exact changeMode_flash ..
  iterate 2 rfl

/-! ## Frames -/

theorem receive_flash (p : Port) (bytes : List Byte) : (s.receive p bytes).flash = s.flash := by
  unfold State.receive
  repeat' split
  iterate 4 rfl
  exact evaluate_flash ..

@[simp] theorem routeByWindow_flash (arrival : Port) (bytes : List Byte) : (s.routeByWindow arrival bytes).flash = s.flash := by
  unfold State.routeByWindow
  dsimp only
  split
  · exact List.foldlRecOn (motive := fun u : State => u.flash = s.flash) _ _ rfl fun u hu p _ => (forward_flash u p bytes).trans hu
  · repeat' split
    all_goals simp

@[simp] theorem handToLane_flash (c : Scan) (o : Option (Fin 64)) (f : Fin 64 → ScanAction) :
    (s.handToLane c o f).flash = s.flash := by
  unfold State.handToLane
  split <;> rfl

theorem decideScan_flash (c : Scan) : (s.decideScan c).1.flash = s.flash := by
  unfold State.decideScan
  split <;> rfl

theorem classify_flash (segment : Fin 6) (f : RxFrame) : (s.classify segment f).flash = s.flash := by
  unfold State.classify
  split
  · rfl
  · refine .trans ?_ (decideScan_flash s (scanOf segment f))
    dsimp only
    split <;> simp

theorem zoneClear_flash (k : Fin 6) (bytes : List Byte) : (s.zoneClear k bytes).flash = s.flash := by
  unfold State.zoneClear
  dsimp only
  repeat' split
  · rfl
  · exact evaluate_flash ..
  · rfl

theorem handRequest_flash (bytes : List Byte) : (s.handRequest bytes).flash = s.flash := by
  unfold State.handRequest
  dsimp only
  repeat' split
  · rfl
  · exact reply_flash ..
  · exact reply_flash ..
  · rfl

theorem routeRows_flash (arrival : Port) (f : RxFrame) : (s.routeRows arrival f).flash = s.flash := by
  unfold State.routeRows
  dsimp only
  repeat' split
  · rfl
  · rfl
  · rfl
  · exact handRequest_flash ..
  · rfl
  · exact zoneClear_flash ..
  · rfl
  · exact classify_flash ..
  · exact routeByWindow_flash ..
  · exact routeByWindow_flash ..

theorem routeHead_flash (p : Port) : (s.routeHead p).flash = s.flash := by
  unfold State.routeHead
  repeat' split
  · rfl
  · rfl
  · exact routeRows_flash ..

theorem startSending_flash (p : Port) : (s.startSending p).flash = s.flash := by
  unfold State.startSending State.startNotice
  repeat' split
  all_goals rfl

theorem finishSending_flash (p : Port) : (s.finishSending p).flash = s.flash := by
  unfold State.finishSending
  simp only [replySent_eq]
  repeat' split
  · rfl
  · exact roomNotice_flash ..
  iterate 2 rfl

theorem offerBoards_flash (p : Port) (fuel : Nat) : (s.offerBoards p fuel).flash = s.flash := by
  induction fuel generalizing s with
  | zero => rfl
  | succ fuel ih =>
    unfold State.offerBoards
    dsimp only
    repeat' split
    · rfl
    · exact ih _
    · rfl

theorem offerAttention_flash (d : Port) : (s.offerAttention d).flash = s.flash := by
  unfold State.offerAttention
  repeat' split
  all_goals rfl

/-! ## The loader and the clock -/

theorem probe_flash (header : Option Nat) : (s.probe header).flash = s.flash := by
  unfold State.probe
  dsimp only
  repeat' split
  all_goals simp

theorem loadEntry_flash (given : Nat) : (s.loadEntry given).flash = s.flash := by
  by_cases loading : s.loader.state = .loading
  · have applied : (s.entryApplied given).flash = s.flash := (entryApplied_keeps s given).2.2.2.2
    rw [loadEntry_eq s given loading]
    repeat' split
    · simp [State.truncateLoad]
    · exact (loaderReady_flash ..).trans applied
    · exact applied
  · exact congrArg State.flash (if_pos loading)

theorem second_flash : s.second.flash = s.flash := by
  unfold State.second
  split <;> rfl

theorem minuteBoundary_flash (n : Nat) : (s.minuteBoundary n).flash = s.flash :=
  (evaluateEach_flash ..).trans (startRun_flash _)

theorem periodBoundary_flash (d : PeriodDue) : (s.periodBoundary d).flash = s.flash :=
  (evaluateEach_flash ..).trans (markPublished_flash ..)

end

/-! ## Every command -/

/-- The commands that may change the flash or its access state: the resets, a write accepted, and its completion (R185). -/
def reachesFlash : Instr → Bool
  | .powerReset | .engineReset | .resetInputAsserted | .flashWrite .. | .flashWriteComplete _ => true
  | _ => false

/-- Every other command leaves the flash, its access state and the write in progress as they are. -/
theorem exec_flash {c : Instr} {s t : State} (h : exec c s = .next t) (other : reachesFlash c = false) : t.flash = s.flash := by
  cases c with
  | powerReset | engineReset | resetInputAsserted | flashWrite | flashWriteComplete => cases other
  | segmentReset k => exact whileReleased_flash h (by split <;> [exact resetSegmentPort_flash ..; rfl])
  | secondArrival => exact whileReleased_flash h (second_flash s)
  | minuteBoundary =>
    rw [exec, execMinuteBoundary] at h
    exact whileReleased_flash h (by split <;> [rfl; exact minuteBoundary_flash ..])
  | periodBoundary =>
    rw [exec, execPeriodBoundary] at h
    exact whileReleased_flash h (by split <;> [rfl; exact periodBoundary_flash ..])
  | clockEndLatch => exact whileReleased_flash h (by split <;> [exact evaluate_flash ..; rfl])
  | frameReceive p bytes => exact whileReleased_flash (f := (State.receive · p bytes)) h (receive_flash s p bytes)
  | routeFrame p => exact whileReleased_flash (f := (State.routeHead · p)) h (routeHead_flash s p)
  | countEntry i c => exact takeAction_flash h fun u => takeEntry_flash u i c
  | countBoarding i c c2 => exact takeAction_flash h fun u => takeBoarding_flash u i c c2
  | passRequest o i ticket party => exact takeAction_flash h fun u => takePassRequest_flash u o i ticket party
  | passReturn o i ticket stamp receipt => exact takeAction_flash h fun u => takePassReturn_flash u o i ticket stamp receipt
  | rideStatus i status => exact takeAction_flash h fun u => takeRideStatus_flash u i status
  | setMode _ args => exact takeRequest_flash h fun u => carrySetMode_flash u args
  | readTable _ args => exact takeRequest_flash h fun u => carryReadTable_flash u args
  | writeTable _ args => exact takeRequest_flash h fun u => carryWriteTable_flash u args
  | openDay _ args => exact takeRequest_flash h fun u => carryOpenDay_flash u args
  | closeDay _ args => exact takeRequest_flash h fun u => carryCloseDay_flash u args
  | postGrants _ args => exact takeRequest_flash h fun u => carryPostGrants_flash u args
  | grantResolve =>
    exact whileReleased_flash h (by split <;> [exact (giveGrantHeld_flash ..).trans (resolveHead_flash s); rfl])
  | voidPass _ args => exact takeRequest_flash h fun u => carryVoidPass_flash u args
  | queryPass _ args => exact takeRequest_flash h fun u => carryQueryPass_flash u args
  | clearAttention _ args => exact takeRequest_flash h fun u => carryClearAttention_flash u args
  | injectNotice _ args => exact takeRequest_flash h fun u => carryInjectNotice_flash u args
  | resetEngine _ _ => exact takeRequest_flash h fun _ => rfl
  | resetSegment _ segment => exact takeRequest_flash h fun u => carryResetSegment_flash u segment
  | readStatus _ args => exact takeRequest_flash h fun u => carryReadStatus_flash u args
  | flashRead _ args given => exact takeRequest_flash h fun u => carryFlashRead_flash u args given
  | flashStatus _ args => exact takeRequest_flash h fun _ => withLength_flash rfl
  | mgmtReplyOffer =>
    rw [exec, execMgmtReplyOffer] at h
    refine whileReleased_flash h ?_
    repeat' split
    · exact offerReply_flash ..
    · rfl
    · rfl
  | boardFrameOffer p => exact whileReleased_flash h (by split <;> [exact offerBoards_flash ..; rfl])
  | attnFrameOffer d => exact whileReleased_flash h (by split <;> [exact offerAttention_flash ..; rfl])
  | transmitStart p => exact whileReleased_flash (f := (State.startSending · p)) h (startSending_flash s p)
  | transmitComplete p => exact whileReleased_flash (f := (State.finishSending · p)) h (finishSending_flash s p)
  | loaderProbe header => exact whileReleased_flash (f := (State.probe · header)) h (probe_flash s header)
  | loaderEntry given => exact whileReleased_flash (f := (State.loadEntry · given)) h (loadEntry_flash s given)

end Sys2Proof.Machine
end

section
/-! The flash law kept by every step, a FLASH_WRITE from its request to its completion, the POWER reset, and the resets that a request
asks for. -/

namespace Sys2Proof.Machine

/-! ## The checks of a request (R184, R185) -/

/-- The checks let a request through exactly when it asks for 1 to 64 bytes within the image space and no write is in progress. -/
theorem flashCheck_none {s : State} {offset length : Nat} : flashCheck s offset length = none ↔
    1 ≤ length ∧ length ≤ 64 ∧ offset + length ≤ 65536 ∧ s.flash.access ≠ .busy := by
  have size : Config.flashSize = 65536 := rfl
  unfold flashCheck
  split
  · exact ⟨nofun, fun ⟨_, _, _⟩ => by omega⟩
  · split
    · exact ⟨nofun, fun ⟨_, _, _, _⟩ => by omega⟩
    · split
      · next busy => exact ⟨nofun, fun ⟨_, _, _, free⟩ => absurd busy free⟩
      · next free => exact ⟨fun _ => ⟨by omega, by omega, by omega, free⟩, fun _ => rfl⟩

/-! ## What keeps the law -/

section
variable {s t : State}

theorem State.FlashLaw.of_same (h : s.FlashLaw) (same : t.flash = s.flash) : t.FlashLaw := by
  unfold State.FlashLaw
  rw [same]
  exact h

/-- With no write in progress the canonical form is all that the law asks. -/
theorem State.FlashLaw.of_settled (wf : t.flash.mem.wf = true) (settled : t.flash.access ≠ .busy) : t.FlashLaw :=
  ⟨wf, fun busy => absurd busy settled⟩

/-- An ENGINE reset leaves a write that it abandons UNVERIFIED, and of the bytes only those of its range change (R185). -/
theorem engineReset_flash (s : State) : s.engineReset.flash = s.abandonWrite.flash.afterEngine := by
  unfold State.engineReset
  dsimp only
  split
  · rfl
  · exact loaderReady_flash ..

theorem afterEngine_mem (f : Flash) : f.afterEngine.mem = f.mem := by
  unfold Flash.afterEngine
  split <;> rfl

theorem afterEngine_settled (f : Flash) : f.afterEngine.access ≠ .busy := by
  unfold Flash.afterEngine
  split
  · nofun
  · assumption

variable (h : s.FlashLaw)
include h

theorem State.FlashLaw.abandoned_wf : s.abandonWrite.flash.mem.wf = true :=
  abandonWrite_wf h.1 fun busy => (h.2 busy).1

theorem powerReset_flashLaw : s.powerReset.FlashLaw := .of_settled h.abandoned_wf nofun

theorem engineReset_flashLaw : s.engineReset.FlashLaw := by
  refine .of_settled ?_ ?_
  · rw [engineReset_flash, afterEngine_mem]
    exact h.abandoned_wf
  · rw [engineReset_flash]
    exact afterEngine_settled _

theorem assertReset_flashLaw : s.assertReset.FlashLaw := by
  refine .of_settled (assertReset_mem s ▸ h.abandoned_wf) ?_
  by_cases busy : s.flash.access = .busy
  · rw [assertReset_busy s busy]
    nofun
  · rw [(assertReset_idle s busy).1]
    exact busy

theorem completeWrite_flashLaw (verified : Bool) : (s.completeWrite verified).FlashLaw := by
  refine .of_settled (completeWrite_wf verified h.1 fun busy => ?_) ?_
  · obtain ⟨within, length⟩ := h.2 busy
    exact ⟨length ▸ within, within⟩
  · unfold State.completeWrite
    split
    · nofun
    · assumption

/-- A write is accepted only within the image space, and with the bytes that its length names (R185). -/
theorem carryFlashWrite_flashLaw (args : List Byte) : (carryFlashWrite args s).state.FlashLaw := by
  unfold carryFlashWrite
  dsimp only
  split
  · exact h
  · next length =>
    split
    · exact h
    · next accepted =>
      obtain ⟨-, -, within, -⟩ := flashCheck_none.1 accepted
      have held : (args.drop 3).length = fieldAt args 2 1 := by
        rw [List.length_drop]
        omega
      exact ⟨h.1, fun _ => ⟨within, held⟩⟩

theorem exec_flashLaw {c : Instr} (run : exec c s = .next t) : t.FlashLaw := by
  cases c with
  | powerReset => cases run; exact powerReset_flashLaw h
  | engineReset =>
    refine whileReleased_keeps run h fun _ => ?_
    split
    · exact engineReset_flashLaw h
    · exact h
  | flashWrite _ args =>
    refine takeRequest_keeps run h fun _ => .of_same ?_ (reply_flash ..)
    exact carryFlashWrite_flashLaw (s := s.atRequest) h args
  | flashWriteComplete verified =>
    exact whileReleased_keeps (f := (State.completeWrite · verified)) run h fun _ => completeWrite_flashLaw h verified
  | resetInputAsserted =>
    cases run
    split
    · exact h
    · exact assertReset_flashLaw h
  | _ => exact h.of_same (exec_flash run rfl)

end

/-- Settles O10: four events end a write or let it go, an accepted FLASH_WRITE begins one within the image space, and no other command
reaches the flash. -/
theorem stepKeepsFlashLaw : Obligations.StepKeepsFlashLaw := by
  intro s t hs run
  unfold step at run
  split at run
  · cases run; exact hs
  · refine exec_flashLaw ?_ run
    exact hs.of_same rfl

/-! ## The POWER reset (R185, R187) -/

/-- Settles O12: the reset's own equation, and the bytes that abandoning a write leaves alone. -/
theorem powerResetRestoresDefaults : Obligations.PowerResetRestoresDefaults := fun s =>
  ⟨s.powerReset, rfl, rfl, rfl, fun _ outside => abandonWrite_read outside⟩

/-! ## RESET (R182) -/

theorem carryResetSegment_hands {s : State} {segment : Byte} {k : Fin 6} (here : k.val = segment.toNat) :
    carryResetSegment segment s =
      ⟨{ s with segmentResetsDue := put s.segmentResetsDue k (s.segmentResetsDue.get k + 1) }, .ok, [2, segment], false⟩ := by
  obtain ⟨_, lt⟩ := k
  subst here
  exact dif_pos lt

theorem carryResetSegment_refused {s : State} {segment : Byte} (above : 5 < segment.toNat) :
    carryResetSegment segment s = refuse s .badIndex (unstated codeReset 0 2) := dif_neg (by omega)

/-- The reply of RESET ENGINE, queued with room on TP (R182). -/
theorem resetEngine_queued {s : State} {h : MgmtHeader} {segment : Byte}
    (taken : s.TakesRequest ⟨h.source, h.tag, 11, [1, segment]⟩) (room : (s.port .tp).tx.length < 48) :
    exec (.resetEngine h segment) s = .next { s.enqueue .tp ⟨buildFrame 0x16 h.source s.park.nodeAddress
        (le16 h.tag ++ [11, 0, 1, Config.unstatedReplyByte 11 1]), .engineReply⟩ with
      agent := ⟨.resetting, none, none, 0⟩ } := by
  have answered : exec (.resetEngine h segment) s =
      .next (s.atRequest.reply _ .ok (byteOf levelEngine :: unstated codeReset 1 1) true) := takeRequest_answered taken rfl
  rw [answered, State.reply, offerReply_queued (s := s.atRequest) _ true taken.serving.linkUp_trunk room]
  rfl

/-- The completed transmission of that reply gives the reset to the reset path (R182). -/
theorem transmitComplete_engineReply {s : State} {frame : List Byte} {rest : List TxFrame} (released : s.resetHeld = false)
    (resetting : s.agent.mode = .resetting) (sending : (s.port .tp).sending = true)
    (head : (s.port .tp).tx = ⟨frame, .engineReply⟩ :: rest) :
    ∃ t, exec (.transmitComplete .tp) s = .next t ∧ t.engineResetDue = true := by
  refine ⟨s.finishSending .tp, whileReleased_released released (State.finishSending · .tp), ?_⟩
  have due : ((s.sent .tp rest).replySent ⟨frame, .engineReply⟩).engineResetDue = true :=
    congrArg State.engineResetDue (if_pos ⟨rfl, resetting⟩)
  rw [finishSending_head head sending]
  split
  · exact (roomNotice_engineResetDue ..).trans due
  · exact due

/-- Settles O50: the segment's reset handed over in the request's own step, the engine's only when its reply has been sent. -/
theorem resetRequestsAreHandedOn : Obligations.ResetRequestsAreHandedOn := by
  refine ⟨fun s h segment => ?segment, fun s h segment taken room => ?engine, fun s frame rest released resetting sending head =>
    transmitComplete_engineReply released resetting sending head⟩
  case segment =>
    intro req taken
    exact ⟨fun k here => takeRequest_answered taken (carryResetSegment_hands here),
      fun above => ⟨_, takeRequest_refused taken (carryResetSegment_refused above)⟩⟩
  case engine =>
    exact ⟨_, _, resetEngine_queued taken room, rfl, fun p other => setPort_port_other s _ other, setPort_port_same s _ _⟩

/-! ## FLASH_WRITE (R184, R185) -/

/-- The arguments of FLASH_WRITE: the offset, the length and the bytes (R197). -/
def flashWriteArgs (offset : Nat) (data : List Byte) : List Byte := le16 offset ++ [byteOf data.length] ++ data

section
variable {s : State} {offset : Nat} {data : List Byte} (inRange : offset < 65536) (short : data.length < 256)

include inRange in
theorem fieldAt_flashWriteArgs_offset : fieldAt (flashWriteArgs offset data) 0 2 = offset := fromLe_le16 inRange

include short in
theorem fieldAt_flashWriteArgs_length : fieldAt (flashWriteArgs offset data) 2 1 = data.length :=
  (fieldAt_byte ..).trans (byteOf_toNat_of_lt short)

include short in
theorem flashWriteArgs_fit : (flashWriteArgs offset data).length = 3 + fieldAt (flashWriteArgs offset data) 2 1 := by
  rw [fieldAt_flashWriteArgs_length short, flashWriteArgs, List.length_append]
  rfl

include inRange short

theorem carryFlashWrite_refused {st : Status} (check : flashCheck s offset data.length = some st) :
    carryFlashWrite (flashWriteArgs offset data) s = refuse s st (unstated codeFlashWrite 0 3) := by
  unfold carryFlashWrite
  dsimp only
  rw [if_neg (not_not_intro (flashWriteArgs_fit short)), fieldAt_flashWriteArgs_offset inRange, fieldAt_flashWriteArgs_length short,
    check]

theorem carryFlashWrite_accepted (check : flashCheck s offset data.length = none) :
    carryFlashWrite (flashWriteArgs offset data) s =
      ⟨{ s with flash := { s.flash with
          access := .busy, lastWriteOk := false, offset := offset, length := data.length, data := data } },
        .ok, le16 offset ++ [byteOf data.length], false⟩ := by
  unfold carryFlashWrite
  dsimp only
  rw [if_neg (not_not_intro (flashWriteArgs_fit short)), fieldAt_flashWriteArgs_offset inRange, fieldAt_flashWriteArgs_length short,
    check]
  rfl

end

section
variable {s : State} (released : s.resetHeld = false) (busy : s.flash.access = .busy)
include released busy

theorem flashWriteComplete_verified : exec (.flashWriteComplete true) s = .next { s with
    flash := { s.flash with access := .idle, lastWriteOk := true, mem := s.flash.mem.writeAll s.flash.offset s.flash.data } } :=
  (whileReleased_released released (State.completeWrite · true)).trans (congrArg Host.Outcome.next (if_pos busy))

theorem flashWriteComplete_unverified : exec (.flashWriteComplete false) s = .next { s with
    flash := { s.flash with access := .idle, lastWriteOk := false, mem := s.undefineRange.flash.mem }
    freeDraws := s.freeDraws + 1 } :=
  (whileReleased_released released (State.completeWrite · false)).trans (congrArg Host.Outcome.next (if_pos busy))

end

/-- Settles O51: the checks in their order, the write in progress, and what either completion stores. -/
theorem flashWriteAndItsCompletion : Obligations.FlashWriteAndItsCompletion := by
  refine ⟨?accepted, ?refused, fun s released law busy => ⟨⟨_, flashWriteComplete_verified released busy, rfl, fun a => ?stored⟩,
    ⟨_, flashWriteComplete_unverified released busy, rfl, fun a outside => undefineRange_read outside⟩⟩⟩
  case accepted =>
    intro s h offset data within some64 most free args req taken
    exact takeRequest_answered taken (carryFlashWrite_accepted (by omega) (by omega) (flashCheck_none.2 ⟨some64, most, within, free⟩))
  case refused =>
    intro s h offset data inRange short args req refused taken
    have size : Config.flashSize = 65536 := rfl
    have refuses {st : Status} (check : flashCheck s.atRequest offset data.length = some st) : refused st :=
      ⟨_, takeRequest_refused taken (carryFlashWrite_refused inRange short check)⟩
    refine ⟨fun length => refuses (if_pos length), fun one most past => refuses ?_, fun one most within busy => refuses ?_⟩
    · exact (if_neg (by omega)).trans (if_pos past)
    · exact (if_neg (by omega)).trans ((if_neg (by omega)).trans (if_pos busy))
  case stored =>
    obtain ⟨within, length⟩ := law.2 busy
    rw [← length] at within ⊢
    exact Memory.read_writeAll a law.1 within

end Sys2Proof.Machine
end
